-- ==== Sys2Proof/Word.lean ====
section
/-! DEFINITION. The word types of the register space and of memory, and the reading of a bit field as a number. -/

namespace Sys2Proof

/-- A register, packet word or FP32 pattern: 32 bits (R11). -/
abbrev Word := BitVec 32
/-- A byte of memory. -/
abbrev Byte := BitVec 8
/-- A 64-bit quantity: two consecutive words, low word first (R11). -/
abbrev DWord := BitVec 64

/-- Bits `hi:lo` of a number, as a number (the spec writes ranges high:low, bit 0 least significant). -/
def fld (w hi lo : Nat) : Nat := (w >>> lo) % 2 ^ (hi + 1 - lo)

/-- Bit `i` of a number. -/
def bit (w i : Nat) : Bool := (w >>> i) % 2 == 1

/-- One as a number when the flag is set: a flag's place in a register. -/
def b2n (b : Bool) : Nat := if b then 1 else 0

/-- A number as a register word. -/
def wd (n : Nat) : Word := BitVec.ofNat 32 n

/-- The ceiling of a quotient, 0 when the divisor is 0. -/
def cdiv (a b : Nat) : Nat := (a + b - 1) / b

/-- Counts of the manual saturate at their largest value. -/
def satAdd (limit a b : Nat) : Nat := min limit (a + b)

end Sys2Proof
end

