-- ==== Sys2Proof/Syntax.lean ====
section
/-! DEFINITION. The commands of the block: one constructor per row of spec/opcode_table.json. The table gives no row any bits, so
the operands are the model's: what the event carries by its rule (a register value, a message, a reading), and which unit it is. -/

namespace Sys2Proof

/-- The operand fields of a rib instruction (R242). -/
structure RibArgs where
  vd : BitVec 6 := 0
  va : BitVec 6 := 0
  vb : BitVec 6 := 0
  vc : BitVec 6 := 0
  pr : BitVec 3 := 0
  pn : Bool := false
  md : BitVec 4 := 0
  imm : BitVec 24 := 0
  deriving DecidableEq, Repr

/-- What the check of stored data finds in one access (R377 to R379): words corrected, whether a line is uncorrectable, and the byte of
the access at which it was found. -/
structure Finding where
  corrected : Nat := 0
  uncorrectable : Bool := false
  place : Nat := 0
  deriving DecidableEq, Repr

/-- A received block of the link layer (R425): its header and its flit bytes, how many of its codewords were uncorrectable (R426, R465),
whether it is an idle block (R427), and the codewords whose symbols were corrected (R465). -/
structure Block where
  header : BitVec 64 := 0
  flits : List Byte := []
  codewordsBad : Nat := 0
  idle : Bool := false
  corrected : Nat := 0
  deriving DecidableEq, Repr

/-- A Hoop message (R435): the fields of its header flit, its payload, and the port it arrives on. The length of a GET_REQ is the bytes it
asks for (log 38). -/
structure Msg where
  port : Nat := 0
  dest : BitVec 16 := 0
  src : BitVec 16 := 0
  tag : BitVec 16 := 0
  object : BitVec 12 := 0
  offset : BitVec 52 := 0
  step : BitVec 16 := 0
  aux : BitVec 16 := 0
  data : List Byte := []
  length : BitVec 13 := 0
  deriving DecidableEq, Repr

/-- What one rail answers to a PMBus poll (R512 to R514): its STATUS_WORD and its telemetry, the watts of the engine's parts that are
not clocked by ACLK or VCLK (R497, log 148). -/
structure RailAnswer where
  answers : Bool := true
  outputFault : Bool := false
  powerGood : Bool := true
  watts : Nat := 0
  deriving DecidableEq, Repr

/-- The commands. -/
inductive Instr where
  /-- DOORBELL (R44). -/
  | doorbell (q : Nat) (v : Word)
  /-- PACKET_ACCEPT (R46). -/
  | packetAccept
  /-- COMMAND_RETIRE (R71). -/
  | commandRetire (id : Nat) (inconsistent : Bool)
  /-- NOP (R74). -/
  | nop (q : Nat)
  /-- FENCE (R74). -/
  | fence (q : Nat)
  /-- SIGNAL (R74). -/
  | signal (q : Nat)
  /-- WAIT (R74). -/
  | waitEvents (q : Nat)
  /-- GEMM (R75). -/
  | gemm (q : Nat)
  /-- GEMM2 (R192). -/
  | gemm2 (q : Nat)
  /-- CONVERT (R268). -/
  | convert (q : Nat)
  /-- ROWSTAT (R262). -/
  | rowstat (q : Nat)
  /-- SOFTMAX (R267). -/
  | softmax (q : Nat)
  /-- ATTN_FWD (R166). -/
  | attnFwd (q : Nat)
  /-- ATTN_BWD (R195). -/
  | attnBwd (q : Nat)
  /-- ATTN_DECODE (R225). -/
  | attnDecode (q : Nat)
  /-- SCAN_FWD (R212). -/
  | scanFwd (q : Nat)
  /-- SCAN_BWD (R220). -/
  | scanBwd (q : Nat)
  /-- SEQ_OPEN (R328). -/
  | seqOpen (q : Nat)
  /-- SEQ_CLOSE (R328). -/
  | seqClose (q : Nat)
  /-- KV_APPEND (R329). -/
  | kvAppend (q : Nat)
  /-- KV_FORK (R328). -/
  | kvFork (q : Nat)
  /-- KV_TRIM (R331). -/
  | kvTrim (q : Nat)
  /-- KV_EVICT (R332). -/
  | kvEvict (q : Nat)
  /-- KV_PIN (R333). -/
  | kvPin (q : Nat)
  /-- XL_MAP (R405). -/
  | xlMap (q : Nat)
  /-- XL_INVAL (R406). -/
  | xlInval (q : Nat)
  /-- WIN_OPEN (R411). -/
  | winOpen (q : Nat)
  /-- WIN_CLOSE (R413). -/
  | winClose (q : Nat)
  /-- WINDOW_CLOSE_COMPLETE (R413). -/
  | windowCloseComplete (w : Nat)
  /-- RING_SWEEP (R442). -/
  | ringSweep (q : Nat)
  /-- RING_STEP_COMMIT (R444). -/
  | ringStepCommit (r : Nat)
  /-- ALLREDUCE (R454). -/
  | allreduce (q : Nat)
  /-- ALLREDUCE_V (R460). -/
  | allreduceV (q : Nat)
  /-- PUT (R436). -/
  | putRemote (q : Nat)
  /-- GET (R437). -/
  | getRemote (q : Nat)
  /-- CFG_WRITE_SHADOW (R505). -/
  | cfgWriteShadow (q : Nat)
  /-- CFG_SWAP (R506). -/
  | cfgSwap (q : Nat)
  /-- TALLY_SNAP (R472). -/
  | tallySnap (q : Nat)
  /-- SCALE_UPDATE (R476). -/
  | scaleUpdate (q : Nat)
  /-- CHECKPOINT (R526). -/
  | checkpoint (q : Nat)
  /-- ADOPT (R532). -/
  | adopt (q : Nat)
  /-- REPLAY (R536). -/
  | replay (q : Nat)
  /-- ENGINE_RESET (R501). -/
  | engineReset (q : Nat)
  /-- QUEUE_ABORT (R83). -/
  | queueAbort (q : Nat)
  /-- ABORT_COMPLETE (R49). -/
  | abortComplete (q : Nat)
  /-- QUEUE_ENABLE (R50). -/
  | queueEnable (q : Nat) (v : Word)
  /-- QUEUE_DISABLE (R49). -/
  | queueDisable (q : Nat) (v : Word)
  /-- QUEUE_DISABLE_COMPLETE (R49). -/
  | queueDisableComplete (q : Nat)
  /-- RESUME (R52). -/
  | resume (q : Nat) (v : Word)
  /-- CP_EVENT_WRITE (R67). -/
  | cpEventWrite (e : Nat) (v : Word)
  /-- WORK_ITEM_ASSIGN (R302). -/
  | workItemAssign (a : Nat) (f : Finding)
  /-- ARRAY_REFORM (R137). -/
  | arrayReform (a form : Nat)
  /-- LATCH_COPY (R141). -/
  | latchCopy (a t : Nat)
  /-- DRAIN_COMPLETE (R139). -/
  | drainComplete (a : Nat) (f : Finding)
  /-- ARRAY_FAULT (R159). -/
  | arrayFault (a t cause : Nat)
  /-- ARRAY_PROGRESS_TIMEOUT (R159). -/
  | arrayProgressTimeout (a t : Nat)
  /-- ARRAY_OFFLINE (R160). -/
  | arrayOffline (a : Nat)
  /-- WV_CFG_WRITE (R148). -/
  | wvCfgWrite (a : Nat) (v : Word)
  /-- WV_COL_BYPASS_WRITE (R148). -/
  | wvColBypassWrite (a k : Nat) (v : Word)
  /-- HELD_ARRAY_WRITE_APPLY (R29). -/
  | heldArrayWriteApply (a : Nat)
  /-- WV_BIST_RUN (R165). -/
  | wvBistRun (a : Nat) (v : Word)
  /-- BIST_DONE (R165). -/
  | bistDone (a : Nat) (failed : BitVec 128)
  /-- PROGRAM_LOAD (R246). -/
  | programLoad (a id : Nat)
  /-- BANK_SWITCH (R246). -/
  | bankSwitch (a : Nat)
  /-- PASS_START (R241). -/
  | passStart (a : Nat) (f : Finding)
  /-- BEAT (R238). -/
  | beat (a : Nat) (f : Finding)
  /-- SWEEP_FINISH (R177). -/
  | sweepFinish (a : Nat) (f : Finding)
  /-- D_PASS (R205). -/
  | dPass (id : Nat)
  /-- BAND_START (R206). -/
  | bandStart (id : Nat)
  /-- DQ_PARTIAL_COMBINE (R311). -/
  | dqPartialCombine (a : Nat)
  /-- DQ_FINISH (R205). -/
  | dqFinish (id : Nat)
  /-- DECODE_COMBINE (R230). -/
  | decodeCombine (id tile : Nat) (f : Finding)
  /-- PARTIAL_COMBINE (R310). -/
  | partialCombine (a : Nat) (f : Finding)
  /-- FINISH_ITEM (R309). -/
  | finishItem (a : Nat) (f : Finding)
  /-- SLOT_READY (R364). -/
  | slotReady (a r : Nat) (f g : Finding)
  /-- SLOT_FREE (R364). -/
  | slotFree (a r : Nat) (f : Finding)
  /-- SEED_SWAP (R256). -/
  | seedSwap (a : Nat) (v : Word)
  /-- SEED_SWAP_EXCHANGE (R256). -/
  | seedSwapExchange (a : Nat)
  /-- RB_SEED_DATA_WRITE (R257). -/
  | rbSeedDataWrite (a : Nat) (v : Word)
  /-- RB_SEED_DATA_READ (R274). -/
  | rbSeedDataRead (a : Nat)
  /-- RB_BROADCAST_WRITE (R274). -/
  | rbBroadcastWrite (off : Nat) (v : Word)
  /-- RIB_NOP (R244). -/
  | ribNop (a : Nat) (x : RibArgs)
  /-- MOV (R244). -/
  | mov (a : Nat) (x : RibArgs)
  /-- SEL (R244). -/
  | sel (a : Nat) (x : RibArgs)
  /-- LDB (R244). -/
  | ldb (a : Nat) (x : RibArgs)
  /-- STB (R244). -/
  | stb (a : Nat) (x : RibArgs)
  /-- KONST (R244). -/
  | konst (a : Nat) (x : RibArgs)
  /-- ROWV (R244). -/
  | rowv (a : Nat) (x : RibArgs)
  /-- COLV (R244). -/
  | colv (a : Nat) (x : RibArgs)
  /-- LANEIDX (R244). -/
  | laneidx (a : Nat) (x : RibArgs)
  /-- LSWP (R244). -/
  | lswp (a : Nat) (x : RibArgs)
  /-- FADD (R128). -/
  | fadd (a : Nat) (x : RibArgs)
  /-- FSUB (R128). -/
  | fsub (a : Nat) (x : RibArgs)
  /-- FMUL (R128). -/
  | fmul (a : Nat) (x : RibArgs)
  /-- FFMA (R128). -/
  | ffma (a : Nat) (x : RibArgs)
  /-- FDIV (R128). -/
  | fdiv (a : Nat) (x : RibArgs)
  /-- FSQRT (R128). -/
  | fsqrt (a : Nat) (x : RibArgs)
  /-- FMIN (R244). -/
  | fmin (a : Nat) (x : RibArgs)
  /-- FMAX (R244). -/
  | fmax (a : Nat) (x : RibArgs)
  /-- FCMP (R244). -/
  | fcmp (a : Nat) (x : RibArgs)
  /-- FSGN (R244). -/
  | fsgn (a : Nat) (x : RibArgs)
  /-- FSCALE (R244). -/
  | fscale (a : Nat) (x : RibArgs)
  /-- FEXPO (R244). -/
  | fexpo (a : Nat) (x : RibArgs)
  /-- FCVT (R244). -/
  | fcvt (a : Nat) (x : RibArgs)
  /-- DADD (R128). -/
  | dadd (a : Nat) (x : RibArgs)
  /-- DSUB (R128). -/
  | dsub (a : Nat) (x : RibArgs)
  /-- DMUL (R128). -/
  | dmul (a : Nat) (x : RibArgs)
  /-- DFMA (R128). -/
  | dfma (a : Nat) (x : RibArgs)
  /-- DDIV (R128). -/
  | ddiv (a : Nat) (x : RibArgs)
  /-- DSQRT (R128). -/
  | dsqrt (a : Nat) (x : RibArgs)
  /-- DCMP (R244). -/
  | dcmp (a : Nat) (x : RibArgs)
  /-- TURN (R259). -/
  | turn (a : Nat) (x : RibArgs)
  /-- IADD (R244). -/
  | iadd (a : Nat) (x : RibArgs)
  /-- ISUB (R244). -/
  | isub (a : Nat) (x : RibArgs)
  /-- IMUL (R244). -/
  | imul (a : Nat) (x : RibArgs)
  /-- IAND (R244). -/
  | iand (a : Nat) (x : RibArgs)
  /-- IOR (R244). -/
  | ior (a : Nat) (x : RibArgs)
  /-- IXOR (R244). -/
  | ixor (a : Nat) (x : RibArgs)
  /-- ISH (R244). -/
  | ish (a : Nat) (x : RibArgs)
  /-- ICMP (R244). -/
  | icmp (a : Nat) (x : RibArgs)
  /-- EXP (R252). -/
  | exp (a : Nat) (x : RibArgs)
  /-- EXP2 (R252). -/
  | exp2 (a : Nat) (x : RibArgs)
  /-- LOG2 (R570). -/
  | log2 (a : Nat) (x : RibArgs)
  /-- RCP (R254). -/
  | rcp (a : Nat) (x : RibArgs)
  /-- RSQRT (R254). -/
  | rsqrt (a : Nat) (x : RibArgs)
  /-- TANH (R251). -/
  | tanh (a : Nat) (x : RibArgs)
  /-- SINT (R259). -/
  | sint (a : Nat) (x : RibArgs)
  /-- COST (R259). -/
  | cost (a : Nat) (x : RibArgs)
  /-- GACT (R260). -/
  | gact (a : Nat) (x : RibArgs)
  /-- WEXP (R252). -/
  | wexp (a : Nat) (x : RibArgs)
  /-- WLOG (R253). -/
  | wlog (a : Nat) (x : RibArgs)
  /-- RSUM (R261). -/
  | rsum (a : Nat) (x : RibArgs)
  /-- RMAX (R261). -/
  | rmax (a : Nat) (x : RibArgs)
  /-- RACC (R261). -/
  | racc (a : Nat) (x : RibArgs)
  /-- ROWFIN (R266). -/
  | rowfin (a : Nat) (x : RibArgs)
  /-- STG (R269). -/
  | stg (a : Nat) (x : RibArgs)
  /-- DROP (R183). -/
  | drop (a : Nat) (x : RibArgs)
  /-- ADD_F32 (R354). -/
  | addF32 (pa : Nat) (vals : List Word)
  /-- TEST_SET (R354). -/
  | testSet (pa bit : Nat)
  /-- INC32 (R354). -/
  | inc32 (pa word : Nat)
  /-- SCRUB (R378). -/
  | scrub (bank row : Nat) (f : Finding)
  /-- TRANSFER_ISSUE (R367). -/
  | transferIssue (sk : Nat)
  /-- TRANSFER_COMPLETE (R372). -/
  | transferComplete (sk ch : Nat) (f : Finding)
  /-- PAGE_ENTRY_DELIVERY (R339). -/
  | pageEntryDelivery (sk : Nat) (f : Finding)
  /-- ST_RING_CFG_WRITE (R358). -/
  | stRingCfgWrite (v : Word)
  /-- RING_CFG_APPLY (R358). -/
  | ringCfgApply
  /-- ST_MDATA_WRITE (R382). -/
  | stMdataWrite (v : Word)
  /-- ST_MDATA_READ (R382). -/
  | stMdataRead (f : Finding)
  /-- MANAGEMENT_STAKE_WAIT_EXPIRY (R29). -/
  | managementStakeWaitExpiry
  /-- STACK_TEMP_READ (R375). -/
  | stackTempRead (n t : Nat)
  /-- PARITY_RETRY (R376). -/
  | parityRetry (n pa : Nat)
  /-- COIL_INIT (R344). -/
  | coilInit (v : Word)
  /-- COIL_INIT_DONE (R344). -/
  | coilInitDone
  /-- TRANSLATION (R388). -/
  | translation (agent ctx va : Nat) (write : Bool) (q tag word : Nat)
  /-- MISS_RETRY (R400). -/
  | missRetry (v : Word)
  /-- MISS_FAULT (R400). -/
  | missFault (v : Word)
  /-- MISS_TIMEOUT (R401). -/
  | missTimeout (seq : Nat)
  /-- AGENT_WITHDRAWAL_ACK (R406). -/
  | agentWithdrawalAck (agent : Nat)
  /-- SPLINT_ENABLE (R420). -/
  | splintEnable (v : Word)
  /-- SPLINT_READY (R420). -/
  | splintReady
  /-- SPLINT_DISABLE (R420). -/
  | splintDisable (v : Word)
  /-- SEGMENT_STORE (R419). -/
  | segmentStore (v : Word)
  /-- SEGMENT_LOAD (R419). -/
  | segmentLoad (v : Word)
  /-- PORT_ENABLE (R429). -/
  | portEnable (p : Nat) (v : Word)
  /-- PORT_TRAINING_DONE (R429). -/
  | portTrainingDone (p peer : Nat)
  /-- PORT_TRAINING_TIMEOUT (R429). -/
  | portTrainingTimeout (p : Nat)
  /-- PORT_RESET (R429). -/
  | portReset (p : Nat) (v : Word)
  /-- LINK_BLOCK (R426). -/
  | linkBlock (p : Nat) (b : Block)
  /-- LANE_ALIGNMENT_LOSS (R426). -/
  | laneAlignmentLoss (p lane : Nat)
  /-- PUT_DATA (R412). -/
  | putData (m : Msg)
  /-- PUT_ACK (R436). -/
  | putAck (m : Msg)
  /-- PUT_NACK (R414). -/
  | putNack (m : Msg)
  /-- GET_REQ (R437). -/
  | getReq (m : Msg)
  /-- GET_DATA (R437). -/
  | getData (m : Msg)
  /-- GET_NACK (R414). -/
  | getNack (m : Msg)
  /-- SHARD_DATA (R443). -/
  | shardData (m : Msg)
  /-- SHARD_DONE (R443). -/
  | shardDone (m : Msg)
  /-- SHARD_HOME (R448). -/
  | shardHome (m : Msg)
  /-- CHUNK_DATA (R458). -/
  | chunkData (m : Msg) (f : Finding)
  /-- CHUNK_SIGNAL (R458). -/
  | chunkSignal (m : Msg)
  /-- COUNTS (R461). -/
  | counts (m : Msg)
  /-- SLOT_GRANT (R458). -/
  | slotGrant (m : Msg)
  /-- LEAVE (R452). -/
  | leave (m : Msg)
  /-- HELLO (R520). -/
  | hello (m : Msg)
  /-- RING_STEP_WATCHDOG (R451). -/
  | ringStepWatchdog (r : Nat)
  /-- PUT_GET_WATCHDOG (R438). -/
  | putGetWatchdog (id : Nat)
  /-- TABLE_STORE (R466). -/
  | tableStore (v : Word)
  /-- TABLE_LOAD (R466). -/
  | tableLoad (v : Word)
  /-- TALLY_EVENT_ARRIVAL (R482). -/
  | tallyEventArrival (code unit n : Nat)
  /-- TL_CNT_WRITE (R483). -/
  | tlCntWrite (n : Nat) (v : Word) (events : Nat)
  /-- TL_CNT_READ (R482). -/
  | tlCntRead (n : Nat)
  /-- CLEAR_COUNTERS (R488). -/
  | clearCounters (v : Word)
  /-- FREEZE (R483). -/
  | freeze (v : Word)
  /-- TL_TAG_SEED_WRITE (R484). -/
  | tlTagSeedWrite (v : Word)
  /-- TL_FLAG_COUNT_READ (R478). -/
  | tlFlagCountRead (arriving : Nat)
  /-- CP_REDO_READ (R316). -/
  | cpRedoRead (arriving : Nat)
  /-- RB_ECC_READ (R278). -/
  | rbEccRead (a arriving : Nat)
  /-- ST_ECC_READ (R383). -/
  | stEccRead (arriving : Nat)
  /-- BS_ECC_READ (R385). -/
  | bsEccRead (n retries corrected : Nat)
  /-- HP_PORT_ERR_READ (R465). -/
  | hpPortErrRead (p retries uncorrectable corrected : Nat)
  /-- SP_WIN_REFUSED_READ (R417). -/
  | spWinRefusedRead (arriving : Nat)
  /-- SP_MISS_STATUS_READ (R418). -/
  | spMissStatusRead (late unknown : Nat)
  /-- TL_STATUS_READ (R489). -/
  | tlStatusRead (arriving : Nat)
  /-- HD_ERR_READ (R558). -/
  | hdErrRead (before arriving : Nat)
  /-- FLUSH (R315). -/
  | flush (v : Word)
  /-- VERIFICATION_FLUSH_DONE (R315). -/
  | verificationFlushDone
  /-- TARGET_RUN (R491). -/
  | targetRun
  /-- TARGET_IDLE (R491). -/
  | targetIdle
  /-- TARGET_REST (R491). -/
  | targetRest
  /-- TARGET_PARK (R491). -/
  | targetPark
  /-- POWER_STATE_ENTRY (R30). -/
  | powerStateEntry
  /-- RETURN_TO_RUN (R490). -/
  | returnToRun
  /-- PARK_EXIT (R493). -/
  | parkExit
  /-- PROTECTIVE_PARK (R496). -/
  | protectivePark
  /-- WARM_RESET_REGISTER (R499). -/
  | warmResetRegister (v : Word)
  /-- ENGINE_RESET_REGISTER (R501). -/
  | engineResetRegister (v : Word)
  /-- ENGINE_RESET_DONE (R501). -/
  | engineResetDone
  /-- POWER_UP (R499). -/
  | powerUp
  /-- POWER_REMOVAL (R490). -/
  | powerRemoval
  /-- COLD_RESET_ASSERT (R560). -/
  | coldResetAssert
  /-- COLD_RESET_RELEASE (R560). -/
  | coldResetRelease
  /-- WARM_RESET_PIN (R560). -/
  | warmResetPin
  /-- WARM_RESET_RELEASE (R560). -/
  | warmResetRelease
  /-- ROOT_PLL_LOCK (R36). -/
  | rootPllLock
  /-- ROOT_PLL_UNLOCK (R37). -/
  | rootPllUnlock
  /-- FUSE_DONE (R563). -/
  | fuseDone
  /-- STAKE_CLEAR_DONE (R564). -/
  | stakeClearDone
  /-- STACKS_READY (R564). -/
  | stacksReady (ok : Bool)
  /-- PLAIT_READY (R564). -/
  | plaitReady (ok : Bool)
  /-- JUNCTION_SENSOR_READ (R495). -/
  | junctionSensorRead (temps : List Nat)
  /-- THERMAL_CAP_FALL (R495). -/
  | thermalCapFall
  /-- THERMAL_CAP_RISE (R495). -/
  | thermalCapRise
  /-- ENERGY_REPORT (R497). -/
  | energyReport (clocked : Nat)
  /-- EXCURSION_LIMIT (R497). -/
  | excursionLimit
  /-- COOL_DOWN_END (R497). -/
  | coolDownEnd
  /-- KEEP_RATIO_APPLY (R33). -/
  | keepRatioApply
  /-- PMBUS_POLL (R512). -/
  | pmbusPoll (rails : List RailAnswer)
  /-- PMBUS_ENABLE (R512). -/
  | pmbusEnable (v : Word)
  /-- BD_CFG_DATA_WRITE (R505). -/
  | bdCfgDataWrite (v : Word)
  /-- HEARTBEAT (R519). -/
  | heartbeat
  /-- PORT_SILENCE (R520). -/
  | portSilence (p : Nat)
  /-- PLAIT_REPORT (R521). -/
  | plaitReport
  /-- PLAIT_HUNG (R521). -/
  | plaitHung
  /-- HANDLE_MODULE_ENABLE (R558). -/
  | handleModuleEnable (v : Word)
  /-- HANDLE_MODULE_UP (R553). -/
  | handleModuleUp (m : Nat) (repaired : Bool)
  /-- HANDLE_MODULE_DOWN (R555). -/
  | handleModuleDown (m : Nat)
  /-- HANDLE_TIMEOUT (R555). -/
  | handleTimeout (id : Nat)
  /-- MANAGEMENT_FRAME (R547). -/
  | managementFrame (op : BitVec 2) (addr : BitVec 24) (data : Word) (crc : BitVec 8)
  /-- REGISTER_PATH_ACCESS (R556). -/
  | registerPathAccess (write : Bool) (addr : BitVec 24) (data : Word)
  /-- REGISTER_WRITE (R13). -/
  | registerWrite (addr : BitVec 24) (v same : Word)
  /-- BYPASS (R561). -/
  | bypass (die : Nat)
  /-- IDCODE (R561). -/
  | idcode (die : Nat)
  /-- SAMPLE_PRELOAD (R561). -/
  | samplePreload (die : Nat)
  /-- EXTEST (R561). -/
  | extest (die : Nat)
  /-- CLAMP (R561). -/
  | clamp (die : Nat)
  /-- HIGHZ (R561). -/
  | highz (die : Nat)
  /-- POWER_STATE_ENTERED (R490). -/
  | powerStateEntered
  /-- REFORM_DONE (R137). -/
  | reformDone (a : Nat)
  deriving DecidableEq, Repr

end Sys2Proof
end

