-- ==== Sys2Proof/Decode.lean ====
section
/-! DEFINITION. The decoding of table words, of which this table gives none, and the 64-bit words of rib instructions (R242, R244), with
their encoder. -/

namespace Sys2Proof

/-- No row of the opcode table gives its command any bits: no word spells a command. -/
def decodeTableWord (_nbits _w : Nat) : Option Instr := none

/-- R242: the operand fields of a rib instruction word. -/
def ribFields (w : BitVec 64) : RibArgs :=
  { vd := w.extractLsb' 50 6, va := w.extractLsb' 44 6, vb := w.extractLsb' 38 6, vc := w.extractLsb' 32 6,
    pr := w.extractLsb' 29 3, pn := w.getLsbD 28, md := w.extractLsb' 24 4, imm := w.extractLsb' 0 24 }

/-- R242: the opcode field. -/
def ribOpcode (w : BitVec 64) : BitVec 8 := w.extractLsb' 56 8

/-- The instruction of an opcode (R244) on rib `a`. -/
def ribInstr (a : Nat) (op : BitVec 8) (x : RibArgs) : Option Instr :=
  match op.toNat with
  | 0x00 => some (.ribNop a x)
  | 0x01 => some (.mov a x)
  | 0x02 => some (.sel a x)
  | 0x03 => some (.ldb a x)
  | 0x04 => some (.stb a x)
  | 0x05 => some (.konst a x)
  | 0x06 => some (.rowv a x)
  | 0x07 => some (.colv a x)
  | 0x08 => some (.laneidx a x)
  | 0x09 => some (.lswp a x)
  | 0x10 => some (.fadd a x)
  | 0x11 => some (.fsub a x)
  | 0x12 => some (.fmul a x)
  | 0x13 => some (.ffma a x)
  | 0x14 => some (.fdiv a x)
  | 0x15 => some (.fsqrt a x)
  | 0x16 => some (.fmin a x)
  | 0x17 => some (.fmax a x)
  | 0x18 => some (.fcmp a x)
  | 0x19 => some (.fsgn a x)
  | 0x1A => some (.fscale a x)
  | 0x1B => some (.fexpo a x)
  | 0x1C => some (.fcvt a x)
  | 0x20 => some (.dadd a x)
  | 0x21 => some (.dsub a x)
  | 0x22 => some (.dmul a x)
  | 0x23 => some (.dfma a x)
  | 0x24 => some (.ddiv a x)
  | 0x25 => some (.dsqrt a x)
  | 0x26 => some (.dcmp a x)
  | 0x27 => some (.turn a x)
  | 0x28 => some (.iadd a x)
  | 0x29 => some (.isub a x)
  | 0x2A => some (.imul a x)
  | 0x2B => some (.iand a x)
  | 0x2C => some (.ior a x)
  | 0x2D => some (.ixor a x)
  | 0x2E => some (.ish a x)
  | 0x2F => some (.icmp a x)
  | 0x30 => some (.exp a x)
  | 0x31 => some (.exp2 a x)
  | 0x32 => some (.log2 a x)
  | 0x33 => some (.rcp a x)
  | 0x34 => some (.rsqrt a x)
  | 0x35 => some (.tanh a x)
  | 0x36 => some (.sint a x)
  | 0x37 => some (.cost a x)
  | 0x38 => some (.gact a x)
  | 0x39 => some (.wexp a x)
  | 0x3A => some (.wlog a x)
  | 0x40 => some (.rsum a x)
  | 0x41 => some (.rmax a x)
  | 0x42 => some (.racc a x)
  | 0x43 => some (.rowfin a x)
  | 0x48 => some (.stg a x)
  | 0x4C => some (.drop a x)
  | _ => none

/-- R242: the instruction that a word spells, on rib `a`. -/
def decodeRib (a : Nat) (w : BitVec 64) : Option Instr := ribInstr a (ribOpcode w) (ribFields w)

/-- R244: the opcode and the operand fields of a rib instruction. -/
def ribParts (i : Instr) : Option (BitVec 8 × RibArgs) :=
  match i with
  | .ribNop _ x => some (0x00#8, x)
  | .mov _ x => some (0x01#8, x)
  | .sel _ x => some (0x02#8, x)
  | .ldb _ x => some (0x03#8, x)
  | .stb _ x => some (0x04#8, x)
  | .konst _ x => some (0x05#8, x)
  | .rowv _ x => some (0x06#8, x)
  | .colv _ x => some (0x07#8, x)
  | .laneidx _ x => some (0x08#8, x)
  | .lswp _ x => some (0x09#8, x)
  | .fadd _ x => some (0x10#8, x)
  | .fsub _ x => some (0x11#8, x)
  | .fmul _ x => some (0x12#8, x)
  | .ffma _ x => some (0x13#8, x)
  | .fdiv _ x => some (0x14#8, x)
  | .fsqrt _ x => some (0x15#8, x)
  | .fmin _ x => some (0x16#8, x)
  | .fmax _ x => some (0x17#8, x)
  | .fcmp _ x => some (0x18#8, x)
  | .fsgn _ x => some (0x19#8, x)
  | .fscale _ x => some (0x1A#8, x)
  | .fexpo _ x => some (0x1B#8, x)
  | .fcvt _ x => some (0x1C#8, x)
  | .dadd _ x => some (0x20#8, x)
  | .dsub _ x => some (0x21#8, x)
  | .dmul _ x => some (0x22#8, x)
  | .dfma _ x => some (0x23#8, x)
  | .ddiv _ x => some (0x24#8, x)
  | .dsqrt _ x => some (0x25#8, x)
  | .dcmp _ x => some (0x26#8, x)
  | .turn _ x => some (0x27#8, x)
  | .iadd _ x => some (0x28#8, x)
  | .isub _ x => some (0x29#8, x)
  | .imul _ x => some (0x2A#8, x)
  | .iand _ x => some (0x2B#8, x)
  | .ior _ x => some (0x2C#8, x)
  | .ixor _ x => some (0x2D#8, x)
  | .ish _ x => some (0x2E#8, x)
  | .icmp _ x => some (0x2F#8, x)
  | .exp _ x => some (0x30#8, x)
  | .exp2 _ x => some (0x31#8, x)
  | .log2 _ x => some (0x32#8, x)
  | .rcp _ x => some (0x33#8, x)
  | .rsqrt _ x => some (0x34#8, x)
  | .tanh _ x => some (0x35#8, x)
  | .sint _ x => some (0x36#8, x)
  | .cost _ x => some (0x37#8, x)
  | .gact _ x => some (0x38#8, x)
  | .wexp _ x => some (0x39#8, x)
  | .wlog _ x => some (0x3A#8, x)
  | .rsum _ x => some (0x40#8, x)
  | .rmax _ x => some (0x41#8, x)
  | .racc _ x => some (0x42#8, x)
  | .rowfin _ x => some (0x43#8, x)
  | .stg _ x => some (0x48#8, x)
  | .drop _ x => some (0x4C#8, x)
  | .doorbell _ _ => none
  | .packetAccept => none
  | .commandRetire _ _ => none
  | .nop _ => none
  | .fence _ => none
  | .signal _ => none
  | .waitEvents _ => none
  | .gemm _ => none
  | .gemm2 _ => none
  | .convert _ => none
  | .rowstat _ => none
  | .softmax _ => none
  | .attnFwd _ => none
  | .attnBwd _ => none
  | .attnDecode _ => none
  | .scanFwd _ => none
  | .scanBwd _ => none
  | .seqOpen _ => none
  | .seqClose _ => none
  | .kvAppend _ => none
  | .kvFork _ => none
  | .kvTrim _ => none
  | .kvEvict _ => none
  | .kvPin _ => none
  | .xlMap _ => none
  | .xlInval _ => none
  | .winOpen _ => none
  | .winClose _ => none
  | .windowCloseComplete _ => none
  | .ringSweep _ => none
  | .ringStepCommit _ => none
  | .allreduce _ => none
  | .allreduceV _ => none
  | .putRemote _ => none
  | .getRemote _ => none
  | .cfgWriteShadow _ => none
  | .cfgSwap _ => none
  | .tallySnap _ => none
  | .scaleUpdate _ => none
  | .checkpoint _ => none
  | .adopt _ => none
  | .replay _ => none
  | .engineReset _ => none
  | .queueAbort _ => none
  | .abortComplete _ => none
  | .queueEnable _ _ => none
  | .queueDisable _ _ => none
  | .queueDisableComplete _ => none
  | .resume _ _ => none
  | .cpEventWrite _ _ => none
  | .workItemAssign _ _ => none
  | .arrayReform _ _ => none
  | .latchCopy _ _ => none
  | .drainComplete _ _ => none
  | .arrayFault _ _ _ => none
  | .arrayProgressTimeout _ _ => none
  | .arrayOffline _ => none
  | .wvCfgWrite _ _ => none
  | .wvColBypassWrite _ _ _ => none
  | .heldArrayWriteApply _ => none
  | .wvBistRun _ _ => none
  | .bistDone _ _ => none
  | .programLoad _ _ => none
  | .bankSwitch _ => none
  | .passStart _ _ => none
  | .beat _ _ => none
  | .sweepFinish _ _ => none
  | .dPass _ => none
  | .bandStart _ => none
  | .dqPartialCombine _ => none
  | .dqFinish _ => none
  | .decodeCombine _ _ _ => none
  | .partialCombine _ _ => none
  | .finishItem _ _ => none
  | .slotReady _ _ _ _ => none
  | .slotFree _ _ _ => none
  | .seedSwap _ _ => none
  | .seedSwapExchange _ => none
  | .rbSeedDataWrite _ _ => none
  | .rbSeedDataRead _ => none
  | .rbBroadcastWrite _ _ => none
  | .addF32 _ _ => none
  | .testSet _ _ => none
  | .inc32 _ _ => none
  | .scrub _ _ _ => none
  | .transferIssue _ => none
  | .transferComplete _ _ _ => none
  | .pageEntryDelivery _ _ => none
  | .stRingCfgWrite _ => none
  | .ringCfgApply => none
  | .stMdataWrite _ => none
  | .stMdataRead _ => none
  | .managementStakeWaitExpiry => none
  | .stackTempRead _ _ => none
  | .parityRetry _ _ => none
  | .coilInit _ => none
  | .coilInitDone => none
  | .translation _ _ _ _ _ _ _ => none
  | .missRetry _ => none
  | .missFault _ => none
  | .missTimeout _ => none
  | .agentWithdrawalAck _ => none
  | .splintEnable _ => none
  | .splintReady => none
  | .splintDisable _ => none
  | .segmentStore _ => none
  | .segmentLoad _ => none
  | .portEnable _ _ => none
  | .portTrainingDone _ _ => none
  | .portTrainingTimeout _ => none
  | .portReset _ _ => none
  | .linkBlock _ _ => none
  | .laneAlignmentLoss _ _ => none
  | .putData _ => none
  | .putAck _ => none
  | .putNack _ => none
  | .getReq _ => none
  | .getData _ => none
  | .getNack _ => none
  | .shardData _ => none
  | .shardDone _ => none
  | .shardHome _ => none
  | .chunkData _ _ => none
  | .chunkSignal _ => none
  | .counts _ => none
  | .slotGrant _ => none
  | .leave _ => none
  | .hello _ => none
  | .ringStepWatchdog _ => none
  | .putGetWatchdog _ => none
  | .tableStore _ => none
  | .tableLoad _ => none
  | .tallyEventArrival _ _ _ => none
  | .tlCntWrite _ _ _ => none
  | .tlCntRead _ => none
  | .clearCounters _ => none
  | .freeze _ => none
  | .tlTagSeedWrite _ => none
  | .tlFlagCountRead _ => none
  | .cpRedoRead _ => none
  | .rbEccRead _ _ => none
  | .stEccRead _ => none
  | .bsEccRead _ _ _ => none
  | .hpPortErrRead _ _ _ _ => none
  | .spWinRefusedRead _ => none
  | .spMissStatusRead _ _ => none
  | .tlStatusRead _ => none
  | .hdErrRead _ _ => none
  | .flush _ => none
  | .verificationFlushDone => none
  | .targetRun => none
  | .targetIdle => none
  | .targetRest => none
  | .targetPark => none
  | .powerStateEntry => none
  | .returnToRun => none
  | .parkExit => none
  | .protectivePark => none
  | .warmResetRegister _ => none
  | .engineResetRegister _ => none
  | .engineResetDone => none
  | .powerUp => none
  | .powerRemoval => none
  | .coldResetAssert => none
  | .coldResetRelease => none
  | .warmResetPin => none
  | .warmResetRelease => none
  | .rootPllLock => none
  | .rootPllUnlock => none
  | .fuseDone => none
  | .stakeClearDone => none
  | .stacksReady _ => none
  | .plaitReady _ => none
  | .junctionSensorRead _ => none
  | .thermalCapFall => none
  | .thermalCapRise => none
  | .energyReport _ => none
  | .excursionLimit => none
  | .coolDownEnd => none
  | .keepRatioApply => none
  | .pmbusPoll _ => none
  | .pmbusEnable _ => none
  | .bdCfgDataWrite _ => none
  | .heartbeat => none
  | .portSilence _ => none
  | .plaitReport => none
  | .plaitHung => none
  | .handleModuleEnable _ => none
  | .handleModuleUp _ _ => none
  | .handleModuleDown _ => none
  | .handleTimeout _ => none
  | .managementFrame _ _ _ _ => none
  | .registerPathAccess _ _ _ => none
  | .registerWrite _ _ _ => none
  | .bypass _ => none
  | .idcode _ => none
  | .samplePreload _ => none
  | .extest _ => none
  | .clamp _ => none
  | .highz _ => none
  | .powerStateEntered => none
  | .reformDone _ => none

/-- R242: the word of an opcode and operand fields. -/
def ribWord (op : BitVec 8) (x : RibArgs) : BitVec 64 :=
  op ++ x.vd ++ x.va ++ x.vb ++ x.vc ++ x.pr ++ BitVec.ofBool x.pn ++ x.md ++ x.imm

/-- R242: the word of a rib instruction; other commands have none. -/
def encodeRib (i : Instr) : Option (BitVec 64) := (ribParts i).map (fun p => ribWord p.1 p.2)

end Sys2Proof
end

