-- ==== Sys2Proof/Machine/Crc.lean ====
section
/-! DEFINITION. The two cyclic redundancy checks of the manual: CRC-32C (R425, R461, R528) and the CRC-8 of the management port
(R547). -/

namespace Sys2Proof.Machine

/-- One bit of CRC-32C, reflected. -/
def crcBit (c : Word) : Word := if c.getLsbD 0 then (c >>> 1) ^^^ 0x82F63B78#32 else c >>> 1

def crcByte (c : Word) (b : Byte) : Word :=
  let x := c ^^^ b.setWidth 32
  crcBit (crcBit (crcBit (crcBit (crcBit (crcBit (crcBit (crcBit x)))))))

/-- CRC-32C of bytes, starting from a remainder. -/
def crcFrom (c : Word) (bs : List Byte) : Word := bs.foldl crcByte c

def crc32c (bs : List Byte) : Word := ~~~ (crcFrom 0xFFFFFFFF#32 bs)

/-- One bit of the CRC-8 of x^8 + x^2 + x + 1, most significant bit first. -/
def crc8Bit (c : Byte) (b : Bool) : Byte := if c.getLsbD 7 != b then (c <<< 1) ^^^ 0x07#8 else c <<< 1

/-- The `n` low bits of a number, most significant first. -/
def bitsDown (n v : Nat) : List Bool := (List.range n).map (fun i => bit v (n - 1 - i))

/-- R547: the CRC-8 of a run of bits. -/
def crc8 (bs : List Bool) : Byte := bs.foldl crc8Bit 0#8

end Sys2Proof.Machine
end

