-- ==== Sys2Proof/Config.lean ====
section
/-! DEFINITION. What the manual leaves open: constants with no body, so that a statement about them holds for every value.
Each is named by a row of the assumption log. -/

namespace Sys2Proof.Config

/-- Byte `a` of memory whose content a reset or power state made undefined (U of R503), for the reset numbered `epoch`:
the same on every read until it is written. Log 5. -/
opaque undefinedByte : (epoch a : Nat) → Byte

/-- A register lane, accumulator or latch value made undefined (U of R503). Log 5. -/
opaque undefinedWord : (epoch place index : Nat) → Word

/-- IEEE 754 leaves to the implementation whether tininess is detected after rounding (R128). Log 7. -/
opaque tinyAfterRounding : Bool

/-- IEEE 754 leaves open whether fma(0, infinity, quiet NaN) signals invalid (R128). Log 7. -/
opaque fmaNanInvalid : Bool

/-- R244 does not say whether the ordered relations of FCMP and DCMP signal invalid on a quiet NaN. Log 7. -/
opaque orderedCompareSignals : Bool

/-- The int32 that FCVT gives for a NaN: R244 says saturating, not what a NaN becomes. Log 8. -/
opaque fcvtNan : Word → Word

/-- R244 does not say whether FEXPO of a zero, an infinity or a NaN signals invalid. Log 7. -/
opaque exponentSignals : Bool

/-- R244 does not say whether FCVT to int32 signals inexact for a fraction it drops. Log 7. -/
opaque toIntSignalsInexact : Bool

/-- R251 gives RSQRT of +0 and of negative values, and nothing for -0: whether it signals a division by zero. Log 11. -/
opaque rsqrtMinusZeroSignals : Bool

/-- Word `i` of the factory seed tables where R569 and R255 do not publish it (reciprocal and reciprocal square root seeds,
coefficients from 0x3C14). Log 12. -/
opaque factorySeed : Nat → Word

/-- The exact bits of TANH, SINT, COST, GACT and RSQRT are not published (R569): a value for the function code, the words of
the active seed buffer that differ from the factory words, and the operands. R251 bounds it. Log 11. -/
opaque specialValue : (function : Nat) → List (Nat × Word) → Word → Word → Word

/-- Whether the PLL of a Hoop port whose link is not up is locked at a time (R38). Log 90. -/
opaque hoopPllLock : (port time : Nat) → Bool

/-- What a software-loaded seed buffer computes where the manual gives no procedure (R258, R254). Log 12. -/
opaque loadedTableValue : (function : Nat) → List (Nat × Word) → Word → Word → Word

/-- Burnoeg's special functions, from tables the manual does not give (R272). Log 13. -/
opaque burnoegValue : (function : Nat) → Word → Word → Word

/-- The identifier of command `id` that Hoop messages carry in their tag field (R435). Log 25. -/
opaque hoopTag : Nat → BitVec 16

/-- The engine ID of the member of a ring at a position, where the ring table does not name it (R439, R448). Log 81. -/
opaque ringMember : (ring position : Nat) → BitVec 16

/-- Which of the two ports of a pair a class 3 message takes: a hash of source, destination and tag (R432). Log 26. -/
opaque portHash : (src dest tag : Nat) → Bool

/-- The table mirror slot that Splint takes for a copied table page, modulo 8,192 (R397). Log 20. -/
opaque mirrorSlot : Nat → Nat

/-- Where Splint places the page map run of a window among the free runs that hold it (R411). Log 36. -/
opaque mapPlace : Nat → Nat

/-- The form of the maximal-length LFSR of R484 (Fibonacci or Galois, shifting left or right), modulo 4. Log 27. -/
opaque lfsrForm : Nat

/-- The detail of INTERNAL is a firmware code (R91). Log 28. -/
opaque firmwareCode : Nat → BitVec 16

/-- Where an error arises in stored data at a tick, if one does, and whether it is past correction (R377 to R379). Log 136. -/
opaque upset : Nat → Option (Nat × Bool)

end Sys2Proof.Config
end

