-- ==== Sys2Proof/Machine/Memory.lean ====
section
/-! DEFINITION. Memory: the device-physical byte space of R350 and R389, as a list of cells in one canonical form, with the
regions whose contents a reset made undefined (R503) and the lines that fail their check (R378, R379). -/

namespace Sys2Proof.Machine

/-- A region of undefined content: addresses `lo` to `hi - 1`, made undefined by the event numbered `epoch`. -/
structure Undef where
  lo : Nat
  hi : Nat
  epoch : Nat
  deriving DecidableEq, Repr

/-- Memory. `cells` lists, at rising addresses, the bytes that differ from what an unlisted address reads as; `undef` lists the
undefined regions, latest first; `bad` lists the lines whose stored check fails, by their address; `soft` the words of stake and the
accesses of a stack that hold an error that a read corrects; `once` the accesses of a stack of which the next one alone fails (R376);
`epochs` counts the events that made a region undefined. -/
structure Memory where
  cells : List Host.Cell := []
  undef : List Undef := []
  bad : List Nat := []
  soft : List Nat := []
  once : List Nat := []
  epochs : Nat := 0
  deriving DecidableEq, Repr

/-- R350: where the stacks end and stake begins. -/
abbrev stackEnd : Nat := 0x8000000000

/-- The line that one check covers: an access of 32 bytes of a stack (R376, R385), a line of 64 bytes elsewhere (R378, log 136). -/
def lineSize (a : Nat) : Nat := if a < stackEnd then 32 else 64
def lineOf (a : Nat) : Nat := a / lineSize a * lineSize a

/-- What one corrected error counts for (R377): an access of 32 bytes of a stack, a 64-bit word of stake. -/
def unitOf (a : Nat) : Nat := if a < stackEnd then a / 32 * 32 else a / 8 * 8

/-- An address joins a list that holds it at most once. -/
def addNew (l : List Nat) (x : Nat) : List Nat := if l.contains x then l else x :: l

/-- What an address in one of the regions reads as: the free byte of the latest region that holds it, otherwise 0. Log 5. -/
def undefRead : List Undef → Nat → Byte
  | [], _ => 0
  | u :: us, a => if u.lo ≤ a && a < u.hi then Config.undefinedByte u.epoch a else undefRead us a

namespace Memory

/-- What an unlisted address reads as: zero, or a free byte inside an undefined region. Log 5. -/
def unlisted (m : Memory) (a : Nat) : Byte := undefRead m.undef a

/-- Looks an address up among the cells. -/
def lookup : List Host.Cell → Nat → Option Byte
  | [], _ => none
  | (k, v) :: t, a => if k = a then some v else lookup t a

/-- One byte. -/
def read (m : Memory) (a : Nat) : Byte := (lookup m.cells a).getD (m.unlisted a)

/-- Removes an address from the cells. -/
def remove : List Host.Cell → Nat → List Host.Cell
  | [], _ => []
  | (k, v) :: t, a => if k = a then remove t a else (k, v) :: remove t a

/-- Puts a byte in its place among the cells. -/
def insert : List Host.Cell → Nat → Byte → List Host.Cell
  | [], a, x => [(a, x)]
  | (k, v) :: t, a, x =>
    if k = a then (a, x) :: t
    else if a < k then (a, x) :: (k, v) :: t
    else (k, v) :: insert t a x

/-- Writes one byte; what an unlisted address would read as is not listed. -/
def write (m : Memory) (a : Nat) (x : Byte) : Memory :=
  { m with cells := if x = m.unlisted a then remove m.cells a else insert m.cells a x }

/-- Writes bytes from an address on. -/
def writeBytes (m : Memory) (a : Nat) : List Byte → Memory
  | [] => m
  | x :: xs => writeBytes (m.write a x) (a + 1) xs

def readBytes (m : Memory) (a n : Nat) : List Byte := (List.range n).map (fun i => m.read (a + i))

/-- A little-endian number of `n` bytes (R10). -/
def readNat (m : Memory) (a : Nat) : Nat → Nat
  | 0 => 0
  | n + 1 => (m.read a).toNat + 256 * readNat m (a + 1) n

/-- The `n` little-endian bytes of a number (R10). -/
def leBytes : (n v : Nat) → List Byte
  | 0, _ => []
  | n + 1, v => BitVec.ofNat 8 v :: leBytes n (v / 256)

/-- Bytes as a little-endian number. -/
def ofBytes : List Byte → Nat
  | [] => 0
  | x :: xs => x.toNat + 256 * ofBytes xs

/-- Drops the listed cells of a range, and makes it read as zero or as undefined. -/
def blank (m : Memory) (lo hi : Nat) : Memory :=
  { m with
    cells := m.cells.filter (fun c => c.1 < lo || hi ≤ c.1),
    undef := (m.undef.map (fun u =>
      [{ u with hi := min u.hi lo }, { u with lo := max u.lo hi }])).flatten.filter (fun u => u.lo < u.hi) }

/-- The places of errors, but for those of a range that is cleared or made undefined as a whole. -/
def outside (lo hi : Nat) (l : List Nat) : List Nat := l.filter (fun a => a < lo || hi ≤ a)

/-- A range that is cleared or made undefined as a whole carries no known error. -/
def checked (m : Memory) (lo hi : Nat) : Memory :=
  { m with bad := outside lo hi m.bad, soft := outside lo hi m.soft, once := outside lo hi m.once }

/-- Zeroes a range, with valid check bits (R344, R420, R564). -/
def zero (m : Memory) (lo hi : Nat) : Memory := (m.blank lo hi).checked lo hi

/-- The content of a range becomes undefined (R503). -/
def undefine (m : Memory) (lo hi : Nat) : Memory :=
  let b := (m.blank lo hi).checked lo hi
  { b with undef := ⟨lo, hi, m.epochs⟩ :: b.undef, epochs := m.epochs + 1 }

/-- The lines that a range of bytes touches. -/
def linesOf (a n : Nat) : List Nat :=
  let z := lineSize a
  if n = 0 then [] else (List.range ((a + n - 1) / z - a / z + 1)).map (fun i => (i + a / z) * z)

/-- A line and a range of bytes meet; the range covers the line as a whole. -/
def meets (l a n : Nat) : Bool := l < a + n && a < l + lineSize l
def covers (l a n : Nat) : Bool := a ≤ l && l + lineSize l ≤ a + n

/-- An access to a line fails. -/
def fails (m : Memory) (l : Nat) : Bool := m.bad.contains l || m.once.contains l

/-- The lowest failing line that a read of a range meets. -/
def badIn (m : Memory) (a n : Nat) : Option Nat :=
  ((m.bad ++ m.once).filter (meets · a n)).foldl (fun o l => some (min (o.getD l) l)) none

/-- The corrected errors that a read of some ranges meets: those of every line that it reads (R352, R377). -/
def softIn (m : Memory) (ps : List (Nat × Nat)) : List Nat := m.soft.filter (fun u => ps.any (fun p => meets (lineOf u) p.1 p.2))

/-- A line fails no longer once a write has covered the whole of it (R378); what a write stores carries no error. -/
def heal (m : Memory) (a n : Nat) : Memory :=
  { m with bad := m.bad.filter (fun l => !covers l a n), soft := m.soft.filter (fun u => !meets (lineOf u) a n) }

/-- The line at an address fails from now on. -/
def lose (m : Memory) (a : Nat) : Memory := { m with bad := addNew m.bad (lineOf a) }

/-- The canonical form: addresses rise strictly, and no cell equals what its address would read as unlisted. -/
def wf (m : Memory) : Bool :=
  decide (m.cells.Pairwise (fun x y => x.1 < y.1)) && m.cells.all (fun c => c.2 != m.unlisted c.1)

end Memory

/-! ### The places of the address space -/

/-- R389: the regions of the device-physical space. -/
inductive Region where
  | stack | stake | nowhere | host
  deriving DecidableEq, Repr

abbrev stakeBase : Nat := 0x8000000000
abbrev stakeSize : Nat := 0x60000000
abbrev stakeEnd : Nat := stakeBase + stakeSize
abbrev hostBase : Nat := 0x8000000000000
abbrev spaceEnd : Nat := 0x10000000000000
abbrev coilLo : Nat := stakeBase + 0x5C000000
abbrev coilHi : Nat := stakeBase + 0x60000000
abbrev reduceLo : Nat := stakeBase + 0x58000000
abbrev reduceHi : Nat := stakeBase + 0x5C000000
abbrev keepLo : Nat := stakeBase + 0x48000000
abbrev keepHi : Nat := stakeBase + 0x58000000

def regionOf (pa : Nat) : Region :=
  if pa < stackEnd then .stack
  else if pa < stakeEnd then .stake
  else if pa < hostBase then .nowhere
  else if pa < spaceEnd then .host
  else .nowhere

/-- R349: column, die, bank row and global bank number of a stake offset. -/
def stakeColumn (o : Nat) : Nat := o / 0x2000000
def stakeDie (o : Nat) : Nat := (o % 0x2000000 / 64) % 16
def stakeRow (o : Nat) : Nat := (o % 0x2000000 / 64) / 16
def stakeBank (o : Nat) : Nat := 48 * stakeDie o + stakeColumn o

/-- The stake offset of a row of a global bank: the inverse of R349. -/
def stakeOffset (bank row : Nat) : Nat := (bank % 48) * 0x2000000 + (row * 16 + bank / 48) * 64

/-- R373: the stack of a stack address. -/
def stackOf (a : Nat) : Nat := (fld a 12 8) ^^^ (fld a 17 13)

/-- R377, R378: an error arises in stored data at an address of a stack or of stake, one that a read corrects or one that fails (log 136). -/
def Memory.struck (m : Memory) : Option (Nat × Bool) → Memory
  | none => m
  | some (a, lost) => if stakeEnd ≤ a then m else if lost then m.lose a else { m with soft := addNew m.soft (unitOf a) }

/-- R351: the reduction buffer and the Coil region. -/
def inReduce (pa : Nat) : Bool := reduceLo ≤ pa && pa < reduceHi
def inCoil (pa : Nat) : Bool := coilLo ≤ pa && pa < coilHi

/-- R366: a range split at its 4 KiB page boundaries; `fuel` bounds the number of pieces. -/
def splitPages : (fuel a n : Nat) → List (Nat × Nat)
  | 0, _, _ => []
  | f + 1, a, n => if n = 0 then [] else
    let k := min n (4096 - a % 4096)
    (a, k) :: splitPages f (a + k) (n - k)

def pagesOf (a n : Nat) : List (Nat × Nat) := splitPages (n / 4096 + 2) a n

end Sys2Proof.Machine
end

