-- ==== Sys2Proof/Machine/Exact.lean ====
section
/-! DEFINITION. Exact numbers m × 2^e, one rounding of them, and the bit patterns of the formats of R94. -/

namespace Sys2Proof.Machine

/-- The exact number `m × 2^e`. -/
structure Dy where
  m : Int
  e : Int
  deriving DecidableEq, Repr

namespace Dy

def zero : Dy := ⟨0, 0⟩
def ofInt (i : Int) : Dy := ⟨i, 0⟩
def pow2 (e : Int) : Dy := ⟨1, e⟩
def neg (a : Dy) : Dy := ⟨-a.m, a.e⟩
def abs (a : Dy) : Dy := ⟨a.m.natAbs, a.e⟩
def mul (a b : Dy) : Dy := ⟨a.m * b.m, a.e + b.e⟩
def isZero (a : Dy) : Bool := a.m == 0

/-- The integer multiple of `2^e` that equals `a`, for `e ≤ a.e`. -/
def at_ (a : Dy) (e : Int) : Int := a.m * (2 ^ (a.e - e).toNat : Nat)

def add (a b : Dy) : Dy :=
  if a.m = 0 then b else if b.m = 0 then a else
  let e := min a.e b.e
  ⟨a.at_ e + b.at_ e, e⟩

def sub (a b : Dy) : Dy := a.add b.neg
def scale (a : Dy) (k : Int) : Dy := ⟨a.m, a.e + k⟩
def lt (a b : Dy) : Bool := decide ((a.sub b).m < 0)
def le (a b : Dy) : Bool := decide ((a.sub b).m ≤ 0)
def eq (a b : Dy) : Bool := decide ((a.sub b).m = 0)

/-- floor(log2 |a|), for a nonzero `a`. -/
def log2 (a : Dy) : Int := Nat.log2 a.m.natAbs + a.e

/-- floor(a), exactly. -/
def floor (a : Dy) : Int :=
  if 0 ≤ a.e then a.m * (2 ^ a.e.toNat : Nat) else a.m / (2 ^ (-a.e).toNat : Nat)

end Dy

/-- The IEEE 754 rounding-direction attributes, numbered as R243 numbers them. -/
inductive RMode where
  | rne | rtz | rup | rdn | rna
  deriving DecidableEq, Repr

/-- R243: the modifier's code of a rounding direction. -/
def RMode.ofCode : Nat → Option RMode
  | 0 => some .rne | 1 => some .rtz | 2 => some .rup | 3 => some .rdn | 4 => some .rna | _ => none

/-- Whether a magnitude that lies between two neighbours goes to the upper one: `odd` tells of the lower neighbour, `c` compares
the remainder with one half (-1, 0, 1). -/
def RMode.up (r : RMode) (neg odd : Bool) (c : Int) : Bool :=
  match r with
  | .rne => c > 0 || (c == 0 && odd)
  | .rtz => false
  | .rup => !neg
  | .rdn => neg
  | .rna => c ≥ 0

/-- A magnitude `k × 2^q` after one rounding. -/
structure Rounded where
  k : Nat
  q : Int
  inexact : Bool
  deriving DecidableEq, Repr

/-- Rounds the magnitude `(m + δ) × 2^e` to a multiple of `2^q`, where `0 < δ < 1` when `sticky` and `δ = 0` otherwise. -/
def roundAt (r : RMode) (neg : Bool) (m : Nat) (e : Int) (sticky : Bool) (q : Int) : Rounded :=
  if e ≥ q then
    let k := m * 2 ^ (e - q).toNat
    if sticky then ⟨if r.up neg (k % 2 == 1) (-1) then k + 1 else k, q, true⟩ else ⟨k, q, false⟩
  else
    let d := (q - e).toNat
    let big := d > Nat.log2 m + 2
    let k := if big then 0 else m >>> d
    let rem := if big then m else m % 2 ^ d
    let inexact := rem != 0 || sticky
    let c : Int := if big then -1 else
      let half := 2 ^ (d - 1)
      if rem < half then -1 else if rem > half then 1 else if sticky then 1 else 0
    ⟨if inexact && r.up neg (k % 2 == 1) c then k + 1 else k, q, inexact⟩

/-- Rounds a magnitude to `p` significant bits with an unbounded exponent. -/
def roundSig (r : RMode) (neg : Bool) (m : Nat) (e : Int) (sticky : Bool) (p : Nat) : Rounded :=
  if m = 0 then ⟨0, e, sticky⟩ else
  roundAt r neg m e sticky (Nat.log2 m + e - (p - 1 : Int))

/-- Rounds an exact number to `p` significant bits, unbounded exponent, keeping its sign. -/
def Dy.round (r : RMode) (p : Nat) (a : Dy) : Dy :=
  let x := roundSig r (decide (a.m < 0)) a.m.natAbs a.e false p
  ⟨if a.m < 0 then -(x.k : Int) else x.k, x.q⟩

/-- The classes of a decoded code. A finite value keeps its sign beside its magnitude, so that zeros are signed. -/
inductive Fp where
  | nan (neg : Bool) (payload : Nat) (quiet : Bool)
  | inf (neg : Bool)
  | fin (neg : Bool) (m : Nat) (e : Int)
  deriving DecidableEq, Repr

namespace Fp

def isNan : Fp → Bool | .nan .. => true | _ => false
def isInf : Fp → Bool | .inf _ => true | _ => false
def isSnan : Fp → Bool | .nan _ _ q => !q | _ => false
def isZero : Fp → Bool | .fin _ m _ => m == 0 | _ => false
def neg? : Fp → Bool | .nan s _ _ => s | .inf s => s | .fin s _ _ => s
def isFinite : Fp → Bool | .fin .. => true | _ => false

/-- The exact value of a finite code (zero for the others). -/
def val : Fp → Dy
  | .fin s m e => ⟨if s then -(m : Int) else m, e⟩
  | _ => Dy.zero

end Fp

/-- A binary format laid out as IEEE 754 lays one out: `w` bits in all, `p` significant bits. -/
structure Fmt where
  w : Nat
  p : Nat
  deriving DecidableEq, Repr

namespace Fmt

def binary32 : Fmt := ⟨32, 24⟩
def binary64 : Fmt := ⟨64, 53⟩
def bf16 : Fmt := ⟨16, 8⟩
def e5m2 : Fmt := ⟨8, 3⟩

def ebits (f : Fmt) : Nat := f.w - f.p
def bias (f : Fmt) : Nat := 2 ^ (f.ebits - 1) - 1
def emin (f : Fmt) : Int := 1 - (f.bias : Int)
/-- The weight of the last bit of a subnormal. -/
def qmin (f : Fmt) : Int := f.emin - (f.p - 1 : Int)

/-- R94: the sign, exponent and significand fields of a code of the format. -/
def decode (f : Fmt) (b : Nat) : Fp :=
  let s := bit b (f.w - 1)
  let ex := fld b (f.w - 2) (f.p - 1)
  let man := b % 2 ^ (f.p - 1)
  if ex = 2 ^ f.ebits - 1 then
    if man = 0 then .inf s else .nan s man (bit man (f.p - 2))
  else if ex = 0 then .fin s man f.qmin
  else .fin s (man + 2 ^ (f.p - 1)) (f.qmin + (ex - 1 : Int))

def signBit (f : Fmt) (s : Bool) : Nat := if s then 2 ^ (f.w - 1) else 0
def infCode (f : Fmt) (s : Bool) : Nat := f.signBit s + (2 ^ f.ebits - 1) * 2 ^ (f.p - 1)
def maxCode (f : Fmt) (s : Bool) : Nat := f.infCode s - 1
/-- The quiet NaN with sign 0 and zero payload (R128, R100 for BF16, R104 for E5M2). -/
def qnanCode (f : Fmt) : Nat := f.infCode false + 2 ^ (f.p - 2)

/-- The code of `k × 2^q`, for a magnitude already rounded to the format (`none` when it exceeds the largest finite value). -/
def pack (f : Fmt) (s : Bool) (k : Nat) (q : Int) : Option Nat :=
  if k = 0 then some (f.signBit s) else
  let lead : Int := Nat.log2 k + q
  if lead > (f.bias : Int) then none
  else if lead < f.emin then some (f.signBit s + ((k : Nat) * 2 ^ (q - f.qmin).toNat) / 2 ^ (f.qmin - q).toNat)
  else
    let sh := q - (lead - (f.p - 1 : Int))
    let sig := (k * 2 ^ sh.toNat) / 2 ^ (-sh).toNat
    some (f.signBit s + (lead + f.bias).toNat * 2 ^ (f.p - 1) + (sig - 2 ^ (f.p - 1)))

end Fmt

/-- The IEEE 754 exception flags in the order of RB_FPSTAT (R277), bit 0 first. -/
structure FFlags where
  invalid : Bool := false
  divByZero : Bool := false
  overflow : Bool := false
  underflow : Bool := false
  inexact : Bool := false
  deriving DecidableEq, Repr

def FFlags.or (a b : FFlags) : FFlags :=
  ⟨a.invalid || b.invalid, a.divByZero || b.divByZero, a.overflow || b.overflow, a.underflow || b.underflow, a.inexact || b.inexact⟩

/-- IEEE 754 overflow: infinity or the largest finite value, by direction and sign. -/
def overflowCode (f : Fmt) (r : RMode) (s : Bool) : Nat :=
  match r with
  | .rne | .rna => f.infCode s
  | .rtz => f.maxCode s
  | .rup => if s then f.maxCode s else f.infCode s
  | .rdn => if s then f.infCode s else f.maxCode s

/-- One IEEE 754 rounding of the magnitude `(m + δ) × 2^e` into a format, subnormals honoured, with its flags (R128). -/
def ieeeRound (f : Fmt) (r : RMode) (s : Bool) (m : Nat) (e : Int) (sticky : Bool) : Nat × FFlags :=
  if m = 0 && !sticky then (f.signBit s, {}) else
  let q := max (Nat.log2 m + e - (f.p - 1 : Int)) f.qmin
  let x := roundAt r s m e sticky q
  match f.pack s x.k x.q with
  | none => (overflowCode f r s, { overflow := true, inexact := true })
  | some c =>
    let tiny :=
      if Config.tinyAfterRounding then
        let y := roundSig r s m e sticky f.p
        m == 0 || decide (Nat.log2 y.k + y.q < f.emin)
      else m == 0 || decide (Nat.log2 m + e < f.emin)
    (c, { underflow := x.inexact && tiny, inexact := x.inexact })

/-- Makes a NaN code quiet, its sign and its other payload bits kept (R128). -/
def quieted (f : Fmt) (b : Nat) : Nat := b ||| 2 ^ (f.p - 2)

/-- The integer square root, one bit at a time from bit `n - 1` down. -/
def isqrtBits (v : Nat) : Nat → Nat → Nat
  | 0, r => r
  | n + 1, r => let t := r + 2 ^ n; isqrtBits v n (if t * t ≤ v then t else r)

def isqrt (v : Nat) : Nat := isqrtBits v (Nat.log2 v / 2 + 1) 0

end Sys2Proof.Machine
end

