-- ==== Sys2Proof/Machine/Flags.lean ====
section
/-! DEFINITION. The sticky flags of R127 and R477 and the places they take in registers and records. -/

namespace Sys2Proof.Machine

/-- The seven sticky flags, in the bit order of TL_FLAGS (R489) and of the slot record (R472). -/
structure Sticky where
  nan : Bool := false
  invalid : Bool := false
  ovf : Bool := false
  flush : Bool := false
  sat : Bool := false
  range : Bool := false
  varClamp : Bool := false
  deriving DecidableEq, Repr

namespace Sticky

def none : Sticky := {}

def or (a b : Sticky) : Sticky :=
  ⟨a.nan || b.nan, a.invalid || b.invalid, a.ovf || b.ovf, a.flush || b.flush, a.sat || b.sat, a.range || b.range,
    a.varClamp || b.varClamp⟩

/-- The flags as a number, nan_seen at bit 0. -/
def toNat (a : Sticky) : Nat :=
  b2n a.nan + 2 * b2n a.invalid + 4 * b2n a.ovf + 8 * b2n a.flush + 16 * b2n a.sat + 32 * b2n a.range + 64 * b2n a.varClamp

def ofNat (n : Nat) : Sticky := ⟨bit n 0, bit n 1, bit n 2, bit n 3, bit n 4, bit n 5, bit n 6⟩

/-- The number of distinct flags set: what one CCLK adds to TL_FLAG_COUNT (R478). -/
def count (a : Sticky) : Nat :=
  b2n a.nan + b2n a.invalid + b2n a.ovf + b2n a.flush + b2n a.sat + b2n a.range + b2n a.varClamp

/-- A write of ones clears (W1C, R13). -/
def clear (a : Sticky) (v : Nat) : Sticky := ofNat (a.toNat &&& (127 ^^^ (v % 128)))

def ofNan : Sticky := { nan := true }
def ofInvalid : Sticky := { nan := true, invalid := true }
def ofOvf : Sticky := { ovf := true }
def ofFlush : Sticky := { flush := true }
def ofSat : Sticky := { sat := true }
def ofRange : Sticky := { range := true }

end Sticky

/-- RB_FPSTAT (R277) as a number. -/
def FFlags.toNat (f : FFlags) : Nat :=
  b2n f.invalid + 2 * b2n f.divByZero + 4 * b2n f.overflow + 8 * b2n f.underflow + 16 * b2n f.inexact

def FFlags.ofNat (n : Nat) : FFlags := ⟨bit n 0, bit n 1, bit n 2, bit n 3, bit n 4⟩

def FFlags.clear (f : FFlags) (v : Nat) : FFlags := .ofNat (f.toNat &&& (31 ^^^ (v % 32)))

/-- R273: the Tally flags that an IEEE 754 operation raises with its result. Underflow and inexact raise none. -/
def FFlags.sticky (f : FFlags) (nanResult : Bool) : Sticky :=
  { nan := nanResult, invalid := f.invalid, ovf := f.overflow }

end Sys2Proof.Machine
end

