-- ==== Sys2Proof/Machine/Formats.lean ====
section
/-! DEFINITION. The formats of R61 and R94 to R102, and the conversions of R103 to R105. -/

namespace Sys2Proof.Machine

/-- R61: the format codes. -/
inductive Format where
  | e4m3 | e5m2 | bf16 | fp32 | int4 | fp64
  deriving DecidableEq, Repr

namespace Format

/-- R61: codes 0x6 to 0xF are reserved. -/
def ofCode : Nat → Option Format
  | 0 => some .e4m3 | 1 => some .e5m2 | 2 => some .bf16 | 3 => some .fp32 | 4 => some .int4 | 5 => some .fp64 | _ => none

def code : Format → Nat
  | .e4m3 => 0 | .e5m2 => 1 | .bf16 => 2 | .fp32 => 3 | .int4 => 4 | .fp64 => 5

/-- Bits of one element (R94). -/
def bits : Format → Nat
  | .e4m3 | .e5m2 => 8 | .bf16 => 16 | .fp32 => 32 | .int4 => 4 | .fp64 => 64

/-- Bytes of one element in memory; INT4 packs two elements in a byte (R101) and is read by byte rows (R282). -/
def bytes : Format → Nat
  | .e4m3 | .e5m2 => 1 | .bf16 => 2 | .fp32 => 4 | .int4 => 1 | .fp64 => 8

/-- E4M3, E5M2 or BF16: the formats of R61 that a p_format, a state_format or a K/V format may take. -/
def narrow : Format → Bool
  | .e4m3 | .e5m2 | .bf16 => true | _ => false

def is8 : Format → Bool
  | .e4m3 | .e5m2 => true | _ => false

end Format

/-- R95: E4M3 has no infinity, one NaN (0x80) and one zero (0x00). -/
def decodeE4M3 (b : Nat) : Fp :=
  let s := bit b 7
  let ex := fld b 6 3
  let man := b % 8
  if b % 256 = 0x80 then .nan false 0 true
  else if ex = 0 then .fin s man (-9)
  else .fin s (man + 8) ((ex : Int) - 10)

/-- R97: the code of `k × 2^q` in E4M3; a magnitude of zero is 0x00 whatever its sign. -/
def packE4M3 (s : Bool) (k : Nat) (q : Int) : Option Nat :=
  if k = 0 then some 0 else
  let lead : Int := Nat.log2 k + q
  if lead > 8 then none
  else
    let sg := if s then 0x80 else 0
    if lead < -6 then some (sg + k * 2 ^ (q + 9).toNat)
    else
      let sh := q - (lead - 3)
      let sig := (k * 2 ^ sh.toNat) / 2 ^ (-sh).toNat
      some (sg + (lead + 7).toNat * 8 + (sig - 8))

/-- R101: a 4-bit two's complement element. -/
def int4Val (n : Nat) : Int := if n % 16 < 8 then (n % 16 : Nat) else (n % 16 : Nat) - 16

/-- R102: the E4M3 code of each INT4 element, 0 to 15 as its four bits. -/
def int4ToE4M3 (n : Nat) : Nat :=
  match n % 16 with
  | 0 => 0x00 | 1 => 0x38 | 2 => 0x40 | 3 => 0x44 | 4 => 0x48 | 5 => 0x4A | 6 => 0x4C | 7 => 0x4E
  | 8 => 0xD0 | 9 => 0xCE | 10 => 0xCC | 11 => 0xCA | 12 => 0xC8 | 13 => 0xC4 | 14 => 0xC0 | _ => 0xB8

/-- R94: the class and exact value of a code. INT4 codes are read as the E4M3 codes of R102. -/
def Format.decode : Format → Nat → Fp
  | .e4m3, b => decodeE4M3 b
  | .e5m2, b => Fmt.e5m2.decode b
  | .bf16, b => Fmt.bf16.decode b
  | .fp32, b => Fmt.binary32.decode b
  | .fp64, b => Fmt.binary64.decode b
  | .int4, b => decodeE4M3 (int4ToE4M3 b)

/-- The NaN that the engine writes (R97, R100, R122, R128). -/
def Format.nanCode : Format → Nat
  | .e4m3 | .int4 => 0x80 | .e5m2 => 0x7E | .bf16 => 0x7FC0 | .fp32 => 0x7FC00000 | .fp64 => 0x7FF8000000000000

/-- The significand width, last-bit weight of a subnormal and packing of a destination. -/
def Format.sigBits : Format → Nat
  | .e4m3 | .int4 => 4 | .e5m2 => 3 | .bf16 => 8 | .fp32 => 24 | .fp64 => 53

def Format.qmin : Format → Int
  | .e4m3 | .int4 => -9 | .e5m2 => Fmt.e5m2.qmin | .bf16 => Fmt.bf16.qmin | .fp32 => Fmt.binary32.qmin | .fp64 => Fmt.binary64.qmin

def Format.pack (f : Format) (s : Bool) (k : Nat) (q : Int) : Option Nat :=
  match f with
  | .e4m3 | .int4 => packE4M3 s k q
  | .e5m2 => Fmt.e5m2.pack s k q
  | .bf16 => Fmt.bf16.pack s k q
  | .fp32 => Fmt.binary32.pack s k q
  | .fp64 => Fmt.binary64.pack s k q

/-- R104: what an overflow of sign `s` becomes, with the flags of R105. -/
def overflowTo (f : Format) (r : RMode) (nanOnOvf s : Bool) : Nat × Sticky :=
  match f with
  | .e4m3 | .int4 => if nanOnOvf then (0x80, .ofOvf) else (if s then 0xFF else 0x7F, .ofSat)
  | .e5m2 => if nanOnOvf then (Fmt.e5m2.infCode s, .ofOvf) else (Fmt.e5m2.maxCode s, .ofSat)
  | .bf16 => (overflowCode .bf16 r s, if overflowCode .bf16 r s = Fmt.bf16.infCode s then .ofOvf else .none)
  | .fp32 => (overflowCode .binary32 r s, if overflowCode .binary32 r s = Fmt.binary32.infCode s then .ofOvf else .none)
  | .fp64 => (overflowCode .binary64 r s, if overflowCode .binary64 r s = Fmt.binary64.infCode s then .ofOvf else .none)

/-- R103: a finite value rounded once into a destination, with the overflow of R104 and the flags of R105. `neg` is its sign,
which a zero keeps everywhere but in E4M3. -/
def narrowFinite (f : Format) (r : RMode) (nanOnOvf neg : Bool) (m : Nat) (e : Int) : Nat × Sticky :=
  let q := max (Nat.log2 m + e - (f.sigBits - 1 : Int)) f.qmin
  let x := if m = 0 then ⟨0, f.qmin, false⟩ else roundAt r neg m e false q
  match f.pack neg x.k x.q with
  | some c => (c, .none)
  | none => overflowTo f r nanOnOvf neg

/-- R104: the narrowing conversion of a decoded value. A NaN takes the format's one NaN; R104's copy of a NaN's sign and payload
between FP32 and FP64 is `convertNan`. -/
def narrowTo (f : Format) (r : RMode) (nanOnOvf : Bool) (x : Fp) : Nat × Sticky :=
  match x with
  | .nan .. => (f.nanCode, .ofNan)
  | .inf s =>
    match f with
    | .e4m3 | .int4 => if nanOnOvf then (0x80, .ofOvf) else (if s then 0xFF else 0x7F, .ofSat)
    | .e5m2 => (Fmt.e5m2.infCode s, .none)
    | .bf16 => (Fmt.bf16.infCode s, .none)
    | .fp32 => (Fmt.binary32.infCode s, .none)
    | .fp64 => (Fmt.binary64.infCode s, .none)
  | .fin s m e => narrowFinite f r nanOnOvf s m e

/-- The conversions that R104 calls convertFormat: between FP32 and FP64, and each to itself. -/
def isConvertFormat : Format → Format → Bool
  | .fp32, .fp32 | .fp64, .fp64 | .fp32, .fp64 | .fp64, .fp32 => true
  | _, _ => false

/-- R104: a NaN through convertFormat is made quiet; its sign is kept, and its payload widened or cut to the upper bits. -/
def convertNan (src dst : Format) (neg : Bool) (payload : Nat) : Nat :=
  match src, dst with
  | .fp32, .fp64 => Fmt.binary64.infCode neg + (quieted .binary32 payload) * 2 ^ 29
  | .fp64, .fp32 => Fmt.binary32.infCode neg + (quieted .binary64 payload) / 2 ^ 29
  | .fp64, .fp64 => Fmt.binary64.infCode neg + quieted .binary64 payload
  | .fp32, .fp32 => Fmt.binary32.infCode neg + quieted .binary32 payload
  | _, d => d.nanCode

/-- CONVERT, STG and the output stage (R103, R104): the code, the sticky flags and the IEEE 754 flags of R104. -/
def convertCode (src dst : Format) (r : RMode) (nanOnOvf : Bool) (x : Fp) : Nat × Sticky × FFlags :=
  match x with
  | .nan s pl q =>
    if isConvertFormat src dst then (convertNan src dst s pl, .ofNan, { invalid := !q }) else (dst.nanCode, .ofNan, {})
  | _ =>
    let y := narrowTo dst r nanOnOvf x
    if isConvertFormat src dst then
      match x with
      | .fin s m e =>
        let z := ieeeRound (if dst = .fp64 then .binary64 else .binary32) r s m e false
        (y.1, y.2, z.2)
      | _ => (y.1, y.2, {})
    else (y.1, y.2, {})

/-- A code widened exactly to FP32 (R104, R469): every NaN code becomes the canonical NaN. -/
def widenTo32 (f : Format) (b : Nat) : Word :=
  match f with
  | .fp32 => wd b
  | _ => wd (narrowTo .fp32 .rne false (f.decode b)).1

/-- R106: the formats that may meet in one product. INT4 counts as E4M3. -/
def legalPair (a b : Format) : Bool :=
  let c (f : Format) : Nat := match f with | .e4m3 | .e5m2 | .int4 => 1 | .bf16 => 2 | .fp32 => 3 | .fp64 => 4
  c a == c b && c a != 4

end Sys2Proof.Machine
end

