-- ==== Sys2Proof/Machine/Chunk.lean ====
section
/-! DEFINITION. The array path (R106 to R126): exact products, the 32-product chunk, promotion into an FP32 accumulator,
preload, drain, and the FP32 additions and power-of-two steps that follow its rules. -/

namespace Sys2Proof.Machine

/-- An FP32 pattern read on the array path: a subnormal is zero of its sign, with flush_seen (R117). -/
def arrayIn (x : Word) : Fp × Sticky :=
  match Fmt.binary32.decode x.toNat with
  | .fin s m e => if m != 0 && m < 2 ^ 23 then (.fin s 0 e, .ofFlush) else (.fin s m e, .none)
  | y => (y, .none)

/-- The FP32 NaN of the array path (R122). -/
def arrayNan : Word := 0x7FC00000#32

def fp32Inf (s : Bool) : Word := wd (Fmt.binary32.infCode s)
def fp32Zero (s : Bool) : Word := wd (Fmt.binary32.signBit s)

/-- R116 to R118: the magnitude `(m + δ) × 2^e` of sign `s` rounded once to FP32, to nearest even with unbounded exponent, then
flushed or taken to infinity. An exact zero keeps the sign `s`. -/
def storeFp32 (s : Bool) (m : Nat) (e : Int) (sticky : Bool) : Word × Sticky :=
  if m = 0 && !sticky then (fp32Zero s, .none) else
  let x := roundSig .rne s m e sticky 24
  let lead : Int := Nat.log2 x.k + x.q
  if lead ≥ 128 then (fp32Inf s, .ofOvf)
  else if lead < -126 || x.k = 0 then (fp32Zero s, .ofFlush)
  else (wd ((Fmt.binary32.pack s x.k x.q).getD 0), .none)

/-- R116: an exact sum, whose zero is +0 unless both of its terms are -0. -/
def storeSum (negZero : Bool) (a : Dy) : Word × Sticky :=
  if a.m = 0 then (fp32Zero negZero, .none) else storeFp32 (decide (a.m < 0)) a.m.natAbs a.e false

/-- R120, product stage. -/
def product (a b : Fp) : Fp × Sticky :=
  let s := a.neg? != b.neg?
  if a.isNan || b.isNan then (.nan false 0 true, .ofNan)
  else if a.isInf || b.isInf then
    if a.isZero || b.isZero then (.nan false 0 true, .ofInvalid) else (.inf s, .none)
  else
    let p := a.val.mul b.val
    (.fin s p.m.natAbs p.e, .none)

/-- R113: the finite sum W of the finite products of a chunk, with the sign of a zero sum. -/
def windowSum (ps : List Fp) : Bool × Dy :=
  let fin := ps.filter (·.isFinite)
  let nz := fin.filter (!·.isZero)
  match nz with
  | [] => (!fin.isEmpty && fin.all (·.neg?), Dy.zero)
  | p :: rest =>
    let e := rest.foldl (fun m q => max m q.val.log2) p.val.log2
    let u := e - 42
    (false, ⟨nz.foldl (fun t q => t + (q.val.scale (-u)).floor) 0, u⟩)

/-- The finite sum beside the class of the chunk: `special` is NaN or an infinity where R120 gives one. -/
structure ChunkSum where
  special : Option Fp
  negZero : Bool
  w : Dy
  deriving DecidableEq, Repr

/-- R120, chunk stage. -/
def chunkSum (ps : List Fp) : ChunkSum × Sticky :=
  let (nz, w) := windowSum ps
  let pinf := ps.any (fun p => p.isInf && !p.neg?)
  let ninf := ps.any (fun p => p.isInf && p.neg?)
  if ps.any (·.isNan) then (⟨some (.nan false 0 true), nz, w⟩, .none)
  else if pinf && ninf then (⟨some (.nan false 0 true), nz, w⟩, .ofInvalid)
  else if pinf then (⟨some (.inf false), nz, w⟩, .none)
  else if ninf then (⟨some (.inf true), nz, w⟩, .none)
  else (⟨none, nz, w⟩, .none)

/-- R120 promotion stage over R116 to R118, with R121: the rounding of A + W is evaluated whenever A is finite. -/
def promoteSum (a : Word) (c : ChunkSum) : Word × Sticky :=
  let x := Fmt.binary32.decode a.toNat
  let ev : Word × Sticky :=
    if x.isFinite then storeSum (x.isZero && x.neg? && c.w.isZero && c.negZero) (x.val.add c.w) else (a, .none)
  match c.special with
  | none => if x.isNan then (arrayNan, Sticky.ofNan) else if x.isInf then (a, .none) else ev
  | some y =>
    if x.isNan || y.isNan then (arrayNan, ev.2.or .ofNan)
    else if x.isInf then (if x.neg? != y.neg? then (arrayNan, .ofInvalid) else (a, .none))
    else (fp32Inf y.neg?, ev.2)

/-- One chunk of products promoted into one accumulator. -/
def promote (a : Word) (pairs : List (Fp × Fp)) : Word × Sticky :=
  let ps := pairs.map (fun q => product q.1 q.2)
  let fl := ps.foldl (fun t p => t.or p.2) Sticky.none
  let (c, f2) := chunkSum (ps.map (·.1))
  let (r, f3) := promoteSum a c
  (r, (fl.or f2).or f3)

/-- A finite value rounded to BF16 and decoded again; a nonzero value that rounds to zero keeps its sign. -/
def toBf16 (r : RMode) (x : Dy) : Fp := Fmt.bf16.decode (narrowFinite .bf16 r false (decide (x.m < 0)) x.m.natAbs x.e).1

/-- R108: the BF16 pieces of an FP32 operand; NaN and infinity pass into the first, and the others are then zero. -/
def pieces (prec : Nat) (x : Word) : List Fp × Sticky :=
  match arrayIn x with
  | (.fin s m e, f) =>
    let v : Dy := (Fp.fin s m e).val
    let a0 := if m = 0 then .fin s 0 0 else toBf16 .rtz v
    let r1 := v.sub a0.val
    let a1 := toBf16 .rne r1
    let a2 := toBf16 .rne (r1.sub a1.val)
    (if prec = 1 then [a0, a1] else [a0, a1, a2], f)
  | (y, f) => (if prec = 1 then [y, .fin false 0 0] else [y, .fin false 0 0, .fin false 0 0], f)

/-- R110: the passes of a group of 32 reduction positions, as the piece of A and the piece of B that each multiplies. -/
def passOrder : Nat → List (Nat × Nat)
  | 0 => [(0, 0)]
  | 1 => [(1, 0), (0, 1), (0, 0)]
  | _ => [(2, 0), (1, 1), (0, 2), (1, 0), (0, 1), (0, 0)]

/-- One operand element at the array edge: its pieces (one for formats narrower than FP32) and the flags of its reading. -/
def edge (f : Format) (prec : Nat) (code : Nat) : List Fp × Sticky :=
  match f with
  | .fp32 => if prec = 0 then ((fun x => ([x.1], x.2)) (arrayIn (wd code))) else pieces prec (wd code)
  | _ => ([f.decode code], .none)

def fpZero : Fp := .fin false 0 0

/-- The product of one position in one pass (R110): outside a0·b0, an operand that is NaN or infinite gives +0. -/
def passPair (ab : List Fp × List Fp) (pq : Nat × Nat) : Fp × Fp :=
  let a0 := ab.1.getD 0 fpZero
  let b0 := ab.2.getD 0 fpZero
  if pq = (0, 0) then (a0, b0)
  else if a0.isFinite && b0.isFinite then (ab.1.getD pq.1 fpZero, ab.2.getD pq.2 fpZero) else (fpZero, fpZero)

/-- All passes of one group of 32 positions, promoted in order. -/
def promoteGroup (prec : Nat) (acc : Word × Sticky) (g : List (List Fp × List Fp)) : Word × Sticky :=
  (passOrder prec).foldl (fun (t : Word × Sticky) pq =>
    let r := promote t.1 (g.map (passPair · pq))
    (r.1, t.2.or r.2)) acc

/-- A list cut into pieces of `n` elements; `fuel` is at least its length. -/
def piecesOf {α : Type} (n : Nat) : Nat → List α → List (List α)
  | 0, _ => []
  | _ + 1, [] => []
  | fuel + 1, x :: xs => (x :: xs).take n :: piecesOf n fuel ((x :: xs).drop n)

def chunksOf {α : Type} (n : Nat) (l : List α) : List (List α) := piecesOf n l.length l

/-- R112: the accumulator of one cell over its reduction, filled with +0 to a multiple of 32 positions (R152). -/
def dotCell (prec : Nat) (a b : List (List Fp)) (acc : Word) : Word × Sticky :=
  let fill := (32 - (min a.length b.length) % 32) % 32
  let z : List Fp := [fpZero, fpZero, fpZero]
  (chunksOf 32 (a.zip b ++ List.replicate fill (z, z))).foldl (promoteGroup prec) (acc, .none)

/-- fl(x × y) on the array path (R126, R116 to R118, R120). -/
def arrayMul (x y : Word) : Word × Sticky :=
  match product (Fmt.binary32.decode x.toNat) (Fmt.binary32.decode y.toNat) with
  | (.nan .., f) => (arrayNan, f)
  | (.inf s, f) => (fp32Inf s, f)
  | (.fin s m e, f) => let r := storeFp32 s m e false; (r.1, f.or r.2)

/-- One array-path FP32 addition (R308, R354). -/
def arrayAdd (x y : Word) : Word × Sticky :=
  let a := arrayIn x
  let b := arrayIn y
  let f := a.2.or b.2
  if a.1.isNan || b.1.isNan then (arrayNan, f.or .ofNan)
  else if a.1.isInf && b.1.isInf && a.1.neg? != b.1.neg? then (arrayNan, f.or .ofInvalid)
  else if a.1.isInf then (x, f)
  else if b.1.isInf then (y, f)
  else
    let r := storeSum (a.1.isZero && b.1.isZero && a.1.neg? && b.1.neg?) (a.1.val.add b.1.val)
    (r.1, f.or r.2)

/-- The quotient of two magnitudes to at least 40 bits, with what lies below. -/
def quotBits (m : Nat) (e : Int) (m2 : Nat) (e2 : Int) : Nat × Int × Bool :=
  if m2 = 0 then (0, 0, false) else
  let k := Nat.log2 m2 + 64
  ((m <<< k) / m2, e - e2 - (k : Nat), (m <<< k) % m2 != 0)

/-- R126: one step of a drain factor, rounded to 24 bits, with the replacements of that rule. -/
def factorStep (m : Nat) (e : Int) (sticky : Bool) : Word × Sticky :=
  if m = 0 && !sticky then (0, .none) else
  let x := roundSig .rne false m e sticky 24
  let lead : Int := Nat.log2 x.k + x.q
  if lead ≥ 128 then (0x7F7FFFFF#32, .ofOvf)
  else if lead < -126 then (0x00800000#32, .ofFlush)
  else (wd ((Fmt.binary32.pack false x.k x.q).getD 0), .none)

def fpVal (x : Word) : Dy := (Fmt.binary32.decode x.toNat).val

/-- R126: f = fl(fl(s_A × s_B) / s_out). Scales are positive (R469). -/
def drainFactor (sa sb so : Word) : Word × Sticky :=
  let p := (fpVal sa).mul (fpVal sb)
  let s1 := factorStep p.m.natAbs p.e false
  let n := fpVal s1.1
  let d := fpVal so
  let q := quotBits n.m.natAbs n.e d.m.natAbs d.e
  let s2 := factorStep q.1 q.2.1 q.2.2
  (s2.1, s1.2.or s2.2)

/-- R124: the preload factor g = fl(s_P / fl(s_A × s_B)), each fl one IEEE 754 rounding. -/
def preloadFactor (sp sa sb : Word) : Word :=
  let p := (fpVal sa).mul (fpVal sb)
  let d := (Fmt.binary32.decode (ieeeRound .binary32 .rne false p.m.natAbs p.e false).1)
  let n := fpVal sp
  if d.isInf then 0 else
  if d.isZero then fp32Inf false else
  let q := quotBits n.m.natAbs n.e d.val.m.natAbs d.val.e
  wd (ieeeRound .binary32 .rne false q.1 q.2.1 q.2.2).1

/-- R124: the accumulator that a preload element starts. With g exactly 1.0 nothing is multiplied. -/
def preloadCell (f : Format) (g : Word) (code : Nat) : Word × Sticky :=
  if g = 0x3F800000#32 then
    match f.decode code with
    | .nan .. => (arrayNan, .ofNan)
    | _ => match arrayIn (widenTo32 f code) with
      | (.fin s 0 _, fl) => (fp32Zero s, fl)
      | (_, fl) => (widenTo32 f code, fl)
  else
    match product (f.decode code) (Fmt.binary32.decode g.toNat) with
    | (.nan .., fl) => (arrayNan, fl)
    | (.inf s, fl) => (fp32Inf s, fl)
    | (.fin s m e, fl) => let r := storeFp32 s m e false; (r.1, fl.or r.2)

/-- x × 2^k, exact, flushed below 2^-126 and infinite from 2^128; zeros, infinities and NaN are unchanged (R145, R117, R118). -/
def scale2 (x : Word) (k : Int) : Word × Sticky :=
  match Fmt.binary32.decode x.toNat with
  | .fin s m e => if m = 0 then (x, .none) else storeFp32 s m (e + k) false
  | _ => (x, .none)

/-- R145: the exponent of an accumulator lowered by `d`. -/
def decrement (x : Word) (d : Nat) : Word × Sticky := scale2 x (-(d : Int))

end Sys2Proof.Machine
end

