-- ==== Sys2Proof/Machine/Float.lean ====
section
/-! DEFINITION. The rib scalar path (R128): IEEE 754 operations over FP32 and FP64 codes, with their exception flags. -/

namespace Sys2Proof.Machine

/-- The NaN an operation gives for NaN operands: the first of them, made quiet (R128); invalid when one is signalling. -/
def nanOf (f : Fmt) (ops : List Nat) : Option (Nat × FFlags) :=
  match ops.find? (fun b => (f.decode b).isNan) with
  | none => none
  | some b => some (quieted f b, { invalid := ops.any (fun c => (f.decode c).isSnan) })

def invalidNan (f : Fmt) : Nat × FFlags := (f.qnanCode, { invalid := true })

/-- One rounding of an exact number; an exact zero takes the sign given. -/
def roundDy (f : Fmt) (r : RMode) (zeroNeg : Bool) (a : Dy) : Nat × FFlags :=
  if a.m = 0 then (f.signBit zeroNeg, {}) else ieeeRound f r (decide (a.m < 0)) a.m.natAbs a.e false

/-- The sign of an exact zero sum of two terms (IEEE 754): both signs equal, that sign; otherwise minus only toward -infinity. -/
def zeroSumSign (r : RMode) (s1 s2 : Bool) : Bool := if s1 == s2 then s1 else r == .rdn

/-- The sum of two operands that are not NaN. -/
def addFp (f : Fmt) (r : RMode) (x y : Fp) : Nat × FFlags :=
  match x, y with
  | .inf s, .inf t => if s == t then (f.infCode s, {}) else invalidNan f
  | .inf s, _ => (f.infCode s, {})
  | _, .inf t => (f.infCode t, {})
  | _, _ =>
    let zs := if x.isZero && y.isZero then zeroSumSign r x.neg? y.neg? else r == .rdn
    roundDy f r zs (x.val.add y.val)

def Fp.negate : Fp → Fp
  | .nan s p q => .nan (!s) p q
  | .inf s => .inf (!s)
  | .fin s m e => .fin (!s) m e

def fAdd (f : Fmt) (r : RMode) (a b : Nat) : Nat × FFlags :=
  (nanOf f [a, b]).getD (addFp f r (f.decode a) (f.decode b))

def fSub (f : Fmt) (r : RMode) (a b : Nat) : Nat × FFlags :=
  (nanOf f [a, b]).getD (addFp f r (f.decode a) (f.decode b).negate)

def fMul (f : Fmt) (r : RMode) (a b : Nat) : Nat × FFlags :=
  (nanOf f [a, b]).getD <|
    let x := f.decode a
    let y := f.decode b
    let s := x.neg? != y.neg?
    if x.isInf || y.isInf then (if x.isZero || y.isZero then invalidNan f else (f.infCode s, {}))
    else
      let p := x.val.mul y.val
      ieeeRound f r s p.m.natAbs p.e false

/-- va × vb + vc, rounded once. The product of an infinity and a zero is invalid; with a quiet NaN as vc the flag is the
implementation's (Config.fmaNanInvalid). -/
def fFma (f : Fmt) (r : RMode) (a b c : Nat) : Nat × FFlags :=
  let x := f.decode a
  let y := f.decode b
  let z := f.decode c
  let bad := (x.isInf && y.isZero) || (x.isZero && y.isInf)
  match nanOf f [a, b, c] with
  | some (n, fl) => (n, { fl with invalid := fl.invalid || (bad && Config.fmaNanInvalid) })
  | none =>
    if bad then invalidNan f else
    let s := x.neg? != y.neg?
    if x.isInf || y.isInf then addFp f r (.inf s) z
    else
      let p := x.val.mul y.val
      addFp f r (.fin s p.m.natAbs p.e) z

/-- The quotient of two magnitudes with `k` bits beyond the divisor, and whether a remainder is left. -/
def quotient (k : Nat) (x y : Dy) : Nat × Int × Bool :=
  let d := y.m.natAbs
  let sh := k + Nat.log2 d
  ((x.m.natAbs <<< sh) / d, x.e - y.e - (sh : Int), (x.m.natAbs <<< sh) % d != 0)

def fDiv (f : Fmt) (r : RMode) (a b : Nat) : Nat × FFlags :=
  (nanOf f [a, b]).getD <|
    let x := f.decode a
    let y := f.decode b
    let s := x.neg? != y.neg?
    if x.isInf then (if y.isInf then invalidNan f else (f.infCode s, {}))
    else if y.isInf then (f.signBit s, {})
    else if y.isZero then (if x.isZero then invalidNan f else (f.infCode s, { divByZero := true }))
    else if x.isZero then (f.signBit s, {})
    else
      let q := quotient (f.p + 3) x.val y.val
      ieeeRound f r s q.1 q.2.1 q.2.2

/-- The square root of a magnitude with at least `k` bits, and whether it is inexact. -/
def rootBits (k : Nat) (m : Nat) (e : Int) : Nat × Int × Bool :=
  let sh : Nat := 2 * k + (if (e - 2 * k) % 2 = 0 then 0 else 1)
  let v := m <<< sh
  let q := isqrt v
  (q, (e - sh) / 2, q * q != v)

def fSqrt (f : Fmt) (r : RMode) (a : Nat) : Nat × FFlags :=
  (nanOf f [a]).getD <|
    match f.decode a with
    | .fin s m e =>
      if m = 0 then (f.signBit s, {}) else if s then invalidNan f
      else
        let q := rootBits (f.p + 2) m e
        ieeeRound f r false q.1 q.2.1 q.2.2
    | .inf s => if s then invalidNan f else (f.infCode false, {})
    | .nan .. => (quieted f a, {})

/-- Whether `x` lies below `y`, neither being NaN, with -0 below +0. -/
def Fp.below (x y : Fp) : Bool :=
  match x, y with
  | .inf s, .inf t => s && !t
  | .inf s, _ => s
  | _, .inf t => !t
  | _, _ => if x.isZero && y.isZero then x.neg? && !y.neg? else x.val.lt y.val

/-- IEEE 754 minimum and maximum: a NaN operand gives a NaN. -/
def fMin (f : Fmt) (a b : Nat) : Nat × FFlags :=
  (nanOf f [a, b]).getD (if (f.decode b).below (f.decode a) then b else a, {})

def fMax (f : Fmt) (a b : Nat) : Nat × FFlags :=
  (nanOf f [a, b]).getD (if (f.decode a).below (f.decode b) then b else a, {})

/-- The four-way comparison of IEEE 754: less, equal, greater, or unordered (`none`). -/
def fOrder (x y : Fp) : Option Int :=
  if x.isNan || y.isNan then none else
  match x, y with
  | .inf s, .inf t => some (if s == t then 0 else if s then -1 else 1)
  | .inf s, _ => some (if s then -1 else 1)
  | _, .inf t => some (if t then 1 else -1)
  | _, _ => some (if x.val.eq y.val then 0 else if x.val.lt y.val then -1 else 1)

/-- R244: the relations of FCMP and DCMP by imm[2:0]. -/
def relation (rel : Nat) (o : Option Int) : Bool :=
  match rel, o with
  | 0, some c => c == 0
  | 1, some c => c == -1
  | 2, some c => c != 1
  | 3, o => o.isNone
  | 4, some c => c != 0
  | 4, none => true
  | 5, some c => c != -1
  | 6, some c => c == 1
  | _, _ => false

def fCmp (f : Fmt) (rel a b : Nat) : Bool × FFlags :=
  let x := f.decode a
  let y := f.decode b
  let ordered := rel == 1 || rel == 2 || rel == 5 || rel == 6
  (relation rel (fOrder x y),
    { invalid := x.isSnan || y.isSnan || ((x.isNan || y.isNan) && ordered && Config.orderedCompareSignals) })

/-- The signed integer that a 32-bit pattern stands for. -/
def sInt (w : Word) : Int := w.toInt

/-- va × 2^vb, one rounding (FSCALE). A distance beyond the format's own range is cut to it: the result is the same. -/
def fScaleB (f : Fmt) (r : RMode) (a : Nat) (k : Int) : Nat × FFlags :=
  (nanOf f [a]).getD <|
    match f.decode a with
    | .fin s m e => if m = 0 then (a, {}) else ieeeRound f r s m (e + max (-6000) (min 6000 k)) false
    | _ => (a, {})

/-- FEXPO (R244). -/
def fExpo (a : Nat) : Word × FFlags :=
  let sig : FFlags := { invalid := Config.exponentSignals }
  match Fmt.binary32.decode a with
  | .fin _ m e => if m = 0 then (BitVec.ofInt 32 (-32768), sig) else (BitVec.ofInt 32 (Nat.log2 m + e), {})
  | _ => (BitVec.ofInt 32 32767, sig)

/-- FCVT imm 0: FP32 to int32 toward zero, saturating; the value for a NaN is the implementation's. -/
def toInt32 (a : Nat) : Word × FFlags :=
  match Fmt.binary32.decode a with
  | .nan .. => (Config.fcvtNan (wd a), { invalid := true })
  | .inf s => (if s then 0x80000000#32 else 0x7FFFFFFF#32, { invalid := true })
  | .fin s m e =>
    if m = 0 then (0, {}) else
    if (Nat.log2 m : Int) + e > 40 then (if s then 0x80000000#32 else 0x7FFFFFFF#32, { invalid := true }) else
    let x := roundAt .rtz s m e false 0
    let v : Int := if s then -(x.k : Int) else x.k
    if v < -2147483648 then (0x80000000#32, { invalid := true })
    else if v > 2147483647 then (0x7FFFFFFF#32, { invalid := true })
    else (BitVec.ofInt 32 v, { inexact := x.inexact && Config.toIntSignalsInexact })

/-- FCVT imm 1: int32 to FP32. -/
def fromInt32 (r : RMode) (w : Word) : Nat × FFlags :=
  roundDy .binary32 r false (Dy.ofInt (sInt w))

/-- FCVT imm 2 and 3, and the conversions of R104 between FP32 and FP64. -/
def fConvert (src dst : Format) (r : RMode) (a : Nat) : Nat × FFlags :=
  match src.decode a with
  | .nan s p q => (convertNan src dst s p, { invalid := !q })
  | .inf s => ((if dst = .fp64 then Fmt.binary64 else Fmt.binary32).infCode s, {})
  | .fin s m e => ieeeRound (if dst = .fp64 then .binary64 else .binary32) r s m e false

/-- FSGN (R244): the sign operations, which raise no IEEE 754 flag and keep a NaN's payload. -/
def fSgn (sel a b : Nat) : Nat :=
  match sel % 4 with
  | 0 => a % 2 ^ 31
  | 1 => a ^^^ 2 ^ 31
  | 2 => a % 2 ^ 31 + (if bit b 31 then 2 ^ 31 else 0)
  | _ => a

end Sys2Proof.Machine
end

