-- ==== Sys2Proof/Machine/Tbl.lean ====
section
/-! DEFINITION. Sparse tables: lists of (index, value) pairs with rising indices and no entry equal to the default, so that
equal tables are equal lists. -/

namespace Sys2Proof.Machine

/-- The entry at an index, `d` where none is listed. -/
def tget {α : Type} (d : α) : List (Nat × α) → Nat → α
  | [], _ => d
  | (k, v) :: t, i => if k = i then v else tget d t i

/-- Removes an index. -/
def tdel {α : Type} : List (Nat × α) → Nat → List (Nat × α)
  | [], _ => []
  | (k, v) :: t, i => if k = i then tdel t i else (k, v) :: tdel t i

/-- Puts an entry in its place, replacing one that is there. -/
def tput {α : Type} : List (Nat × α) → Nat → α → List (Nat × α)
  | [], i, x => [(i, x)]
  | (k, v) :: t, i, x =>
    if k = i then (i, x) :: t
    else if i < k then (i, x) :: (k, v) :: t
    else (k, v) :: tput t i x

/-- Writes an entry; writing the default removes it. -/
def tset {α : Type} [DecidableEq α] (d : α) (t : List (Nat × α)) (i : Nat) (x : α) : List (Nat × α) :=
  if x = d then tdel t i else tput t i x

/-- Changes an entry. -/
def tmod {α : Type} [DecidableEq α] (d : α) (t : List (Nat × α)) (i : Nat) (f : α → α) : List (Nat × α) :=
  tset d t i (f (tget d t i))

/-- The entries of the indices `lo` to `lo + n - 1`. -/
def tslice {α : Type} (d : α) (t : List (Nat × α)) (lo n : Nat) : List α := (List.range n).map (fun i => tget d t (lo + i))

/-- Writes a run of entries from an index on. -/
def tfill {α : Type} [DecidableEq α] (d : α) (t : List (Nat × α)) (lo : Nat) : List α → List (Nat × α)
  | [] => t
  | x :: xs => tfill d (tset d t lo x) (lo + 1) xs

/-- Drops every entry in a range of indices. -/
def tclear {α : Type} (t : List (Nat × α)) (lo n : Nat) : List (Nat × α) := t.filter (fun p => p.1 < lo || lo + n ≤ p.1)

/-- The canonical form: indices rise strictly and no entry equals the default. -/
def twf {α : Type} [DecidableEq α] (d : α) (t : List (Nat × α)) : Bool :=
  decide (t.Pairwise (fun a b => a.1 < b.1)) && t.all (fun p => p.2 != d)

/-- The last entry of each index of a list, as a list of distinct values in their first order. -/
def distinct {α : Type} [DecidableEq α] : List α → List α
  | [] => []
  | x :: xs => x :: (distinct xs).filter (fun y => y != x)

/-- A list with one entry replaced. -/
def lset {α : Type} (l : List α) (i : Nat) (x : α) : List α := l.set i x

def sumNat (l : List Nat) : Nat := l.foldl (· + ·) 0

end Sys2Proof.Machine
end

