-- ==== Sys2Proof/Machine/Special.lean ====
section
/-! DEFINITION. The special functions of R251 to R260, the seed tables of R255 and R569, and the wide-exponent form with its
row steps (R173 to R177). A result that the manual only bounds is a free value held to its bound. -/

namespace Sys2Proof.Machine

/-! ### Fixed-point constants, 160 fraction bits -/

def fixBits : Nat := 160
def fixOne : Nat := 2 ^ fixBits

/-- Σ (±1)^k / ((2k+1) n^(2k+1)), with `k` from 0: arctan (alternating) or artanh of 1/n. -/
def atanSum (n : Nat) (alternate : Bool) : (terms k pow : Nat) → Int
  | 0, _, _ => 0
  | t + 1, k, pow =>
    let term : Int := ((pow / (2 * k + 1) : Nat) : Int)
    (if alternate && k % 2 == 1 then -term else term) + atanSum n alternate t (k + 1) (pow / (n * n))

/-- π by Machin's formula. -/
def piFix : Nat := (16 * atanSum 5 true 72 0 (fixOne / 5) - 4 * atanSum 239 true 24 0 (fixOne / 239)).toNat
/-- ln 2 = 2 artanh(1/3). -/
def ln2Fix : Nat := (2 * atanSum 3 false 104 0 (fixOne / 3)).toNat
def log2eFix : Nat := 2 ^ (2 * fixBits) / ln2Fix

def fixMul (a b : Int) : Int := (a * b) / (fixOne : Int)

/-- Σ x^k / k!, the exponential of a small fixed-point number. -/
def expSum (x : Int) : (terms k : Nat) → Int → Int
  | 0, _, _ => 0
  | t + 1, k, term => term + expSum x t (k + 1) (fixMul term x / ((k : Int) + 1))

def squareN (n : Nat) (x : Int) : Int := match n with | 0 => x | n + 1 => squareN n (fixMul x x)

/-- e^x for a fixed-point `x` in [0, 1): the series on x/256, squared eight times. -/
def expFix (x : Int) : Int := squareN 8 (expSum (x / 256) 24 0 fixOne)

/-- An exact number in fixed point (cut below 2^-160). -/
def Dy.fix (a : Dy) : Int := (a.scale fixBits).floor

/-- e^x, to about 120 significant bits, for |x| below 2^13. -/
def expDy (x : Dy) : Dy :=
  let y := fixMul x.fix log2eFix
  let n := y / (fixOne : Int)
  let f := y - n * fixOne
  ⟨expFix (fixMul f ln2Fix), n - fixBits⟩

/-- Σ over k of x^(2k+j)/(2k+j)! with alternating sign: cosine (j = 0) or sine (j = 1). -/
def trigSum (x2 : Int) : (terms k : Nat) → Int → Int
  | 0, _, _ => 0
  | t + 1, k, term => term + trigSum x2 t (k + 2) (-(fixMul term x2) / (((k : Int) + 1) * (k + 2)))

/-- The angle of a turn fraction, taken between -π and π. -/
def turnAngle (w : Nat) : Int :=
  let s : Int := if w < 2 ^ 31 then w else (w : Int) - 2 ^ 32
  s * 2 * piFix / 2 ^ 32

def sinTurn (w : Nat) : Dy := let x := turnAngle w; ⟨trigSum (fixMul x x) 40 1 x, -(fixBits : Int)⟩
def cosTurn (w : Nat) : Dy := let x := turnAngle w; ⟨trigSum (fixMul x x) 40 0 fixOne, -(fixBits : Int)⟩

/-- The first `n` fraction bits of log2 of a fixed-point number in [1, 2), by repeated squaring. -/
def log2Bits : (n x acc : Nat) → Nat
  | 0, _, acc => acc
  | n + 1, x, acc =>
    let y := (x * x) >>> fixBits
    if y ≥ 2 * fixOne then log2Bits n (y / 2) (2 * acc + 1) else log2Bits n y (2 * acc)

/-- fl: an exact number rounded once to FP32, to nearest even. -/
def fl32 (a : Dy) : Word := wd (roundDy .binary32 .rne false a).1

def fixFl (v : Int) : Word := fl32 ⟨v, -(fixBits : Int)⟩

/-! ### Seed tables -/

/-- 2^(2^-k) in fixed point, `k` from 1, by repeated square roots. -/
def rootOfTwo : Nat → Nat
  | 0 => 2 * fixOne
  | k + 1 => isqrt (rootOfTwo k <<< fixBits)

/-- 2^(j/1,024) in fixed point: the product of the roots that the ten bits of `j` name. -/
def exp2Fix (j : Nat) : Nat :=
  (List.range 10).foldl (fun a i => if bit j (9 - i) then (a * rootOfTwo (i + 1)) >>> fixBits else a) fixOne

/-- R255 and R569: word `i` of the factory content of a seed buffer. -/
def factoryWord (i : Nat) : Word :=
  if i < 1024 then fixFl (exp2Fix i)
  else if i < 2048 then
    let c := 2 * ((i - 1024) / 2) + 1 + 1024
    if i % 2 = 0 then fixFl ((1024 * fixOne / c : Nat)) else fl32 ⟨(log2Bits 80 (c * fixOne / 1024) 0 : Nat), -80⟩
  else if i < 3584 then Config.factorySeed i
  else if i < 3840 then fixFl (sinTurn ((i - 3584) * 2 ^ 22)).m
  else if i = 3840 then fixFl ln2Fix
  else if i = 3841 then fixFl (fixMul ln2Fix ln2Fix / 2)
  else if i = 3842 then fixFl log2eFix
  else if i = 3843 then fixFl (-(log2eFix : Int) / 2)
  else if i = 3844 then fixFl ((log2eFix : Int) / 3)
  else Config.factorySeed i

/-- The words of a seed buffer that differ from the factory content. -/
abbrev Seeds := List (Nat × Word)

def seedWord (s : Seeds) (i : Nat) : Word := tget (factoryWord i) s i

/-- Whether a range of words holds the factory content. -/
def factoryIn (s : Seeds) (lo hi : Nat) : Bool := s.all (fun p => p.1 < lo || hi < p.1)

def finiteWord (w : Word) : Bool := (Fmt.binary32.decode w.toNat).isFinite

/-! ### Free values held to a bound -/

/-- The bound of R251: within `n` units in the last place of the exact result. -/
def ulps (n : Nat) (approx : Dy) : Dy :=
  if approx.m = 0 then ⟨n, -149⟩ else ⟨n, max (approx.log2 - 23) (-149)⟩

/-- The free value `r` where it lies within `tol` of the result, and the result rounded otherwise. -/
def bounded (r : Word) (approx tol : Dy) : Word :=
  match Fmt.binary32.decode r.toNat with
  | .fin s m e => if (((Fp.fin s m e).val.sub approx).abs).le tol then r else fl32 approx
  | _ => fl32 approx

def nanWord : Word := 0x7FC00000#32
def oneWord : Word := 0x3F800000#32
def isInfWord (w : Word) : Bool := (Fmt.binary32.decode w.toNat).isInf

/-- Codes of the functions, the opcodes of R244. -/
abbrev fnRsqrt : Nat := 0x34
abbrev fnTanh : Nat := 0x35
abbrev fnSint : Nat := 0x36
abbrev fnCost : Nat := 0x37
abbrev fnGact : Nat := 0x38

/-! ### EXP2, EXP and WEXP (R252) -/

/-- Step 3 of R252: the 30-bit significand of 2^(y-n), an exact number; `none` where a loaded table word is not finite. -/
def exp2Core (s : Seeds) (y : Dy) : Option (Dy × Int) :=
  let n := y.floor
  let f := y.sub (Dy.ofInt n)
  let j := (f.scale 10).floor.toNat
  let r := f.sub ⟨j, -10⟩
  let t := seedWord s j
  let c1 := seedWord s 3840
  let c2 := seedWord s 3841
  if finiteWord t && finiteWord c1 && finiteWord c2 then
    let q := (Dy.ofInt 1).add (((fpVal c1).mul r).add ((fpVal c2).mul (r.mul r)))
    some (((fpVal t).mul q).round .rne 30, n)
  else none

/-- The argument of EXP and WEXP: x × hi + x × lo rounded to 40 significant bits (R252). -/
def expArgument (x : Dy) : Dy :=
  let hi := fpVal 0x3FB8AA3B#32
  let lo := fpVal (fl32 ((⟨log2eFix, -(fixBits : Int)⟩ : Dy).sub hi))
  ((x.mul hi).add (x.mul lo)).round .rne 40

/-- 2^y rounded to FP32 (step 4 of R252), with the overflow flag of R251. The table words decide it for every `y` (R258). -/
def exp2Word (s : Seeds) (fn : Nat) (a : Word) (y : Dy) : Word × FFlags :=
  match exp2Core s y with
    | none => (Config.loadedTableValue fn s a 0, {})
    | some (v, n) =>
      let r := roundDy .binary32 .rne false (v.scale n)
      (wd r.1, { overflow := r.2.overflow })

def special2 (s : Seeds) (fn : Nat) (a : Word) (arg : Dy → Dy) : Word × FFlags :=
  match Fmt.binary32.decode a.toNat with
  | .nan .. => (nanWord, {})
  | .inf true => (0, {})
  | .inf false => (fp32Inf false, {})
  | x => exp2Word s fn a (arg x.val)

def exp2Op (s : Seeds) (a : Word) : Word × FFlags := special2 s 0x31 a id
def expOp (s : Seeds) (a : Word) : Word × FFlags := special2 s 0x30 a expArgument

/-! ### The wide-exponent form (R173) -/

def rangeMark : Nat := 0xFFF * 2 ^ 16
def wexpOf (w : Nat) : Nat := fld w 27 16
def wfracOf (w : Nat) : Nat := fld w 15 0
/-- Nonzero and not the range marker. -/
def wNonzero (w : Nat) : Bool := wexpOf w != 0 && wexpOf w != 0xFFF
def wExponent (w : Nat) : Int := (wexpOf w : Int) - 2047
/-- The exact value; the range marker adds nothing (R184). -/
def wVal (w : Nat) : Dy := if wNonzero w then ⟨2 ^ 16 + wfracOf w, wExponent w - 16⟩ else Dy.zero

/-- A positive exact number rounded to 17 significant bits and placed in the form. -/
def wPack (a : Dy) : Nat :=
  if a.m ≤ 0 then 0 else
  let r := a.round .rne 17
  let e := r.log2
  ((e + 2047).toNat) * 2 ^ 16 + (r.scale (16 - e)).floor.toNat % 2 ^ 16

/-- R175 step 4: one addition, rounded to nearest even at 16 fraction bits. -/
def wAdd (a b : Nat) : Nat := wPack ((wVal a).add (wVal b))

/-- R174: finite and between -1,386 and 1,386. -/
def inRange (a : Word) : Bool :=
  match Fmt.binary32.decode a.toNat with
  | .fin s m e => ((Fp.fin s m e).val.abs).le (Dy.ofInt 1386)
  | _ => false

/-- WEXP (R252, R174): e^s in the wide-exponent form, or the range marker. -/
def wexp (s : Seeds) (a : Word) : Nat :=
  if inRange a then
    match exp2Core s (expArgument (fpVal a)) with
    | some (v, n) => if v.m > 0 then wPack (v.scale n) else (Config.loadedTableValue 0x39 s a 0).toNat % 2 ^ 28
    | none => (Config.loadedTableValue 0x39 s a 0).toNat % 2 ^ 28
  else rangeMark

/-- One level of the fixed pairwise tree, entry 2k with entry 2k + 1. -/
def pairUp {α : Type} (f : α → α → α) : List α → List α
  | x :: y :: t => f x y :: pairUp f t
  | l => l

/-- A fixed pairwise tree of `levels` levels. -/
def tree {α : Type} (f : α → α → α) : Nat → List α → List α
  | 0, l => l
  | n + 1, l => tree f n (pairUp f l)

/-- The tree over up to 128 terms. -/
def wTree (l : List Nat) : Nat := (tree wAdd 7 l).headD 0

/-- The row state of R265. -/
structure RowState where
  m : Option Int := none
  l : Nat := 0
  bad : Bool := false
  deriving DecidableEq, Repr

/-- R265: the two words of a row state. -/
def RowState.words (r : RowState) : Word × Word :=
  (wd ((match r.m with | none => 2 ^ 16 | some m => (BitVec.ofInt 16 m).toNat) + 2 ^ 17 * b2n r.bad), wd r.l)

def RowState.ofWords (a b : Word) : RowState :=
  { m := if bit a.toNat 16 then none else some (BitVec.ofNat 16 a.toNat).toInt, l := b.toNat, bad := bit a.toNat 17 }

/-- R175: t_P. -/
def tP : Format → Int
  | .e4m3 => 7 | .e5m2 => 14 | _ => 0

/-- Steps 1 to 4 of R175 on one run of terms: the new state and the decrement. A range marker sets the row's range flag
(R184) and adds nothing. -/
def rowTerms (st : RowState) (terms : List Nat) : RowState × Nat :=
  let bad := st.bad || terms.any (fun w => wexpOf w == 0xFFF)
  let nz := terms.filter wNonzero
  let t : Option Int := nz.foldl (fun o w => some (match o with | none => wExponent w | some x => max x (wExponent w))) none
  let m' : Option Int := match st.m, t with
    | none, t => t
    | some a, none => some a
    | some a, some b => some (max a b)
  let d : Nat := match st.m, m' with
    | some a, some b => min (b - a).toNat 255
    | _, _ => 0
  ({ m := m', l := wAdd st.l (wTree (terms.map (fun w => if wNonzero w then w else 0))), bad := bad }, d)

/-- Step 5 of R175: P = w × 2^(t_P - m), in the code of the P format. -/
def rowP (m : Option Int) (p : Format) (w : Nat) : Nat :=
  match m with
  | none => 0
  | some m => if wNonzero w then
      let v := (wVal w).scale (tP p - m)
      (narrowFinite p .rne false false v.m.natAbs v.e).1
    else 0

/-! ### RCP, LOG2 and the rest -/

/-- The words of one table of a seed buffer that differ from the factory content. -/
def Seeds.table (s : Seeds) (lo hi : Nat) : Seeds := s.filter (fun p => decide (lo ≤ p.1 ∧ p.1 ≤ hi))

/-- RCP (R251, R254): correctly rounded with the factory seeds. Of a loaded buffer it uses its seed table alone (R569). A result beyond FP32 (of
a small subnormal) raises the overflow flag, which R251 names for EXP only (DESIGN CHOICE, log 147). -/
def rcpOp (s : Seeds) (a : Word) : Word × FFlags :=
  match Fmt.binary32.decode a.toNat with
  | .nan .. => (nanWord, {})
  | .inf g => (fp32Zero g, {})
  | .fin g m e =>
    if m = 0 then (fp32Inf g, { divByZero := true })
    else if (s.table 2048 2559).isEmpty then
      let q := quotient 30 (Dy.ofInt 1) ⟨m, e⟩
      let r := ieeeRound .binary32 .rne g q.1 q.2.1 q.2.2
      (wd r.1, { overflow := r.2.overflow })
    else (Config.loadedTableValue 0x33 (s.table 2048 2559) a 0, {})

/-- LOG2 (R570, R251). -/
def log2Op (s : Seeds) (a : Word) : Word × FFlags :=
  match Fmt.binary32.decode a.toNat with
  | .nan .. => (nanWord, {})
  | .inf true => (nanWord, { invalid := true })
  | .inf false => (fp32Inf false, {})
  | .fin g m e =>
    if m = 0 then (fp32Inf true, { divByZero := true })
    else if g then (nanWord, { invalid := true })
    else
      let n : Int := Nat.log2 m + e
      let f : Dy := ⟨m, e - n⟩
      let j := ((f.sub (Dy.ofInt 1)).scale 9).floor.toNat
      let ws := [seedWord s (1024 + 2 * j), seedWord s (1025 + 2 * j), seedWord s 3842, seedWord s 3843, seedWord s 3844]
      if ws.all finiteWord then
        let v (i : Nat) := fpVal (ws.getD i 0)
        let u := (f.sub ⟨2 * j + 1025, -10⟩).mul (v 0)
        let p := (u.mul ((v 2).add (u.mul ((v 3).add (u.mul (v 4)))))).round .rne 30
        (fl32 (((Dy.ofInt n).add (v 1)).add p), {})
      else (Config.loadedTableValue 0x32 s a 0, {})

/-- RSQRT (R251, R254): within 1 ulp with the factory seeds. Of a loaded buffer it uses its seed table alone (R569). -/
def rsqrtOp (s : Seeds) (a : Word) : Word × FFlags :=
  match Fmt.binary32.decode a.toNat with
  | .nan .. => (nanWord, {})
  | .inf true => (nanWord, { invalid := true })
  | .inf false => (0, {})
  | .fin g m e =>
    if m = 0 then (if g then Config.loadedTableValue fnRsqrt [] a 0 else fp32Inf false, { divByZero := !g || Config.rsqrtMinusZeroSignals })
    else if g then (nanWord, { invalid := true })
    else
      let t := s.table 2560 3583
      if t.isEmpty then
        let q := rootBits 100 m e
        let x := quotient 100 (Dy.ofInt 1) ⟨q.1, q.2.1⟩
        (bounded (Config.specialValue fnRsqrt [] a 0) ⟨x.1, x.2.1⟩ (ulps 1 ⟨x.1, x.2.1⟩), {})
      else (Config.loadedTableValue fnRsqrt t a 0, {})

/-- A quotient of exact numbers to about 120 bits. -/
def Dy.div (a b : Dy) : Dy :=
  let q := quotient 120 a b
  ⟨if (a.m < 0) != (b.m < 0) then -(q.1 : Int) else q.1, q.2.1⟩

/-- σ(x) = 1 / (1 + e^-x), with |x| cut to 4,000 (beyond, σ is 0 or 1 to more bits than any result holds). -/
def sigmoidDy (x : Dy) : Dy :=
  let lim := Dy.ofInt 4000
  let x := if lim.lt x then lim else if x.lt lim.neg then lim.neg else x
  if x.log2 < -60 then (⟨1, -1⟩ : Dy).add (x.scale (-2))
  else if x.m < 0 then let e := expDy x; e.div ((Dy.ofInt 1).add e)
  else (Dy.ofInt 1).div ((Dy.ofInt 1).add (expDy x.neg))

/-- tanh x, near 0 by x - x³/3. -/
def tanhDy (x : Dy) : Dy :=
  if x.m = 0 then x
  else if x.log2 < -24 then x.sub ((x.mul (x.mul x)).div (Dy.ofInt 3))
  else
    let lim := Dy.ofInt 100
    let x := if lim.lt x then lim else if x.lt lim.neg then lim.neg else x
    let e := expDy (x.scale 1)
    (e.sub (Dy.ofInt 1)).div (e.add (Dy.ofInt 1))

/-- TANH (R251). -/
def tanhOp (s : Seeds) (a : Word) : Word × FFlags :=
  match Fmt.binary32.decode a.toNat with
  | .nan .. => (nanWord, {})
  | .inf g => (if g then 0xBF800000#32 else oneWord, {})
  | x =>
    let r := Config.specialValue fnTanh s a 0
    if s.isEmpty then (bounded r (tanhDy x.val) (ulps 2 (tanhDy x.val)), {}) else (r, {})

/-- SINT and COST (R251): within 2^-23, for every turn fraction. -/
def sintOp (s : Seeds) (a : Word) : Word :=
  let r := Config.specialValue fnSint s a 0
  if s.isEmpty then bounded r (sinTurn a.toNat) ⟨1, -23⟩ else r

def costOp (s : Seeds) (a : Word) : Word :=
  let r := Config.specialValue fnCost s a 0
  if s.isEmpty then bounded r (cosTurn a.toNat) ⟨1, -23⟩ else r

/-- R260: the activation of a finite argument. GELU is a σ(2u) with u = 0.7978845608 (a + 0.044715 a³). -/
def actDy (sel : Nat) (x : Dy) : Dy :=
  match sel with
  | 0 => x.mul (sigmoidDy x)
  | 1 =>
    let u := (Dy.ofInt 7978845608).mul (x.add (((Dy.ofInt 44715).mul (x.mul (x.mul x))).div (Dy.ofInt 1000000)))
    let u := if u.m = 0 then u else u.div (Dy.ofInt 10000000000)
    x.mul (sigmoidDy (u.scale 1))
  | 2 => sigmoidDy x
  | 3 => if x.m < 0 then Dy.zero else x
  | _ => if x.m < 0 then Dy.zero else x.mul x

/-- GACT (R251, R260). ReLU is one rounding of max(a, 0) × b; the others lie within 2 ulp of the exact act(a) × b. An infinite
argument of SiLU or GELU toward -infinity has no stated activation, so the result there is free. Under a loaded buffer SiLU, GELU and sigmoid
give what its tables compute (R258). The overflow and invalid flags of the product, which R251 does not name, are raised as IEEE 754
multiplication raises them (DESIGN CHOICE, log 147). -/
def gactOp (s : Seeds) (sel : Nat) (a b : Word) : Word × FFlags :=
  let x := Fmt.binary32.decode a.toNat
  let y := Fmt.binary32.decode b.toNat
  let one (p : Nat × FFlags) : Word × FFlags := (wd p.1, { invalid := p.2.invalid, overflow := p.2.overflow })
  if x.isNan || y.isNan then (nanWord, {})
  else if !s.isEmpty && sel < 3 then (Config.specialValue (fnGact + 256 * sel) s a b, {})
  else if x.isInf then
    if x.neg? && sel ≤ 1 then (Config.specialValue (fnGact + 256 * sel) s a b, {})
    else one (fMul .binary32 .rne
      (if sel = 2 then (if x.neg? then 0 else oneWord.toNat) else if x.neg? then 0 else Fmt.binary32.infCode false) b.toNat)
  else if sel = 3 then one (fMul .binary32 .rne (if x.neg? then 0 else a.toNat) b.toNat)
  else
    let act := actDy sel x.val
    if y.isInf then
      if act.m = 0 then (nanWord, { invalid := true }) else (fp32Inf (y.neg? != decide (act.m < 0)), {})
    else
      let v := act.mul y.val
      let r := Config.specialValue (fnGact + 256 * sel) s a b
      let f := roundDy .binary32 .rne (y.neg? != decide (act.m < 0)) v
      if f.2.overflow then (wd f.1, { overflow := true })
      else (bounded r v (ulps 2 v), {})

/-- R177: the row factor G = fl(r × keep) × 2^(m - t_P - e), with the flags of its last rounding. -/
def rowFactor (s : Seeds) (st : RowState) (keep : Word) (p : Format) : Word × Sticky :=
  let sig : Word := wd (0x3F800000 + wfracOf st.l * 2 ^ 7)
  let g := (fMul .binary32 .rne (rcpOp s sig).1.toNat keep.toNat).1
  let k := st.m.getD 0 - tP p - wExponent st.l
  match Fmt.binary32.decode g with
  | .fin sg m e =>
    if m = 0 then (wd g, .none) else
    let r := roundSig .rne sg m (e + k) false 24
    if (Nat.log2 r.k : Int) + r.q < -126 then (0, .ofFlush) else storeFp32 sg m (e + k) false
  | _ => (wd g, .none)

/-- R253: L of a row state. A range flag gives NaN, a zero sum gives -infinity (R251). -/
def wlogOp (s : Seeds) (st : RowState) : Word :=
  if st.bad then nanWord
  else if wexpOf st.l = 0 then fp32Inf true
  else if wexpOf st.l = 0xFFF then Config.loadedTableValue 0x3A s (wd st.l) 0
  else
    let t1 := (log2Op s (wd (0x3F800000 + wfracOf st.l * 2 ^ 7))).1
    let t2 := (fAdd .binary32 .rne (fl32 (Dy.ofInt (wExponent st.l))).toNat t1.toNat).1
    wd (fMul .binary32 .rne t2 0x3F317218).1

/-- R177: one drained value of a finished row. A row sum that holds the range marker (a row state that no chain writes) has no
stated factor, so its value is free (log 11). -/
def rowFinish (s : Seeds) (st : RowState) (keep : Word) (p : Format) (x : Word) : Word × Sticky :=
  if st.bad then (nanWord, .none)
  else if wexpOf st.l = 0 then (0, .none)
  else if wexpOf st.l = 0xFFF then (Config.loadedTableValue 0x43 s x (wd st.l), .none)
  else
    let g := rowFactor s st keep p
    let y := arrayMul x g.1
    (y.1, g.2.or y.2)

/-- ROWFIN (R266): NaN for a range flag, +0 for a zero sum, otherwise fl(va × G) with keep = 1.0: one rounding to FP32 (R569)
that keeps a subnormal product (R273, log 121). -/
def rowfinOp (s : Seeds) (st : RowState) (p : Format) (x : Word) : Word × Sticky :=
  if st.bad then (nanWord, .none)
  else if wexpOf st.l = 0 then (0, .none)
  else if wexpOf st.l = 0xFFF then (Config.loadedTableValue 0x43 (s.table 2048 2559) x (wd st.l), .none)
  else
    let g := rowFactor s st oneWord p
    let y := fMul .binary32 .rne x.toNat g.1.toNat
    (wd y.1, g.2.or (y.2.sticky false))

/-- R183: the withy generator, on 64-bit unsigned numbers. -/
def withyRounds : Nat → DWord → DWord → DWord
  | 0, x, _ => x
  | n + 1, x, y =>
    let x := x + y * 0xA3B19C274D5E8F13#64
    let x := x ^^^ (x >>> 29)
    let x := x * 0xC2B46E1F93A75D0B#64
    let x := x ^^^ (x >>> 32)
    withyRounds n x y

def withy (seed : DWord) (seq head : Nat) (row col : Int) : DWord :=
  let r := (BitVec.ofInt 32 row).toNat
  let c := (BitVec.ofInt 32 col).toNat
  withyRounds 4 (seed ^^^ BitVec.ofNat 64 (r + c * 2 ^ 32)) (BitVec.ofNat 64 (seq + head * 2 ^ 20 + 1))

/-- R183: whether an element is dropped. -/
def dropped (seed : DWord) (seq head threshold : Nat) (row col : Int) : Bool :=
  threshold != 0 && decide (fld (withy seed seq head row col).toNat 63 40 < threshold)

end Sys2Proof.Machine
end

