-- ==== Sys2Proof/Machine/State.lean ====
section
/-! DEFINITION. The state of the block: every register, table, buffer, counter, mode and pin that the manual names, by unit, and the
queue of commands that wait. Sparse tables hold the units by number; an absent entry is the unit's reset value. -/

namespace Sys2Proof.Machine

/-! ### Plait: queues, events and the command table (chapter 02) -/

/-- R49: the four states of a queue. -/
inductive QState where
  | disabled | running | halted | aborting
  deriving DecidableEq, Repr

def QState.code : QState → Nat
  | .disabled => 0 | .running => 1 | .halted => 2 | .aborting => 3

/-- CP_QCFG (R55). -/
structure QCfg where
  enable : Bool := false
  priv : Bool := false
  serviceOk : Bool := false
  burnoeg : Bool := false
  prio : Nat := 0
  irqVector : Nat := 0
  xlCtx : Nat := 0
  inflightM1 : Nat := 0
  log2Size : Nat := 4
  deriving DecidableEq, Repr

/-- The registers of one queue (R54 to R56). `held` is a doorbell held in Aborting (R84), `unread` one stored in Rest (R492). -/
structure Queue where
  base : Nat := 0
  rbase : Nat := 0
  cfg : QCfg := {}
  doorbell : Nat := 0
  held : Option Nat := none
  unread : Bool := false
  head : Nat := 0
  rread : Nat := 0
  rwrite : Nat := 0
  st : QState := .disabled
  doorbellErr : Bool := false
  fault : Nat := 0
  errStatus : Nat := 0
  errTag : Nat := 0
  deriving DecidableEq, Repr

/-- CP_EVENT[e] (R67). -/
structure Event where
  count : Nat := 0
  fault : Bool := false
  underflow : Bool := false
  overflow : Bool := false
  deriving DecidableEq, Repr

/-- A decided status with its detail and count (R88 to R91); `halts` when deciding it halted the queue (R93). -/
structure Status where
  code : Nat := 0
  detail : Nat := 0
  count : Nat := 0
  halts : Bool := false
  deriving DecidableEq, Repr

/-- A tensor reference (R60). An address of zero means not present. -/
structure TRef where
  addr : Nat := 0
  fmt : Nat := 0
  slot : Nat := 0
  deriving DecidableEq, Repr

/-- What a command has gathered into one Tally slot (R470, R474): its window maximum, whether it held a finite value, an infinite or
any nonfinite one, whether its values set sat_seen or ovf_seen, the 8-bit format that values were last converted into, and the format last written. -/
structure Gather where
  slot : Nat := 0
  scale : Word := 0x3F800000#32
  window : Word := 0
  anyFinite : Bool := false
  infinite : Bool := false
  nonfinite : Bool := false
  clipped : Bool := false
  conv8 : Option Nat := Option.none
  fmt : Nat := 0xFF
  deriving DecidableEq, Repr

/-- One work item's place in the division of work (R301 to R304). -/
structure Redo where
  item : Nat := 0
  times : Nat := 0
  deriving DecidableEq, Repr

/-- The shape that Plait chose for a command (R296 to R299). -/
structure Shape where
  index : Nat := 0
  m : Nat := 128
  n : Nat := 128
  form : Nat := 0
  kf : Nat := 32
  ks : Nat := 32
  split : Nat := 1
  deriving DecidableEq, Repr

/-- A page entry of a list (R322): pool (1 stake, 2 stack) and frame. -/
structure PageRef where
  tier : Nat := 0
  frame : Nat := 0
  deriving DecidableEq, Repr

/-- A sequence descriptor (R320). `pages` is the list of R322 in order; `root` and `blocks` are the list blocks that hold it. -/
structure Desc where
  state : Nat := 0
  pinned : Bool := false
  groups : Nat := 0
  format : Nat := 0
  length : Nat := 0
  capacity : Nat := 0
  readers : Nat := 0
  root : Option Nat := Option.none
  blocks : List Nat := []
  pages : List PageRef := []
  deriving DecidableEq, Repr

/-- A reader's hold on a Coil sequence (R335): the sequence, the length at the start, and the descriptor then, whose list it goes on with
where the sequence becomes damaged (R340, R341). -/
structure Snapshot where
  seq : Nat := 0
  length : Nat := 0
  desc : Desc := {}
  deriving DecidableEq, Repr

/-- A key band in progress (R200): its work item, the eight arrays of its group, its band periods as (head of the group, query block),
and the tiles that it counts. -/
structure Band where
  item : Nat := 0
  arrays : List Nat := []
  periods : List (Nat × Nat) := []
  count : Nat := 0
  deriving DecidableEq, Repr

/-- What a started product, attention, scan or rib command carries (R287, R301 to R310): the words that it names, the scales it read,
its shape, the tile counter, whether a tile was issued, and the redo list, the parts that have been combined, what is left to finish once an item's parts are complete
(R309, R230, R205), the rows set to NaN, the first illegal gate (R218), the readers it holds, its documents, and, of ATTN_BWD, the groups whose D pass is done, with
their buffers, and the bands in progress. -/
structure Compute where
  step : List Word := []
  header : List Word := []
  args : List Word := []
  scales : List (Nat × Word) := []
  shape : Shape := {}
  items : Nat := 0
  counter : Nat := 0
  issued : Bool := false
  redo : List Nat := []
  abandoned : List Redo := []
  assigned : List Nat := []
  done : List Nat := []
  tiles : Nat := 0
  combined : List (Nat × Nat) := []
  finish : List (Nat × Nat) := []
  nanRows : List Nat := []
  firstBad : Option Nat := Option.none
  snaps : List Snapshot := []
  docs : List Nat := []
  buffers : List (Nat × Nat) := []
  bands : List Band := []
  deriving DecidableEq, Repr

/-- A PUT or GET in progress (R434 to R438): the messages not yet answered, as (offset, bytes, time sent), and what is left to send. -/
structure Transport where
  remote : Nat := 0
  window : Nat := 0
  unanswered : List (Nat × Nat × Nat) := []
  unsent : List (Nat × Nat) := []
  moved : Nat := 0
  checked : Nat := 0
  deriving DecidableEq, Repr

/-- A ring sweep in progress (R442 to R448, R536). Received bytes, the offsets of their parts, and answers are those of the step in hand, per
direction (clockwise first); `dirs` are the directions in which its shards have been sent, and `sent` holds when the step's shards, or in the end the partials, have been sent; `homes` the partials that have come home, by direction
and offset; `own` the owner's dK and dV of step 0. `resume` is the resume step of a replay, `skipTo` its committed step, `peerCw` and
`peerAcw` the committed steps announced by the successor and the predecessor, and `waiting` until both are known. -/
structure Ring where
  ring : Nat := 0
  bwd : Bool := false
  step : Nat := 0
  resume : Nat := 0
  skipTo : Option Nat := none
  gotCw : Nat := 0
  gotAcw : Nat := 0
  partsCw : List Nat := []
  partsAcw : List Nat := []
  ackCw : Bool := false
  ackAcw : Bool := false
  peerCw : Option Nat := none
  peerAcw : Option Nat := none
  waiting : Bool := false
  dirs : List Nat := []
  sent : Bool := false
  finishing : Bool := false
  homes : List (Nat × Nat × List Byte) := []
  since : Nat := 0
  own : List (Nat × List Word) := []
  ready : Bool := false
  work : Compute := {}
  deriving DecidableEq, Repr

/-- A collective in progress (R453 to R461): the stages left as (gather?, axis; axis 3 is the ring of ALLREDUCE_V), the ranges in
force, the number of the stage in hand and its step, the elements sent and the bytes received in it, the slots granted to this engine
and the byte counts announced by step key, and where the exchange of COUNTS stands. `slot` numbers its 8 MiB of the reduction
buffer, and `senders` holds the members heard of, with the identifier that each gives its command (R435). -/
structure Collective where
  group : Nat := 0
  addr : Nat := 0
  total : Nat := 0
  comp : Nat := 0
  counts : List Nat := []
  stages : List (Bool × Nat) := []
  ranges : List (Nat × Nat) := []
  stage : Nat := 0
  step : Nat := 1
  entered : Bool := false
  widened : Bool := false
  signalled : Bool := false
  sent : Nat := 0
  got : Nat := 0
  grants : List (Nat × Nat) := []
  signals : List (Nat × Nat) := []
  agreeing : Bool := false
  heard : Nat := 0
  differ : Bool := false
  slot : Nat := 0
  senders : List (Nat × Nat) := []
  deriving DecidableEq, Repr

/-- An ADOPT in progress (R532): the image's words, the ports disabled, the context entries and roots installed, the windows opened and
still to open, and the pages translated of the window in hand. -/
structure Adopt where
  image : List Word := []
  ports : List Nat := []
  segments : List Nat := []
  roots : List Nat := []
  opened : List Nat := []
  left : List Nat := []
  pages : List Nat := []
  deriving DecidableEq, Repr

/-- What a started command is doing. `waiting` has what it needs of other units still to come; `held` is taken up, and held at its start
(R294, R335, R458). -/
inductive Run where
  | none
  | waiting
  | held
  | compute (c : Compute)
  | coilWait
  | coilMove
  | withdraw
  | window (w : Nat) (pages : List Nat)
  | transport (t : Transport)
  | ring (r : Ring)
  | collective (c : Collective)
  | aborting (target count : Nat)
  | adopt (a : Adopt)
  deriving DecidableEq, Repr

/-- What a range of memory held before a command wrote its output there (R92): its bytes, and the lines in it that failed. -/
structure Saved where
  pa : Nat := 0
  bytes : List Byte := []
  bad : List Nat := []
  deriving DecidableEq, Repr

/-- An accepted command in the command table (R46). `stepCopy` and `headerCopy` are its copies of the step record and of the plan header
(R287), empty until they are read; `undo` is what its outputs replaced, latest first (R92). `id` numbers commands in the order of acceptance. The times are those of the
trace record of R485. `noReply` when its reply could not be written (R53). `replays` marks a REPLAY that runs with the packet of its sweep
record (R536). -/
structure Cmd where
  id : Nat := 0
  queue : Nat := 0
  words : List Word := []
  started : Bool := false
  status : Option Status := Option.none
  run : Run := .none
  tagged : Bool := false
  forced : Bool := false
  tAccept : Nat := 0
  tRelease : Nat := 0
  tStart : Nat := 0
  tFirst : Nat := 0
  tLast : Nat := 0
  tDecided : Nat := 0
  misses : Nat := 0
  stalls : Nat := 0
  gathers : List Gather := []
  noReply : Bool := false
  replays : Bool := false
  stepCopy : List Word := []
  headerCopy : List Word := []
  undo : List Saved := []
  stop : Option (Nat × Nat) := Option.none
  elements : Nat := 0
  deriving DecidableEq, Repr

/-- A key of the verification cache (R288). -/
structure VerKey where
  step : Nat := 0
  stepCheck : Nat := 0
  headerCheck : Nat := 0
  deriving DecidableEq, Repr

/-- `releases` holds the time at which each event was last released (R63, R485); `internal` is set once a command has ended with INTERNAL:
Plait accepts no more work (R518). -/
structure Plait where
  time : Nat := 0
  queues : List (Nat × Queue) := []
  events : List (Nat × Event) := []
  releases : List (Nat × Nat) := []
  table : List Cmd := []
  nextId : Nat := 1
  lastAccept : List Nat := [0, 0, 0, 0]
  lastItem : List Nat := [0, 0, 0, 0]
  cache : List VerKey := []
  flushBusy : Bool := false
  internal : Bool := false
  diag : Nat := 0
  redo : Nat := 0
  deriving DecidableEq, Repr

/-! ### Weave arrays (chapter 04) -/

/-- A tile of FP32 values held in an accumulator tile, a drain latch or a landing buffer, with the command and item it belongs to, its
role, its key block (or chunk, or band period), its logical rows and columns, the first rows and columns whose row-valid and column-valid
bits are set (R130), and the Tally slot that its flags belong to. -/
structure Tile where
  cmd : Nat := 0
  item : Nat := 0
  role : Nat := 0
  block : Nat := 0
  rows : Nat := 0
  cols : Nat := 0
  rowsIn : Nat := 0
  colsIn : Nat := 0
  vals : List Word := []
  slot : Nat := 0
  deriving DecidableEq, Repr

/-- A P slot of a fused chain (R170, R228): by row, its codes and the decrements of its runs of 128 keys. -/
structure PSlot where
  block : Nat := 0
  p : List (List Nat) := []
  dec : List (List Nat) := []
  deriving DecidableEq, Repr

/-- A fused chain in progress on an array (R170 to R177): the key blocks still to compute, how many tiles it computes, the row states,
the P slot that the rib writes, and those that are ready. -/
structure Sweep where
  blocks : List Nat := []
  count : Nat := 0
  states : List RowState := []
  building : Option PSlot := Option.none
  ready : List PSlot := []
  deriving DecidableEq, Repr

/-- A head of a scan in progress on an array (R215, R221, R222): whether it is in the second phase of SCAN_BWD, the chunk in hand and the
stage reached in it, whether the state before the first chunk stands, the log-gates of the head, the factor F, the factors before the chunks (first phase), what the rib has stored of the
chunk (P′, dA and the last snapshot), the dQ, dK and dV rows that dG needs, and dG of the token after the chunk. -/
structure ScanRun where
  back : Bool := false
  chunk : Nat := 0
  stage : Nat := 0
  ready : Bool := false
  gates : List Word := []
  f : Word := 0x3F800000#32
  factors : List Word := []
  dq : List (List Word) := []
  carry : Word := 0
  deriving DecidableEq, Repr

/-- The FP32 values of a band period, by key and query, that rib A_j passes to rib B_j beside its P slot (R201). -/
structure BandSlot where
  period : Nat := 0
  probs : List (List Word) := []
  deriving DecidableEq, Repr

/-- An array's part in a key band (R200): its pair, whether it is B_j (dP and dK) or A_j (S and dV), the next band periods of its tile 0
and of its tile 1, what rib A_j has still to pass on, and the next period of whose dQ tile it is the member. -/
structure BandRun where
  pair : Nat := 0
  isK : Bool := false
  next : Nat := 0
  acc : Nat := 0
  slots : List BandSlot := []
  dq : Nat := 0
  deriving DecidableEq, Repr

/-- The work that an array or rib holds: a work item of a command, its slot rings by number, the accumulator tile of a product and
whether it holds its start value (R143, R144), and the fused chain, scan or band in progress. -/
structure Work where
  cmd : Nat := 0
  item : Nat := 0
  rings : List (Nat × Nat) := []
  acc : Nat := 0
  filled : Bool := false
  sweep : Option Sweep := Option.none
  scan : Option ScanRun := Option.none
  band : Option BandRun := Option.none
  deriving DecidableEq, Repr

/-- `retiring` from the fourth fault until the array goes offline (R160); `ending` a chain whose last tile is on its way out (R189). -/
structure Arr where
  fuses : BitVec 128 := 0
  bypass : BitVec 128 := 0
  formLock : Bool := false
  form : Nat := 0
  offline : Bool := false
  offlineCause : Nat := 0
  retiring : Bool := false
  heldCfg : Option Word := Option.none
  heldBypass : List (Nat × Word) := []
  current : Nat := 0
  reforming : Option Nat := Option.none
  faultCount : Nat := 0
  lastFault : Nat := 0
  bistRefused : Bool := false
  bistDone : Bool := false
  bistRunning : Bool := false
  bistFail : BitVec 128 := 0
  acc0 : Option Tile := Option.none
  acc1 : Option Tile := Option.none
  latch : Option Tile := Option.none
  work : Option Work := Option.none
  ending : Option Work := Option.none
  deriving DecidableEq, Repr

/-! ### Rib units (chapter 07) -/

/-- One program image as loaded: its pass descriptors and its instructions (R240). -/
structure Image where
  passes : List (BitVec 64) := []
  code : List (BitVec 64) := []
  deriving DecidableEq, Repr

/-- A program bank (R246): the command whose plan step it holds, its images at the four points of R248, its constant pool, and the
places of its auxiliary vectors in the rib store with their kind. -/
structure Bank where
  cmd : Nat := 0
  images : List (Nat × Image) := []
  pool : List Word := []
  aux : List (Bool × List Word) := []
  deriving DecidableEq, Repr

/-- The positions of a run of tokens (R168, R441): token `i` of a tile is token `off + i` of its tensor, of every `period` tokens where
that is not 0, and lies at `base` plus its number, or from `cut` on, where that is not 0, at `tail` plus its number. -/
structure Ramp where
  base : Int := 0
  off : Nat := 0
  period : Nat := 0
  cut : Nat := 0
  tail : Int := 0
  deriving DecidableEq, Repr

def Ramp.at (r : Ramp) (i : Nat) : Int :=
  let j := if r.period = 0 then r.off + i else (r.off + i) % r.period
  if r.cut = 0 || j < r.cut then r.base + j else r.tail + j

/-- The geometry of a tile on a rib (R234): its rows and columns, the parts of a row, one segment each, the columns that a segment presents,
the coordinates of its lanes, and the rows that a program leaves out (R177). -/
structure Geom where
  rows : Nat := 128
  cols : Nat := 128
  parts : Nat := 1
  width : Nat := 128
  rowBase : Nat := 0
  colBase : Nat := 0
  keyPos : Ramp := {}
  queryPos : Ramp := {}
  rowsIn : Nat := 0
  colsIn : Nat := 0
  turned : Bool := false
  head : Nat := 0
  skip : List Nat := []
  deriving DecidableEq, Repr

/-- The registers of the beat in hand: v0 to v63 and p0 to p7, by lane, and the coordinates of its lanes (R233, R234, R239): the row and
the first column of each segment, what to add for global coordinates and positions, the in-bounds extent, the columns that a segment
presents, whether keys run along the rows, the query head, and the rows left out (R177). -/
structure BeatRegs where
  v : List (Nat × List Word) := []
  p : List (Nat × List Bool) := []
  index : Nat := 0
  rows : List Nat := [0, 0]
  cols : List Nat := [0, 0]
  rowBase : Nat := 0
  colBase : Nat := 0
  keyPos : Ramp := {}
  queryPos : Ramp := {}
  rowsIn : Nat := 0
  colsIn : Nat := 0
  width : Nat := 128
  turned : Bool := false
  head : Nat := 0
  skip : List Nat := []
  deriving DecidableEq, Repr

/-- A rib. `pass` is the point and the number of the pass in progress, `nextPass` the pass of the landed tile that comes next, `landing` the
landed tiles, at most two (R235), `out` the beats that the output stage has taken from the tile in hand, `rewritten` those that a pass has
put over its stake operand (sink 2 of R240), `docs` the rib store's copy of the document table (R181), and `work` the work item of a command that runs on ribs alone. -/
structure Rib where
  compat : Bool := false
  bank : Bool := false
  bankPending : Bool := false
  chain : Bool := false
  pass : Option (Nat × Nat) := Option.none
  nextPass : Nat := 0
  beat : Nat := 0
  out : List (Nat × List Word) := []
  rewritten : List (Nat × List Word) := []
  work : Option Work := Option.none
  regs : BeatRegs := {}
  banks : List (Nat × Bank) := []
  landing : List Tile := []
  store : List (Nat × Word) := []
  docs : List Nat := []
  storeEpoch : Nat := 0
  racc : List (Nat × Word) := []
  active : Bool := false
  swapPending : Bool := false
  wrRefused : Bool := false
  seedAddr : Nat := 0
  seedA : Seeds := []
  seedB : Seeds := []
  fpstat : FFlags := {}
  uncorr : Bool := false
  corr : Nat := 0
  eccArea : Nat := 0
  eccWord : Nat := 0
  deriving DecidableEq, Repr

/-! ### Stake, streamers and base controllers (chapter 10) -/

structure Stake where
  ringSize : Nat := 1
  pending : Option Nat := Option.none
  offset : Nat := 0
  wrRefused : Bool := false
  uncorr : Bool := false
  scrubUncorr : Bool := false
  corr : Nat := 0
  eccBank : Nat := 0
  eccRow : Nat := 0
  scrubEnable : Bool := true
  scrubInterval : Nat := 0x10
  atomic : Word := 0
  deriving DecidableEq, Repr

/-- An end of a transfer: a device-physical place, a virtual place of a context, or an offset in a slot of a ring, by the ring and the
number of the slot since the ring was opened. -/
inductive Loc where
  | phys (pa : Nat)
  | virt (ctx va : Nat)
  | slot (ring n off : Nat)
  deriving DecidableEq, Repr

/-- A transfer, with the packet word of its reference. `data` is the content of the slot that it empties, where it empties one (R366). -/
structure Transfer where
  src : Loc := .phys 0
  dst : Loc := .phys 0
  bytes : Nat := 0
  word : Nat := 2
  data : Option (List Byte) := Option.none
  deriving DecidableEq, Repr

/-- A transfer under way (R367): its source and destination pieces, translated, and whether that was before the last withdrawal began (R406). -/
structure Moving where
  t : Transfer := {}
  src : List (Nat × Nat) := []
  dst : List (Nat × Nat) := []
  old : Bool := false
  deriving DecidableEq, Repr

/-- A page entry in a K/V streamer's queue (R339): its token block, the frame's address and the slots in bounds. -/
structure PageEntry where
  block : Nat := 0
  frame : Nat := 0
  slots : Nat := 0
  deriving DecidableEq, Repr

/-- A page cursor (R339, R370): the sequence, the KV head group, the next and the last token block, the snapshot, the K ring and the V
ring that it fills, the first token of their slots and the keys of a slot. -/
structure Cursor where
  seq : Nat := 0
  group : Nat := 0
  next : Nat := 0
  last : Nat := 0
  snapshot : Nat := 0
  kRing : Nat := 0
  vRing : Nat := 0
  lo : Nat := 0
  keys : Nat := 128
  deriving DecidableEq, Repr

/-- A channel of a streamer (R366): the command it serves, and the ring that it fills where it fills one. -/
structure Channel where
  cmd : Nat := 0
  ring : Option Nat := Option.none
  queued : List Transfer := []
  moving : List Moving := []
  cursor : Option Cursor := Option.none
  pages : List PageEntry := []
  missWait : Bool := false
  deriving DecidableEq, Repr

/-- `turn` is the channel after the one that issued last (R369). -/
structure Streamer where
  channels : List Channel := []
  turn : Nat := 0
  eccStop : Bool := false
  deriving DecidableEq, Repr

/-- `repeats` counts the failed tries of each 32-byte access that is being repeated (R376). -/
structure BaseCtl where
  phyReady : Bool := false
  hot : Bool := false
  refresh : Nat := 0
  temp : Nat := 0
  selfRefresh : Bool := false
  uncorr : Bool := false
  retries : Nat := 0
  corr : Nat := 0
  eccAddr : Nat := 0
  repeats : List (Nat × Nat) := []
  deriving DecidableEq, Repr

/-- How the lines of a slot stand for an operand tile (R152, R359, R363): its rows and columns, those in bounds, its format, whether the
first row of an INT4 tile lies in the upper halves of its bytes, and whether the layout is slewed. -/
structure SlotView where
  rows : Nat := 0
  cols : Nat := 0
  rowsIn : Nat := 0
  colsIn : Nat := 0
  fmt : Format := .fp32
  upper : Bool := false
  slewed : Bool := false
  deriving DecidableEq, Repr

/-- What a slot of a ring is to hold: its key block (or segment, chunk or band period), its view, the bytes that its producer writes, the
coordinates of its elements for a prologue, and, of what a rib asks a streamer for, the place it comes from. -/
structure SlotPlan where
  block : Nat := 0
  view : SlotView := {}
  bytes : Nat := 0
  geom : Geom := {}
  src : Option Loc := Option.none
  deriving DecidableEq, Repr

/-- A slot in use: the bytes written by offset, how many, and once it is ready its codes, as a prologue leaves them (R248). -/
structure RingSlot where
  got : Nat := 0
  parts : List (Nat × List Byte) := []
  codes : List (List Nat) := []
  fmt : Format := .fp32
  deriving DecidableEq, Repr

/-- A slot ring (R359 to R364): the command it serves, its number at its arrays, slots written (`tail`), slots freed (`head`) and its
depth, its members with the slots that each has read (R153), the prologue of its slots, what its slots are to hold, in order, the slots in
use by number, and its place: the operand partition, the arrays in whose halves it is stored, and the bank rows below it there. -/
structure SlotRing where
  cmd : Nat := 0
  number : Nat := 0
  tail : Nat := 0
  head : Nat := 0
  depth : Nat := 0
  members : List (Nat × Nat) := []
  point : Option Nat := Option.none
  plan : List SlotPlan := []
  slots : List (Nat × RingSlot) := []
  partition : Nat := 0
  homes : List Nat := []
  firstRow : Nat := 0
  deriving DecidableEq, Repr

/-! ### Coil (chapter 09) -/

/-- A free stack (R326): numbers pushed since initialisation, latest first, then the numbers from `fresh` up to `total`. -/
structure FreeStack where
  pushed : List Nat := []
  fresh : Nat := 0
  total : Nat := 0
  deriving DecidableEq, Repr

structure Coil where
  headDim : Nat := 0
  frameSize : Nat := 0
  ready : Bool := false
  initBusy : Bool := false
  initErr : Bool := false
  metaFault : Bool := false
  metaStack : Nat := 0
  damaged : Nat := 0
  stakeBase : Nat := 0
  stakeCount : Nat := 0
  stackBase : Nat := 0
  stackCount : Nat := 0
  listBlocks : Nat := 0
  metaBase : Nat := 0
  reserve : Nat := 0
  leaked : Nat := 0
  damageValid : Bool := false
  damageSeq : Nat := 0
  descs : List (Nat × Desc) := []
  refs : List (Nat × Nat) := []
  freeStake : FreeStack := {}
  freeStack : FreeStack := {}
  freeList : FreeStack := {}
  busy : List Nat := []
  deriving DecidableEq, Repr

/-! ### Splint (chapter 11) -/

structure Segment where
  vbase : Nat := 0
  target : Nat := 0
  length : Nat := 0
  deriving DecidableEq, Repr

structure TlbEntry where
  ctx : Nat := 0
  vpn : Nat := 0
  ppn : Nat := 0
  writable : Bool := false
  fromSegment : Bool := false
  deriving DecidableEq, Repr

/-- An access that waits on a miss (R398): who makes it, for which command, and the packet word of its reference (R404). `reply`
names the command whose reply is being written; with neither, it is a packet fetch (R53). `probe` marks an extent probe (R291). -/
structure Waiter where
  agent : Nat := 0
  queue : Nat := 0
  tag : Nat := 0
  cmd : Option Nat := Option.none
  va : Nat := 0
  write : Bool := false
  word : Nat := 0
  reply : Option Nat := Option.none
  probe : Bool := false
  retries : Nat := 0
  deriving DecidableEq, Repr

/-- A miss request (R398, R399); `sent` is false while it waits for a free entry. -/
structure Miss where
  seq : Nat := 0
  ctx : Nat := 0
  page : Nat := 0
  reason : Nat := 0
  write : Bool := false
  waiters : List Waiter := []
  notified : Nat := 0
  sent : Bool := false
  deriving DecidableEq, Repr

/-- A mirrored host table page (R396): its slot in the mirror area, the context that read it, its host physical address, the virtual range
it serves, and its nonzero entries. -/
structure Mirror where
  slot : Nat := 0
  ctx : Nat := 0
  table : Nat := 0
  lo : Nat := 0
  hi : Nat := 0
  entries : List (Nat × Nat) := []
  deriving DecidableEq, Repr

/-- What a withdrawal commits when every agent has acknowledged it (R405, R406). -/
inductive Commit where
  | nothing
  | segment (index : Nat) (s : Option Segment)
  | root (ctx : Nat) (r : Option Nat)
  deriving DecidableEq, Repr

/-- A withdrawal (R406): ranges of a context, whether only translations from host tables are meant, the owning command, and the WIN_OPEN
commands that had translated pages of the ranges when it began. -/
structure Withdraw where
  cmd : Nat := 0
  ctx : Nat := 0
  ranges : List (Nat × Nat) := []
  hostOnly : Bool := false
  commit : Commit := .nothing
  opening : List Nat := []
  deriving DecidableEq, Repr

/-- A window table entry (R410). `pages` are its page map entries, in ascending page order. -/
structure Window where
  state : Nat := 0
  ctx : Nat := 0
  anySender : Bool := false
  sender : Nat := 0
  base : Nat := 0
  length : Nat := 0
  mapFirst : Nat := 0
  inflight : Nat := 0
  pages : List Nat := []
  deriving DecidableEq, Repr

structure Splint where
  enable : Bool := false
  ready : Bool := false
  initBusy : Bool := false
  enableErr : Bool := false
  badEntry : Bool := false
  mirrorBase : Nat := 0
  missBase : Nat := 0
  late : Nat := 0
  unknown : Nat := 0
  selRoot : Bool := false
  selSegment : Nat := 0
  selCtx : Nat := 0
  segVbase : Nat := 0
  segTarget : Nat := 0
  segLen : Nat := 0
  segRefused : Bool := false
  winRefused : Nat := 0
  segments : List (Nat × Option Segment) := []
  roots : List (Nat × Option Nat) := []
  tlbs : List (Nat × List TlbEntry) := []
  mirrors : List Mirror := []
  misses : List Miss := []
  nextSeq : Nat := 0
  timedOut : List Nat := []
  current : Option Withdraw := Option.none
  unacked : List Nat := []
  waiting : List Withdraw := []
  windows : List (Nat × Window) := []
  deriving DecidableEq, Repr

/-! ### Hoop (chapter 12) -/

/-- R465: the states of a port. -/
inductive LinkState where
  | disabled | training | up | retrying | failed | resetting
  deriving DecidableEq, Repr

def LinkState.code : LinkState → Nat
  | .disabled => 0 | .training => 1 | .up => 2 | .retrying => 3 | .failed => 4 | .resetting => 5

/-- A message on its way out or kept: its type, class, header and payload, the number of the last block that carries it, and the command
of this engine that it belongs to. Of a kept one: the places that a held access has been checked for (R412, R492), and whether a chunk's data
have been stored (R458). -/
structure OutMsg where
  type : Nat := 0
  cls : Nat := 0
  m : Msg := {}
  last : Nat := 0
  cmd : Option Nat := none
  pieces : List (Nat × Nat) := []
  landed : Bool := false
  deriving DecidableEq, Repr

/-- A block of the replay buffer (R425, R426). -/
structure OutBlock where
  header : BitVec 64 := 0
  flits : List Byte := []
  deriving DecidableEq, Repr

/-- The standing of a port's round robin (R428): the class whose turn it is and the messages left in the turn; the commands of each class in
the order in which they were served, oldest first. -/
structure Turns where
  cls : Nat := 1
  left : Nat := 0
  served : List (Nat × Nat × Nat × Nat) := []
  deriving DecidableEq, Repr

/-- `heard` is the engine whose HELLO the port last took, of whatever link (R522). -/
structure Port where
  peer : Nat := 0
  heard : Option Nat := none
  lanesOk : Nat := 0
  state : LinkState := .disabled
  enable : Bool := false
  loopback : Bool := false
  retries : Nat := 0
  uncorrectable : Nat := 0
  corrected : Nat := 0
  nextRx : Nat := 0
  nextTx : Nat := 0
  nakDue : Bool := false
  failsInRow : Nat := 0
  replay : List OutBlock := []
  unacked : List OutMsg := []
  credits : List Nat := [512, 512, 512, 512]
  lastHello : Nat := 0
  rested : Bool := false
  trainedSince : Nat := 0
  arrived : List Nat := [0, 0, 0, 0]
  outHeader : BitVec 64 := 0
  turns : Turns := {}
  deriving DecidableEq, Repr

/-- HP_RING_STEP[r] (R466); `active` is a view of the command table. -/
structure RingStep where
  valid : Bool := false
  step : Nat := 0
  deriving DecidableEq, Repr

/-- A sweep record (R535): the packet and its argument block. -/
structure SweepRec where
  ring : Nat := 0
  queue : Nat := 0
  words : List Word := []
  args : List Word := []
  deriving DecidableEq, Repr

/-- `owed` holds the answers to shards of sweeps that have ended, as (ring, engine, step), and `past` the commands of other members whose
collective has ended here, as (group, engine, identifier): what still comes of either belongs to no command (R452, R538). -/
structure Hoop where
  ports : List (Nat × Port) := []
  tblSel : Nat := 0
  tblRefused : Bool := false
  tblWords : List (Nat × Word) := []
  wRing : Nat := 4
  wColl : Nat := 2
  wRemote : Nat := 1
  leave : Nat := 0
  ringSteps : List (Nat × RingStep) := []
  rings : List (Nat × List Word) := []
  groups : List (Nat × List Word) := []
  records : List SweepRec := []
  waiting : List OutMsg := []
  heldAccess : List OutMsg := []
  owed : List (Nat × Nat × Nat) := []
  past : List (Nat × Nat × Nat) := []
  alternate : Nat := 0
  deriving DecidableEq, Repr

/-! ### Tally (chapter 13) -/

structure Slot where
  scale : Word := 0x3F800000#32
  hold : Bool := false
  bins : List (Nat × Nat) := []
  zero : Nat := 0
  nonfinite : Nat := 0
  total : Nat := 0
  maximum : Word := 0
  flags : Sticky := {}
  varClamp : Nat := 0
  history : List Word := []
  format : Nat := 0xFF
  deriving DecidableEq, Repr

structure CntCfg where
  allUnits : Bool := false
  ovfIrq : Bool := false
  chain : Bool := false
  unit : Nat := 0
  event : Nat := 0
  deriving DecidableEq, Repr

/-- `onWay` holds the flag causes that have arisen and not yet reached Tally (R478, R482), `events` how many events of a code and unit have
occurred and not yet reached it, by 512 times the code plus the unit. -/
structure Tally where
  slots : List (Nat × Slot) := []
  tagRate : Nat := 8
  tagEnable : Bool := false
  userPage : Bool := false
  freeze : Bool := false
  tagSkipped : Nat := 0
  traceHead : Nat := 0
  flags : Sticky := {}
  flagCount : Nat := 0
  onWay : Sticky := {}
  events : List (Nat × Nat) := []
  aclk : Nat := 0
  cntHi : Nat := 0
  lfsr : Nat := 1
  cfg : List (Nat × CntCfg) := []
  cnt : List (Nat × Nat) := []
  ovf : Nat := 0
  trace : List (Nat × List Word) := []
  deriving DecidableEq, Repr

/-! ### Border, its resilience agent, the pins and the management port (chapters 14 to 16) -/

/-- R490 and the two transitional codes of R516. -/
inductive Power where
  | run | idle | rest | park | off | entering (target : Nat) | returning
  deriving DecidableEq, Repr

def Power.code : Power → Nat
  | .run => 0 | .idle => 1 | .rest => 2 | .park => 3 | .off => 3 | .entering _ => 4 | .returning => 5

/-- The fields of a configuration set (R507), with their defaults. -/
structure CfgSet where
  engineId : Nat := 0
  torusX : Nat := 1
  torusY : Nat := 1
  torusZ : Nat := 1
  detour0 : Nat := 0
  detour1 : Nat := 0
  detour2 : Nat := 0
  detour3 : Nat := 0
  ringWatchdogUs : Nat := 20000
  heartbeatMs : Nat := 10
  fp8OvfNan : Nat := 0
  histBase : Nat := 0xFFFFFFD8
  scEnable : Nat := 1
  scMargin : Nat := 1
  scWindow : Nat := 4
  thrOn : Nat := 105
  thrHyst : Nat := 3
  throttleMax : Nat := 16
  cutTarget : Nat := 1100
  excursionUs : Nat := 5000
  deriving DecidableEq, Repr

structure ClampEntry where
  field : Nat := 0
  written : Nat := 0
  clamped : Nat := 0
  deriving DecidableEq, Repr

/-- Where a reset or a bring-up stands: what is still to come (R563 to R566). -/
structure Boot where
  fuseDone : Bool := false
  stakeClear : Bool := false
  stacksReady : Bool := false
  plaitReady : Bool := false
  bootErr : Bool := false
  keepExcluded : Bool := false
  deriving DecidableEq, Repr

/-- R513, R514: the last command that Border has sent a rail: none yet, OPERATION off or on, or CLEAR_FAULTS. -/
inductive RailCmd where
  | none | off | on | clearFaults
  deriving DecidableEq, Repr

/-- `restW` is the sum of the rails' telemetry, `railsOff` the rails that are off, in the order in which they went, and `pmbWatts` and
`railCmd` hold each rail's last telemetry and the last command sent to it. -/
structure Border where
  power : Power := .run
  target : Nat := 0
  waiting : Bool := false
  doorbellHeld : Bool := false
  reportValid : Bool := true
  engineCount : Nat := 0
  warmCount : Nat := 0
  cause : Nat := 1
  qmap : BitVec 256 := 0
  keep : Nat := 16
  phase : Nat := 0
  rootUnlockSeen : Bool := false
  unlocked : Bool := false
  divRun : Bool := false
  rootLock : Bool := false
  refPresent : Bool := false
  thermalCap : Nat := 16
  elecCap : Nat := 16
  excursion : Bool := false
  cooldown : Bool := false
  excursionUs : Nat := 0
  excursionCut : Bool := false
  cooldownLeft : Nat := 0
  hotNow : Bool := false
  sinceFall : Nat := 0
  coolReads : Nat := 0
  junction : Nat := 0
  sensor : Nat := 0
  clockedW : Nat := 0
  restW : Nat := 0
  nowW : Nat := 0
  avgWindow : List Nat := []
  parkValid : Bool := false
  parkWhere : Nat := 0
  parkReason : Nat := 0
  parkDue : Option (Nat × Nat) := Option.none
  exitDue : Bool := false
  setA : CfgSet := {}
  setB : CfgSet := {}
  activeB : Bool := false
  cfgSelB : Bool := false
  cfgSelField : Nat := 0
  cfgRefused : Bool := false
  swapCount : Nat := 0
  clampLog : List ClampEntry := []
  pmbFast : Bool := false
  pmbEnable : Bool := false
  pmbNoAnswer : Nat := 0
  pmbFault : Nat := 0
  pmbAddr : List (Nat × Nat) := []
  pmbMissed : List (Nat × Nat) := []
  pmbWatts : List (Nat × Nat) := []
  railCmd : List (Nat × RailCmd) := []
  railsOff : List Nat := []
  scratch : List (Nat × Word) := []
  plaitHung : Bool := false
  adopted : Bool := false
  beat : Nat := 0
  silent : Nat := 0
  silentSeen : Nat := 0
  suspectValid : Bool := false
  suspectSource : Nat := 0
  suspectPort : Nat := 0
  suspectEngine : Nat := 0
  formerId : Nat := 0
  adoptedId : Nat := 0
  plaitSeen : Nat := 0
  irq : Nat := 0
  irqMask : Nat := 0x7FF
  boot : Boot := {}
  engineReset : Bool := false
  resetDue : Bool := false
  coldLow : Bool := false
  warmLow : Bool := false
  deriving DecidableEq, Repr

/-- The Handle port (R553 to R558). `sent` counts the messages and records written to the host; `waiting` holds those that wait for
a module, each with its host physical address; `held` names the commands whose transfers wait on the port, since when, and the packet
word of the reference (R555). -/
structure Handle where
  moduleEn : Nat := 0
  repaired : Nat := 0
  moduleUp : Nat := 0
  scope : Nat := 0
  downSeen : Bool := false
  retries : Nat := 0
  msgAddr : Nat := 0
  sent : Nat := 0
  waiting : List (Nat × List Word) := []
  held : List (Nat × Nat × Nat) := []
  deriving DecidableEq, Repr

/-- R561: the boundary-scan instruction of a die. -/
inductive Scan where
  | bypass | idcode | samplePreload | extest | clamp | highz
  deriving DecidableEq, Repr

/-- One die of the boundary-scan chain: its current instruction and the register between TDI and TDO that it selects. -/
structure Jtag where
  ir : Scan := .idcode
  selected : Nat := 1
  shifted : Word := 0
  pinsHeld : Bool := false
  pinsFloat : Bool := false
  external : Bool := false
  deriving DecidableEq, Repr

/-- R548: the response codes of the management port and the register path. -/
inductive Resp where
  | ok | busy | error | crc
  deriving DecidableEq, Repr

/-- The last register answer given. -/
structure Bus where
  code : Resp := .ok
  data : Word := 0
  deriving DecidableEq, Repr

/-- The whole state. `pending` is the queue of commands that wait, first in, first out; `free` counts the free values drawn. -/
structure State where
  cp : Plait := {}
  arr : List (Nat × Arr) := []
  rib : List (Nat × Rib) := []
  st : Stake := {}
  sk : List (Nat × Streamer) := []
  bs : List (Nat × BaseCtl) := []
  rings : List (Nat × SlotRing) := []
  cl : Coil := {}
  sp : Splint := {}
  hp : Hoop := {}
  tl : Tally := {}
  bd : Border := {}
  hd : Handle := {}
  jt : List (Nat × Jtag) := []
  mem : Memory := {}
  bus : Bus := {}
  free : Nat := 0
  pending : List Instr := []
  deriving DecidableEq, Repr

/-- The faults of the model. No rule of the manual stops the block: its errors are statuses, sticky bits and responses, which are
next states. -/
inductive Fault where
  /-- An access to a place of the device-physical space that does not exist (R389, "none"). Raised by no command whose
  translations the manual admits (R390, R393 keep every mapping inside a region): safe. -/
  | noSuchPlace (pa : Nat)
  deriving DecidableEq, Repr

/-- The refusals of the model. -/
inductive Refusal where
  /-- Dispatch only: a command that has no meaning yet. Safe. -/
  | notModelled (mnemonic : String)
  deriving DecidableEq, Repr

/-- The content that a cold reset leaves: the stacks hold undefined content (R503), stake holds undefined content until it is
cleared (R564), host memory is the host's and lists nothing. -/
def Memory.reset : Memory := { undef := [⟨0, stakeEnd, 0⟩], epochs := 1 }

/-- The block right after a cold reset: every register at its At reset value, no clock running yet (R36, R38), both reset pins
high, the bring-up steps of R563 still to come (log 3). -/
def State.reset : State := { mem := Memory.reset }

end Sys2Proof.Machine
end

