-- ==== Sys2Proof/Machine/Ops.lean ====
section
/-! DEFINITION. Named operations over the state: the units by number, the command table, statuses, interrupts, messages to the host,
and the sticky flags. A block has no exception entry; what an error does is `decide`. -/

namespace Sys2Proof.Machine

/-! ### The outcome of a meaning -/

/-- Every event answers a next state; one whose conditions do not hold changes nothing (log 1). -/
abbrev Out := Host.Outcome State Fault Refusal

/-- An event that changes the state only where its conditions hold (log 1). -/
def when (c : Bool) (s s' : State) : Out := .next (if c then s' else s)

/-- R63. -/
def Event.released (e : Event) : Bool := e.count == 0 && !e.fault

/-! ### Units by number -/

namespace State

def queue (s : State) (q : Nat) : Queue := tget {} s.cp.queues q
def setQueue (s : State) (q : Nat) (x : Queue) : State := { s with cp := { s.cp with queues := tset {} s.cp.queues q x } }
def event (s : State) (e : Nat) : Event := tget {} s.cp.events e
/-- An event changes. The time at which it becomes released (R63) is kept for the trace record (R485). -/
def setEvent (s : State) (e : Nat) (x : Event) : State :=
  { s with cp := { s.cp with
    events := tset {} s.cp.events e x,
    releases := if x.released && !(s.event e).released then tset 0 s.cp.releases e s.cp.time else s.cp.releases } }
def array (s : State) (a : Nat) : Arr := tget {} s.arr a
def setArray (s : State) (a : Nat) (x : Arr) : State := { s with arr := tset {} s.arr a x }
def ribOf (s : State) (a : Nat) : Rib := tget {} s.rib a
def setRib (s : State) (a : Nat) (x : Rib) : State := { s with rib := tset {} s.rib a x }
def streamer (s : State) (n : Nat) : Streamer := tget {} s.sk n
def setStreamer (s : State) (n : Nat) (x : Streamer) : State := { s with sk := tset {} s.sk n x }
def base (s : State) (n : Nat) : BaseCtl := tget {} s.bs n
def setBase (s : State) (n : Nat) (x : BaseCtl) : State := { s with bs := tset {} s.bs n x }
def port (s : State) (p : Nat) : Port := tget {} s.hp.ports p
def setPort (s : State) (p : Nat) (x : Port) : State := { s with hp := { s.hp with ports := tset {} s.hp.ports p x } }
def slot (s : State) (n : Nat) : Slot := tget {} s.tl.slots n
def setSlot (s : State) (n : Nat) (x : Slot) : State := { s with tl := { s.tl with slots := tset {} s.tl.slots n x } }
def desc (s : State) (n : Nat) : Desc := tget {} s.cl.descs n
def setDesc (s : State) (n : Nat) (x : Desc) : State := { s with cl := { s.cl with descs := tset {} s.cl.descs n x } }
def window (s : State) (w : Nat) : Window := tget {} s.sp.windows w
def setWindow (s : State) (w : Nat) (x : Window) : State := { s with sp := { s.sp with windows := tset {} s.sp.windows w x } }
def die (s : State) (d : Nat) : Jtag := tget {} s.jt d
def setDie (s : State) (d : Nat) (x : Jtag) : State := { s with jt := tset {} s.jt d x }

/-- The active and the shadow configuration set (R504). -/
def active (s : State) : CfgSet := if s.bd.activeB then s.bd.setB else s.bd.setA
def shadow (s : State) : CfgSet := if s.bd.activeB then s.bd.setA else s.bd.setB
def setShadow (s : State) (c : CfgSet) : State :=
  if s.bd.activeB then { s with bd := { s.bd with setA := c } } else { s with bd := { s.bd with setB := c } }

/-- R37, R36: whether ACLK, VCLK and CCLK run, so that Plait, Coil, Splint and Tally work. -/
def clocked (s : State) : Bool := s.bd.divRun

/-- R560: whether the warm reset pin holds the engine in reset. In Park the assertion has no effect until the release. -/
def warmHeld (s : State) : Bool := s.bd.warmLow && s.bd.power != .park

/-- Whether Plait serves its queues: its clock runs, its firmware is up, no reset holds it, and the state is Run or Idle
(R490, R501, R564). -/
def plaitUp (s : State) : Bool :=
  s.bd.divRun && s.bd.boot.plaitReady && !s.bd.boot.bootErr && !s.bd.engineReset && !s.bd.coldLow && !s.warmHeld &&
  (s.bd.power == .run || s.bd.power == .idle)

/-- R548, R501: an access to a register window draws the busy response: it is held by an engine reset, its clocks are stopped, or the
power state does not serve it. Windows are numbered as in R545. -/
def windowBusy (s : State) (w : Nat) : Bool :=
  (s.bd.engineReset && (w == 0 || w == 1 || w == 2 || w == 4)) || (!s.bd.divRun && (w ≤ 6 || w == 9)) ||
  (s.bd.power == .rest && (w == 1 || w == 2)) || ((s.bd.power == .park || s.bd.power == .off) && w != 10)

/-- Whether a register window takes an access; none does while a reset pin holds the engine or without power. -/
def windowOpen (s : State) (w : Nat) : Bool :=
  !s.windowBusy w && !s.bd.coldLow && !s.warmHeld && s.bd.power != .off

/-! ### The command table -/

def cmd? (s : State) (id : Nat) : Option Cmd := s.cp.table.find? (fun c => c.id == id)

/-- Changes the entry of a command. -/
def mapCmd (s : State) (id : Nat) (f : Cmd → Cmd) : State :=
  { s with cp := { s.cp with table := s.cp.table.map (fun c => if c.id == id then f c else c) } }

def dropCmd (s : State) (id : Nat) : State :=
  { s with cp := { s.cp with table := s.cp.table.filter (fun c => c.id != id) } }

/-- The commands of a queue, in the order of acceptance. -/
def ofQueue (s : State) (q : Nat) : List Cmd := s.cp.table.filter (fun c => c.queue == q)

/-- The time of the model in CCLK: CP_TIME. -/
def now (s : State) : Nat := s.cp.time

end State

/-! ### Packets -/

/-- Word `i` of a packet. -/
def Cmd.word (c : Cmd) (i : Nat) : Nat := (c.words.getD i 0).toNat
def Cmd.opcode (c : Cmd) : Nat := fld (c.word 0) 7 0
/-- The opcode that a command was issued with: a REPLAY (0x72) carries the packet of its sweep record (R536). -/
def Cmd.name (c : Cmd) : Nat := if c.replays then 0x72 else c.opcode
def Cmd.tag (c : Cmd) : Nat := fld (c.word 0) 31 16
def Cmd.quiet (c : Cmd) : Bool := bit (c.word 0) 8
def Cmd.serial (c : Cmd) : Bool := bit (c.word 0) 9
def Cmd.irq (c : Cmd) : Bool := bit (c.word 0) 10
def Cmd.service (c : Cmd) : Bool := bit (c.word 0) 11
def Cmd.determ (c : Cmd) : Bool := bit (c.word 0) 12
def Cmd.trace (c : Cmd) : Bool := bit (c.word 0) 13
def Cmd.waitEn (c : Cmd) : Bool := bit (c.word 1) 12
def Cmd.waitEvent (c : Cmd) : Nat := fld (c.word 1) 11 0
def Cmd.signalEn (c : Cmd) : Bool := bit (c.word 1) 28
def Cmd.signalEvent (c : Cmd) : Nat := fld (c.word 1) 27 16
/-- A plain 52-bit address in words `i` and `i + 1` (R567). -/
def Cmd.addr (c : Cmd) (i : Nat) : Nat := c.word i + 2 ^ 32 * fld (c.word (i + 1)) 19 0

/-- The tensor reference in two words (R60). -/
def tref (lo hi : Nat) : TRef := ⟨lo + 2 ^ 32 * fld hi 19 0, fld hi 23 20, fld hi 31 24⟩
def Cmd.ref (c : Cmd) (i : Nat) : TRef := tref (c.word i) (c.word (i + 1))

/-! ### Run -/

/-- R501, step 1: an ENGINE_RESET that has started stops acceptance and the issue of work. -/
def stopping (s : State) : Bool := s.cp.table.any (fun c => c.opcode == 0x7E && c.started && c.status == some {})

/-- Plait accepts packets, starts commands and issues work in Run alone (R490); the arrays, ribs and streamers run then. -/
def State.running (s : State) : Bool := s.plaitUp && s.bd.power == .run && !stopping s

/-! ### Interrupts and messages to the host -/

/-- R550: the engine raises the management interrupt with cause `b` of BD_IRQ_STATUS. -/
def raiseIrq (s : State) (b : Nat) : State := { s with bd := { s.bd with irq := s.bd.irq ||| 2 ^ b } }

/-- R550: the level of MP_INT_N. -/
def intLow (s : State) : Bool := (s.bd.irq &&& s.bd.irqMask) != 0

/-- R551: the level of MP_ALERT_N. -/
def alertLow (s : State) : Bool :=
  !s.bd.coldLow && (s.bd.power == .park || s.bd.power == .entering 3 || s.bd.unlocked)

/-- R553, R555: whether a Handle module is up. -/
def handleUp (s : State) : Bool := s.hd.moduleUp != 0

/-- The bytes of words, low byte first (R10). -/
def wordBytes (ws : List Word) : List Byte := (ws.map (fun w => Memory.leBytes 4 w.toNat)).flatten

/-- R554, R555: words for a host physical address; with no module up they wait, in order. -/
def hostWrite (s : State) (hpa : Nat) (ws : List Word) : State :=
  if handleUp s then { s with mem := s.mem.writeBytes (hostBase + hpa) (wordBytes ws), hd := { s.hd with sent := s.hd.sent + 1 } }
  else { s with hd := { s.hd with waiting := s.hd.waiting ++ [(hpa, ws)] } }

/-- R557: one 16-byte message to the host address of HD_MSG_ADDR. -/
def hostMessage (s : State) (ws : List Word) : State := hostWrite s s.hd.msgAddr ws

/-- R93, R557: the completion message of a queue. -/
def completionMessage (s : State) (q : Nat) : State :=
  let x := s.queue q
  hostMessage s [wd (0x01 + q * 2 ^ 8 + x.cfg.irqVector * 2 ^ 16 + b2n (x.st == .halted) * 2 ^ 24), wd x.rwrite,
    wd (s.cp.time % 2 ^ 32), wd (s.cp.time / 2 ^ 32 % 2 ^ 15)]

/-! ### Statuses -/

namespace St
abbrev ok : Nat := 0x00
abbrev okClamped : Nat := 0x01
abbrev planRejected : Nat := 0x10
abbrev tileIllegal : Nat := 0x11
abbrev hazard : Nat := 0x12
abbrev xlateFault : Nat := 0x20
abbrev hostTimeout : Nat := 0x21
abbrev eccAbort : Nat := 0x30
abbrev partnerLost : Nat := 0x40
abbrev windowClosed : Nat := 0x41
abbrev ringWatchdog : Nat := 0x42
abbrev rangeExceeded : Nat := 0x50
abbrev resetAbort : Nat := 0x60
abbrev internal : Nat := 0x7F
end St

/-- R52: a Running queue halts. -/
def haltQueue (s : State) (q : Nat) : State :=
  let x := s.queue q
  if x.st == .running then s.setQueue q { x with st := .halted } else s

/-- R91: CP_QERR records a status and tag. -/
def recordErr (s : State) (q code tag : Nat) : State := s.setQueue q { s.queue q with errStatus := code, errTag := tag }

/-- R89, R91: the status of a command is decided, once. An error halts its queue and is recorded in CP_QERR; the reply, the event
and the message follow at COMMAND_RETIRE. -/
def decideStatus (s : State) (id code detail count : Nat) : State :=
  match s.cmd? id with
  | none => s
  | some c =>
    if c.status.isSome then s else
    let halts := 1 < code && (s.queue c.queue).st == .running
    let s := s.mapCmd id (fun c => { c with status := some ⟨code, detail, count, halts⟩, tDecided := s.cp.time })
    if code ≤ 1 then s else haltQueue (recordErr s c.queue code c.tag) c.queue

/-- R64: the decrement of a retirement with success, and the fault of any other. -/
def Event.retire (e : Event) (ok : Bool) : Event :=
  if ok then (if e.count = 0 then { e with underflow := true } else { e with count := e.count - 1 }) else { e with fault := true }

/-- R74: the operations of SIGNAL, saturating at 0 and 0xFFFF (R67). -/
def Event.signal (e : Event) (op v : Nat) : Event :=
  match op with
  | 0 => { e with count := v }
  | 1 => if e.count + v > 0xFFFF then { e with count := 0xFFFF, overflow := true } else { e with count := e.count + v }
  | 2 => if v > e.count then { e with count := 0, underflow := true } else { e with count := e.count - v }
  | _ => e

/-! ### Sticky flags -/

/-- R477: the engine's flags take every cause at once; the causes are then on their way to the counts (R478). -/
def raiseFlags (s : State) (f : Sticky) : State :=
  { s with tl := { s.tl with flags := s.tl.flags.or f, onWay := s.tl.onWay.or f } }

/-- R477: the same, kept by a slot as well. Slot 0 gathers nothing (R467). -/
def raiseSlotFlags (s : State) (slot : Nat) (f : Sticky) : State :=
  let s := raiseFlags s f
  if slot = 0 then s else s.setSlot slot { s.slot slot with flags := (s.slot slot).flags.or f }

/-! ### Events (R480, R482) -/

/-- `n` events of a code and unit have occurred; they are on their way to Tally (R482, log 149). -/
def noteEvent (s : State) (code unit n : Nat) : State :=
  if n = 0 then s else { s with tl := { s.tl with events := tmod 0 s.tl.events (512 * code + unit % 512) (· + n) } }

/-- The lines of the stacks among some pieces, as events of their stacks. -/
def noteLines (s : State) (code : Nat) (ps : List (Nat × Nat)) : State :=
  ps.foldl (fun s p => if regionOf p.1 == .stack then noteEvent s code (stackOf p.1) (Memory.linesOf p.1 p.2).length else s) s

/-! ### Stored data -/

/-- R379: the source and place that ECC_ABORT names for a failing line. -/
def eccDetail (pa : Nat) : Nat :=
  match regionOf pa with
  | .stack => 2 * 2 ^ 12 + stackOf pa
  | _ =>
    let b := stakeBank (pa - stakeBase)
    if inCoil pa then 4 * 2 ^ 12 + b else if inReduce pa then 5 * 2 ^ 12 + b else 1 * 2 ^ 12 + b

/-- R383, R385: an uncorrectable error of a line is recorded in the registers of its memory, and the line fails until it is written
whole; an access that fails its parity for the third time fails alone (R376). -/
def recordUncorr (s : State) (pa : Nat) : State :=
  let s := { s with mem :=
    if s.mem.once.contains (lineOf pa) then { s.mem with once := s.mem.once.filter (· != lineOf pa) } else s.mem.lose pa }
  match regionOf pa with
  | .stake => { s with st := { s.st with uncorr := true, eccBank := stakeBank (pa - stakeBase), eccRow := stakeRow (pa - stakeBase) } }
  | .stack => s.setBase (stackOf pa) { s.base (stackOf pa) with uncorr := true, eccAddr := pa / 32 * 32 }
  | _ => s

/-- R377: `n` words of stake, or `n` reads of a stack, were corrected. -/
def recordCorr (s : State) (pa n : Nat) : State :=
  if n = 0 then s else
  match regionOf pa with
  | .stake => { s with st := { s.st with corr := satAdd 0xFFFF s.st.corr n } }
  | .stack => s.setBase (stackOf pa) { s.base (stackOf pa) with corr := satAdd 0xFFFF (s.base (stackOf pa)).corr n }
  | _ => s

/-- What an access meets at an address: its corrected words are counted, and a line that cannot be corrected fails from now on. -/
def meetAt (s : State) (pa : Nat) (f : Finding) : State :=
  let s := recordCorr s pa f.corrected
  if f.uncorrectable then { s with mem := s.mem.lose pa } else s

/-- The first failing access of a list of ranges: its address in the failing line. -/
def badPiece (m : Memory) (ps : List (Nat × Nat)) : Option Nat :=
  match ps with
  | [] => none
  | (a, n) :: t => match m.badIn a n with | some l => some (max a l) | none => badPiece m t

/-- R376: the repeats of accesses that have succeeded are forgotten. -/
def clearRepeats (s : State) (ps : List (Nat × Nat)) : State :=
  let left (x : BaseCtl) : BaseCtl :=
    { x with repeats := x.repeats.filter (fun r => !ps.any (fun p => p.1 < r.1 + 32 && r.1 < p.1 + p.2)) }
  if s.bs.all (fun b => b.2.repeats.isEmpty) then s
  else { s with bs := (s.bs.map (fun b => (b.1, left b.2))).filter (fun b => b.2 != {}) }

/-- What reading some ranges meets (R377, R379): every corrected error is counted, and stake takes the corrected word back; the address of
the first access that fails. -/
def readMeets (s : State) (ps : List (Nat × Nat)) : State × Option Nat :=
  let us := s.mem.softIn ps
  let s := if us.isEmpty then s else us.foldl (fun s u => recordCorr s u 1)
    { s with mem := { s.mem with soft := s.mem.soft.filter (fun u => u < stackEnd || !us.contains u) } }
  (clearRepeats s ps, badPiece s.mem ps)

/-- No stored data holds an error, and no access is being repeated. -/
def errorFree (s : State) : Bool :=
  s.mem.bad.isEmpty && s.mem.soft.isEmpty && s.mem.once.isEmpty && s.bs.all (fun b => b.2.repeats.isEmpty)

/-- Reads pieces in order. -/
def readPieces (m : Memory) (ps : List (Nat × Nat)) : List Byte := (ps.map (fun p => m.readBytes p.1 p.2)).flatten

/-- R380, R376: a line that a write covers only in part and whose stored word fails is not made, nor is an access that fails its parity;
every other line is. -/
def writeGuarded (m : Memory) (a : Nat) (bs : List Byte) : Memory × Option Nat :=
  let failing := (Memory.linesOf a bs.length).filter (fun l => m.once.contains l || (m.bad.contains l && !Memory.covers l a bs.length))
  let put := (bs.zip (List.range bs.length)).foldl
    (fun (m : Memory) (p : Byte × Nat) => if failing.contains (lineOf (a + p.2)) then m else m.write (a + p.2) p.1) m
  (put.heal a bs.length, failing.head?)

/-- Writes bytes over pieces in order; the first line not made under R380, if any. -/
def writePieces (m : Memory) : List (Nat × Nat) → List Byte → Memory × Option Nat
  | [], _ => (m, none)
  | (a, n) :: t, bs =>
    let r := writeGuarded m a (bs.take n)
    let r2 := writePieces r.1 t (bs.drop n)
    (r2.1, r.2 <|> r2.2)

/-- The lines that writes to some ranges cover only in part, which are read first (R352). -/
def partLines (ps : List (Nat × Nat)) : List (Nat × Nat) :=
  (ps.map (fun p => ((Memory.linesOf p.1 p.2).filter (fun l => !Memory.covers l p.1 p.2)).map (fun l => (l, lineSize l)))).flatten

/-- Writes bytes over pieces in order: the lines covered in part are read first (R352, R377); the first line not made, if any. -/
def writeMeets (s : State) (ps : List (Nat × Nat)) (bs : List Byte) : State × Option Nat :=
  let s := clearRepeats (readMeets s (partLines ps)).1 ps
  let r := writePieces s.mem ps bs
  ({ s with mem := r.1 }, r.2)

end Sys2Proof.Machine
end

