-- ==== Sys2Proof/Machine/Links.lean ====
section
/-! DEFINITION. The fabric seen from one engine (R422, R428 to R435, R453): identity, coordinates, routes, detours, sending a
message, and LEAVE (R452). -/

namespace Sys2Proof.Machine

/-! ### Identity -/

/-- The ID field of the active configuration set (R438). -/
def ownId (s : State) : Nat := fld s.active.engineId 15 0

def torusSize (s : State) : Nat := s.active.torusX * s.active.torusY * s.active.torusZ

/-- R430, R508: id_valid of HP_ENGINE_ID. -/
def idValid (s : State) : Bool := bit s.active.engineId 16 && torusSize s ≤ 65536

/-- R430: the coordinates of an engine ID. -/
def coords (s : State) (n : Nat) : Nat × Nat × Nat :=
  (n % s.active.torusX, n / s.active.torusX % s.active.torusY, n / (s.active.torusX * s.active.torusY))

def idOf (s : State) (x y z : Nat) : Nat := x + s.active.torusX * (y + s.active.torusY * z)

/-- One step around an axis of `n` positions, forward or back. -/
def stepAxis (n a : Nat) (back : Bool) : Nat := (if back then a + n - 1 else a + 1) % n

/-- R422, R529: the neighbour in a direction. -/
def neighbour (s : State) (n dir : Nat) : Nat :=
  let (x, y, z) := coords s n
  match dir / 2 with
  | 0 => idOf s (stepAxis s.active.torusX x (dir % 2 == 1)) y z
  | 1 => idOf s x (stepAxis s.active.torusY y (dir % 2 == 1)) z
  | _ => idOf s x y (stepAxis s.active.torusZ z (dir % 2 == 1))

/-! ### Routes -/

/-- R422: the port pair of a direction. -/
def portsOf (dir : Nat) : List Nat := [2 * (dir / 2) + 8 * (dir % 2), 2 * (dir / 2) + 8 * (dir % 2) + 1]

/-- R422: the direction of a torus port. -/
def dirOf (p : Nat) : Option Nat := if p % 8 < 6 then some (2 * (p % 8 / 2) + p / 8) else none

/-- R422: bypass port Bi. -/
def bypassPort (i : Nat) : Nat := [6, 7, 14, 15].getD i 6

def detourOf (s : State) (i : Nat) : Nat := [s.active.detour0, s.active.detour1, s.active.detour2, s.active.detour3].getD i 0

/-- R433, R508: the bypass port that serves a direction: of the lowest-numbered enabled entry that names it. -/
def detourPort (s : State) (dir : Nat) : Option Nat :=
  ((List.range 4).find? (fun i => bit (detourOf s i) 8 && fld (detourOf s i) 2 0 == dir)).map bypassPort

/-- The bypass entry in force on a port, as a direction (R433, HP_LINK_STATE.detour). -/
def detourDir (s : State) (p : Nat) : Option Nat := (List.range 6).find? (fun d => detourPort s d == some p)

/-- R431: the shorter way along an axis, + on a tie; none when the coordinates agree. -/
def axisDir (n a b axis : Nat) : Option Nat :=
  let d := (b + n - a) % n
  if d = 0 then none else some (2 * axis + b2n (n < 2 * d))

/-- R431: the direction in which dimension order sends a message. -/
def routeDir (s : State) (dest : Nat) : Option Nat :=
  let (x, y, z) := coords s (ownId s)
  let (u, v, w) := coords s dest
  axisDir s.active.torusX x u 0 <|> axisDir s.active.torusY y v 1 <|> axisDir s.active.torusZ z w 2

/-- R430: an ID that names no torus position is reached through a detour entry whose bypass port has it as its peer (log 33). -/
def reachable (s : State) (n : Nat) : Bool :=
  n < torusSize s || (List.range 6).any (fun d => match detourPort s d with | some p => (s.port p).peer == n | none => false)

/-- The ports that a message to `dest` may leave on. -/
def routePorts (s : State) (dest : Nat) : List Nat :=
  match (if dest < torusSize s then routeDir s dest
         else (List.range 6).find? (fun d => match detourPort s d with | some p => (s.port p).peer == dest | none => false)) with
  | some d => match detourPort s d with | some p => [p] | none => portsOf d
  | none => []

def portUp (s : State) (p : Nat) : Bool := (s.port p).state == .up || (s.port p).state == .retrying

/-! ### Sending -/

/-- R432: the port a message takes among the ports of its route that are up. -/
def choosePort (s : State) (cls : Nat) (m : Msg) (ps : List Nat) : Option Nat :=
  match ps with
  | [] => none
  | [p] => some p
  | p :: q :: _ =>
    if cls = 0 then some p
    else if cls = 3 then some (if Config.portHash m.src.toNat m.dest.toNat m.tag.toNat then q else p)
    else some (if bit s.hp.alternate (p / 2) then q else p)

/-! ### Messages and blocks (R425, R435) -/

/-- The flits of a message: its header and its payload (R435). -/
def OutMsg.flits (o : OutMsg) : Nat := 1 + cdiv o.m.data.length 64

/-- The header flit of a message (R435). -/
def OutMsg.headerFlit (o : OutMsg) : List Byte :=
  let m := o.m
  wordBytes ([wd (o.type + o.cls * 2 ^ 8 + m.length.toNat * 2 ^ 16), wd (m.dest.toNat + m.src.toNat * 2 ^ 16),
    wd (m.tag.toNat + m.object.toNat * 2 ^ 16), wd m.offset.toNat, wd (m.offset.toNat / 2 ^ 32), wd (m.step.toNat + m.aux.toNat * 2 ^ 16)] ++
    List.replicate 10 0#32)

/-- Bytes filled up with zeros to whole units. -/
def filled (unit : Nat) (bs : List Byte) : List Byte := bs ++ List.replicate ((unit - bs.length % unit) % unit) 0#8

/-- The flit bytes of the blocks that carry a message; it starts a block (log 132). -/
def OutMsg.blocks (o : OutMsg) : List (List Byte) := chunksOf 1024 (filled 1024 (o.headerFlit ++ filled 64 o.m.data))

/-- A block header (R425). -/
def packHeader (seq ack : Nat) (nak : Bool) (cls count : Nat) (flits : List Byte) : BitVec 64 :=
  let low := wd (seq + ack * 2 ^ 12 + b2n nak * 2 ^ 24 + cls * 2 ^ 25 + count * 2 ^ 27)
  crc32c (wordBytes [low] ++ flits) ++ low

/-- The acknowledgement that a port's blocks carry: the last block received in order and intact. -/
def Port.ack (x : Port) : Nat := (x.nextRx + 4095) % 4096

/-- A block of data as it leaves a port; it returns no credits (log 132). -/
def Port.block (x : Port) (seq : Nat) (flits : List Byte) : OutBlock := ⟨packHeader seq x.ack x.nakDue 0 0 flits, flits⟩

/-- R425 to R427: a message leaves in the blocks that follow on its port, against credits of its class, and stays in the replay
buffer until acknowledged. -/
def sendOn (s : State) (p : Nat) (o : OutMsg) : State :=
  let x := s.port p
  let bs := o.blocks
  let n := bs.length
  let replay := x.replay ++ (List.range n).map (fun i => x.block ((x.nextTx + i) % 4096) (bs.getD i []))
  (noteEvent s 0x40 p o.flits).setPort p { x with
    nextTx := (x.nextTx + n) % 4096,
    credits := x.credits.set o.cls (x.credits.getD o.cls 0 - o.flits),
    replay := replay.drop (replay.length - 128),
    outHeader := (replay.getLast?.map (·.header)).getD x.outHeader,
    unacked := x.unacked ++ [{ o with last := (x.nextTx + n - 1) % 4096 }] }

/-- R427: whether a port holds the credits for a message. -/
def hasCredit (s : State) (p : Nat) (o : OutMsg) : Bool := o.flits ≤ (s.port p).credits.getD o.cls 0

/-! ### Turns (R428) -/

/-- The port that a message waits for (R432): none while no port of its route is up. A HELLO is for one port alone (R519). -/
def portFor (s : State) (o : OutMsg) : Option Nat :=
  if o.type = 0x31 then (if portUp s o.m.port then some o.m.port else none)
  else choosePort s o.cls o.m ((routePorts s o.m.dest.toNat).filter (portUp s))

/-- What takes turns within a class: the commands of this engine, and of others by the fields that name them. -/
def OutMsg.key (o : OutMsg) : Nat × Nat × Nat × Nat :=
  match o.cmd with
  | some id => (o.cls, 0, 0, id)
  | none => (o.cls, o.m.src.toNat + 1, o.m.dest.toNat, o.m.tag.toNat)

/-- How lately a command was served: 0 for one that has not been since it last had nothing to send. -/
def Turns.rank (t : Turns) (o : OutMsg) : Nat := match t.served.findIdx? (· == o.key) with | some i => i + 1 | none => 0

/-- The message whose turn it is within a class: the first of the command that was served the longest ago. -/
def Turns.ofClass (t : Turns) (os : List OutMsg) (cls : Nat) : Option OutMsg :=
  (os.filter (fun o => o.cls == cls)).foldl (fun b o =>
    match b with
    | none => some o
    | some x => if t.rank o < t.rank x then some o else b) none

/-- The weight of a class (HP_ARB, R466). -/
def weightOf (s : State) (cls : Nat) : Nat := match cls with | 1 => s.hp.wRing | 2 => s.hp.wColl | _ => s.hp.wRemote

/-- The class whose turn it is among classes 1 to 3, and the messages that its turn still has: a class with nothing to send gives up its
turn. -/
def Turns.next (s : State) (t : Turns) (has : Nat → Bool) : Option (Nat × Nat) :=
  if t.left ≠ 0 && has t.cls then some (t.cls, t.left)
  else (([t.cls % 3 + 1, (t.cls + 1) % 3 + 1, t.cls] : List Nat).find? has).map (fun c => (c, weightOf s c))

/-- R428: the message that a port sends next among those that wait for it, and the turns after it. -/
def Turns.pick (s : State) (t : Turns) (os : List OutMsg) : Option (OutMsg × Turns) :=
  let after (o : OutMsg) (t : Turns) : Turns :=
    { t with served := t.served.filter (fun k => k != o.key && os.any (fun x => x.key == k)) ++ [o.key] }
  match t.ofClass os 0 with
  | some o => some (o, after o t)
  | none =>
    match t.next s (fun c => os.any (fun o => o.cls == c)) with
    | some (c, n) => (t.ofClass os c).map (fun o => (o, after o { t with cls := c, left := n - 1 }))
    | none => none

/-- One message leaves on a port, if one that waits for it has credits. -/
def sendNext (s : State) (p : Nat) : Option State :=
  let x := s.port p
  match x.turns.pick s (s.hp.waiting.filter (fun o => portFor s o == some p && hasCredit s p o)) with
  | none => none
  | some (o, t) =>
    let s := { s with hp := { s.hp with
      waiting := s.hp.waiting.erase o,
      alternate := if o.cls = 1 || o.cls = 2 then s.hp.alternate ^^^ 2 ^ (p / 2) else s.hp.alternate } }
    some (sendOn (s.setPort p { x with turns := t }) p { o with m := { o.m with port := p } })

/-- Messages leave while a port can send one, at most as many as given. -/
def sendLoop : Nat → State → State
  | 0, s => s
  | n + 1, s => match (List.range 16).findSome? (sendNext s) with | some s => sendLoop n s | none => s

/-- The messages that wait leave as their ports and credits allow. -/
def flushWaiting (s : State) : State := sendLoop s.hp.waiting.length s

/-- A message waits in the engine (R427, R463). -/
def holdMsg (s : State) (o : OutMsg) : State := { s with hp := { s.hp with waiting := s.hp.waiting ++ [o] } }

/-- Sends a message: it takes its turn on a port of its route that is up, alternating within a pair (R432); with none up, or without credits,
it waits. -/
def sendMsg (s : State) (o : OutMsg) : State := flushWaiting (holdMsg s o)

/-- The link of a port goes down, to train from now on or to stay disabled: training begins, and what it carried is forgotten. -/
def trainPort (x : Port) (st : LinkState) : Port :=
  { x with state := st, peer := 0, lanesOk := 0, nextRx := 0, nextTx := 0, nakDue := false, failsInRow := 0, replay := [],
           credits := [512, 512, 512, 512], arrived := [0, 0, 0, 0], outHeader := 0 }

/-- R429: unacknowledged messages of a port, which no longer carries any, go out again on the other port of its pair, or wait; they lie in no
receive buffer. The HELLOs of the port have no other way. -/
def moveMessages (s : State) (p : Nat) : State :=
  let ms := ((s.port p).unacked.filter (fun o => o.type != 0x31)).map (fun o => { o with m := { o.m with port := 16 } })
  let s := s.setPort p { s.port p with unacked := [], replay := [] }
  let rest := s.hp.waiting.filter (fun o => !(o.type == 0x31 && o.m.port == p))
  flushWaiting { s with hp := { s.hp with waiting := ms ++ rest } }

/-- The link of a port goes down, to train from now on or to stay disabled, and its messages move. -/
def takeDown (s : State) (p : Nat) (st : LinkState) : State :=
  moveMessages (s.setPort p { trainPort (s.port p) st with trainedSince := s.now }) p

/-- R429: a port is enabled, and starts training. -/
def startPort (s : State) (p : Nat) : State :=
  s.setPort p { trainPort (s.port p) .training with enable := true, trainedSince := s.now }

/-- R429: a port is disabled. -/
def stopPort (s : State) (p : Nat) : State := takeDown (s.setPort p { s.port p with enable := false }) p .disabled

/-- A message of this engine (R435). -/
def mkMsg (s : State) (type cls dest tag object offset step aux : Nat) (data : List Byte) : OutMsg :=
  let data := filled 64 data
  { type := type, cls := cls,
    m := ⟨0, BitVec.ofNat 16 dest, BitVec.ofNat 16 (ownId s), BitVec.ofNat 16 tag, BitVec.ofNat 12 object, BitVec.ofNat 52 offset,
      BitVec.ofNat 16 step, BitVec.ofNat 16 aux, data, BitVec.ofNat 13 data.length⟩ }

/-- A message of a command of this engine. -/
def OutMsg.by (o : OutMsg) (c : Cmd) : OutMsg := { o with cmd := some c.id }

/-- R434: every byte that a command has sent has been acknowledged. -/
def sentDone (s : State) (id : Nat) : Bool :=
  let own (o : OutMsg) : Bool := o.cmd == some id && !o.m.data.isEmpty
  !s.hp.waiting.any own && s.hp.ports.all (fun p => !p.2.unacked.any own)

/-- The sender's identifier of a command (R435, log 25). -/
def tagOf (id : Nat) : Nat := (Config.hoopTag id).toNat

/-! ### Groups and rings -/

/-- The word of a table entry. -/
def tw (ws : List Word) (i : Nat) : Nat := (ws.getD i 0).toNat

def ringEntry (s : State) (r : Nat) : List Word := tget [] s.hp.rings r
def groupEntry (s : State) (g : Nat) : List Word := tget [] s.hp.groups g
def ringMembers (e : List Word) : Nat := fld (tw e 0) 31 16 + 1
def ringSucc (e : List Word) : Nat := fld (tw e 2) 15 0
def ringPred (e : List Word) : Nat := fld (tw e 3) 15 0

/-- R442, R443: the directions of a ring, 0 clockwise, from the predecessor to the successor, and 1 anticlockwise: where each goes to, and
where it comes from. -/
def ringDest (e : List Word) (d : Nat) : Nat := if d = 0 then ringSucc e else ringPred e
def ringFrom (e : List Word) (d : Nat) : Nat := if d = 0 then ringPred e else ringSucc e

def Ring.acked (r : Ring) (d : Nat) : Bool := if d = 0 then r.ackCw else r.ackAcw

/-- The positions of an axis that a group spans. -/
def axisRange (masked : Bool) (n own : Nat) : List Nat := if masked then List.range n else [own]

/-- R453: the members of a group, in group order. -/
def groupMembers (s : State) (e : List Word) : List Nat :=
  let (x, y, z) := coords s (ownId s)
  ((axisRange (bit (tw e 0) 3) s.active.torusZ z).map (fun w =>
    ((axisRange (bit (tw e 0) 2) s.active.torusY y).map (fun v =>
      (axisRange (bit (tw e 0) 1) s.active.torusX x).map (fun u => idOf s u v w))).flatten)).flatten

/-- The members that follow and precede this engine in group order, the first following the last. -/
def groupNeighbours (s : State) (e : List Word) : Nat × Nat :=
  let ms := groupMembers s e
  let i := ms.findIdx (· == ownId s)
  (ms.getD ((i + 1) % ms.length) 0, ms.getD ((i + ms.length - 1) % ms.length) 0)

/-! ### LEAVE -/

/-- R452: a LEAVE to one neighbour, logged in HP_LEAVE_LOG (R466). -/
def sendLeave (s : State) (isGroup : Bool) (object lost dest : Nat) : State :=
  let s := { s with hp := { s.hp with leave := 2 ^ 31 + b2n isGroup * 2 ^ 24 + object % 256 * 2 ^ 16 + lost % 65536 } }
  if dest = ownId s then s else sendMsg s (mkMsg s 0x30 0 dest 0 object 0 0 lost [])

/-- R452, R461: the successor and the predecessor of a ring sweep or collective command in flight. -/
def neighboursOf (s : State) (r : Run) : Option (Bool × Nat × Nat × Nat) :=
  match r with
  | .ring g => let e := ringEntry s g.ring
    if ringMembers e < 2 || !bit (tw e 0) 0 then none else some (false, g.ring, ringSucc e, ringPred e)
  | .collective c => let e := groupEntry s c.group
    let (a, b) := groupNeighbours s e
    if (groupMembers s e).length < 2 || !bit (tw e 0) 0 then none else some (true, c.group, a, b)
  | _ => none

/-- The ring or group of a command, also before its sweep or exchange has begun (R73, R80, R82). -/
def Cmd.fabric (c : Cmd) : Run :=
  match c.run with
  | .ring r => .ring r
  | .collective g => .collective g
  | x =>
    match c.opcode with
    | 0x50 => .ring { ring := fld (c.word 15) 7 0 }
    | 0x51 => .collective { group := fld (c.word 5) 7 0 }
    | 0x52 => .collective { group := fld (c.word 6) 7 0 }
    | 0x72 => .ring { ring := fld (c.word 2) 7 0 }
    | _ => x

/-- R452: both neighbours are told that the command has ended. -/
def leaveBoth (s : State) (c : Cmd) (lost : Nat) : State :=
  match neighboursOf s c.fabric with
  | some (g, o, a, b) => sendLeave (sendLeave s g o lost a) g o lost b
  | none => s

/-- R522: Border records a suspect. -/
def suspect (s : State) (source port engine : Nat) : State :=
  raiseIrq { s with bd := { s.bd with
    suspectValid := true, suspectSource := source, suspectPort := port, suspectEngine := engine } } 4

/-- The port toward an engine, for BD_SUSPECT. -/
def portToward (s : State) (n : Nat) : Nat := (routePorts s n).headD 0

end Sys2Proof.Machine
end

