-- ==== Sys2Proof/Machine/Ending.lean ====
section
/-! DEFINITION. How commands end: the readers they held, their work, LEAVE (R452) and the errors of stored data (R379). -/

namespace Sys2Proof.Machine

/-! ### The mirror area (R396) -/

/-- The 32 bytes of a window table entry (R410). -/
def windowWords (w : Window) : List Word :=
  [wd (w.state + w.ctx * 2 ^ 8 + b2n w.anySender * 2 ^ 16), wd w.sender, wd w.base, wd (w.base / 2 ^ 32), wd w.length,
   wd (w.length / 2 ^ 32), wd w.mapFirst, wd w.inflight]

/-- The window copy and, since R396 gives their entries no layout, the page maps with free content (log 37); none while ready is 0
(DESIGN CHOICE, log 152). -/
def copyWindow (s : State) (n : Nat) : State :=
  if !s.sp.ready then s else
  let m := s.mem.undefine (s.sp.mirrorBase + 0x2000000) (s.sp.mirrorBase + 0x4000000)
  { s with mem := m.writeBytes (s.sp.mirrorBase + 0x4009000 + 32 * n) (wordBytes (windowWords (s.window n))) }

/-- The segment and root copy: its entries have no layout in R396, so its content is free (log 37). While ready is 0 no copy is written, and
the copies that an enable zeroed stay as they are when ready comes (DESIGN CHOICE, log 152). -/
def copySegments (s : State) : State :=
  if !s.sp.ready then s else
  { s with mem := s.mem.undefine (s.sp.mirrorBase + 0x4000000) (s.sp.mirrorBase + 0x4000000 + 34816) }

/-! ### Endings -/

/-- R335: the readers counts that a compute command took are given back. -/
def releaseReaders (s : State) (c : Cmd) : State :=
  match c.run with
  | .compute k =>
    let s := k.snaps.foldl (fun (s : State) n => s.setDesc n.seq { s.desc n.seq with readers := (s.desc n.seq).readers - 1 }) s
    s.mapCmd c.id (fun c => { c with run := .compute { k with snaps := [] } })
  | _ => s

/-- A rib with no tile assigned: its store, banks and seed buffers stay. -/
def Rib.freed (x : Rib) : Rib :=
  { x with landing := [], pass := none, nextPass := 0, beat := 0, out := [], rewritten := [], work := none, chain := false,
           compat := false, regs := {} }

/-- R399: a request not yet sent that some accesses leave: it goes with its last one, and writes only as those that are left do. -/
def Miss.left (m : Miss) (ws : List Waiter) : Option Miss :=
  if m.sent then some { m with waiters := ws }
  else if ws.isEmpty then none else some { m with waiters := ws, write := ws.any (·.write) }

/-- R295, R83: the work of a command stops: its arrays and ribs are freed, its channels closed, its waiting accesses forgotten, and its
messages that wait are not sent (R414). -/
def stopWork (s : State) (id : Nat) : State :=
  let arr := s.arr.map (fun p =>
    let x := p.2
    let own (t : Option Tile) : Option Tile := match t with | some t => if t.cmd = id then none else some t | none => none
    (p.1, { x with
      work := (match x.work with | some w => if w.cmd = id then none else some w | none => none),
      ending := x.ending.filter (fun w => w.cmd != id),
      acc0 := own x.acc0, acc1 := own x.acc1, latch := own x.latch }))
  let rib := s.rib.map (fun p =>
    let mine : Bool := (p.2.landing.head?.map (·.cmd)) = some id || (p.2.work.map (·.cmd)) = some id
    (p.1, { (if mine then p.2.freed else p.2) with landing := p.2.landing.filter (fun t => t.cmd != id) }))
  let sk := s.sk.map (fun p => (p.1, { p.2 with channels := p.2.channels.filter (fun c => c.cmd != id) }))
  let rings := s.rings.filter (fun p => p.2.cmd != id)
  let sp := { s.sp with
    misses := s.sp.misses.filterMap (fun m => m.left (m.waiters.filter (fun w => w.cmd != some id || w.reply == some id))),
    waiting := s.sp.waiting.filter (fun w => w.cmd != id),
    current := s.sp.current.map (fun w => if w.cmd = id then { w with commit := .nothing } else w) }
  { s with
    hp := { s.hp with waiting := s.hp.waiting.filter (fun o => o.cmd != some id) },
    rings := rings, arr := arr.filter (fun p => p.2 != {}), rib := rib.filter (fun p => p.2 != {}), sk := sk.filter (fun p => p.2 != {}), sp := sp }

/-- R533: an ADOPT that fails before its commit closes the windows that it opened, removes the context entries that it installed, and
leaves the port enables as they were: the ports that it disabled train again. -/
def undoAdopt (s : State) (r : Run) : State :=
  match r with
  | .adopt a =>
    let s := { s with sp := { s.sp with
      segments := a.segments.foldl (fun t i => tdel t i) s.sp.segments, roots := a.roots.foldl (fun t i => tdel t i) s.sp.roots,
      windows := a.opened.foldl (fun t i => tdel t i) s.sp.windows } }
    let s := a.opened.foldl copyWindow (if a.segments.isEmpty && a.roots.isEmpty then s else copySegments s)
    a.ports.foldl startPort s
  | _ => s

/-- What memory holds where a command is about to write its output is kept, so that an error leaves none of it (R92). -/
def keepOld (s : State) (id : Nat) (ps : List (Nat × Nat)) : State :=
  let old (p : Nat × Nat) : Saved := ⟨p.1, s.mem.readBytes p.1 p.2, (Memory.linesOf p.1 p.2).filter s.mem.bad.contains⟩
  s.mapCmd id (fun c => { c with undo := (ps.map old).reverse ++ c.undo })

/-- The outputs of a command stay, however it ends. -/
def forgetOld (s : State) (id : Nat) : State := s.mapCmd id (fun c => { c with undo := [] })

def Memory.restore (m : Memory) (o : Saved) : Memory :=
  let m := m.writeBytes o.pa o.bytes
  { m with bad := o.bad.filter (fun l => !m.bad.contains l) ++ m.bad }

/-- R92: the errors that leave the outputs already made: those of tiles (R295), of hazards (R158, R295), and of closed windows (R414). -/
def leavesOutput (code : Nat) : Bool := code == St.tileIllegal || code == St.hazard || code == St.windowClosed

/-- R92: a command that ends with an error leaves no output. -/
def undoOutput (s : State) (c : Cmd) (code : Nat) : State :=
  if leavesOutput code then s else { s with mem := c.undo.foldl Memory.restore s.mem }

/-- R90: the count of a command that an error ends; of a sum-over-all the elements in its buffer, of ALLREDUCE_V once Plait has read the
counts table (log 129). -/
def Cmd.soFar (c : Cmd) : Nat :=
  if c.opcode = 0x51 then c.word 4
  else if c.opcode = 0x52 then c.elements
  else match c.run with
    | .compute k => k.tiles
    | .ring r => r.work.tiles
    | .transport t => t.moved
    | .aborting _ n => n
    | _ => 0

/-- R452, R538: a sweep or a collective ends here: the answers to its shards, and what its members still send for it, belong to no command
any more. -/
def leaveFabric (s : State) (c : Cmd) : State :=
  match c.run with
  | .ring r =>
    let owed := (r.dirs.filter (fun d => !r.acked d)).map (fun d => (r.ring, ringDest (ringEntry s r.ring) d, r.step))
    { s with hp := { s.hp with owed := s.hp.owed ++ owed } }
  | .collective g => { s with hp := { s.hp with past := s.hp.past ++ g.senders.map (fun x => (g.group, x.1, x.2)) } }
  | _ => s

/-- R90: a QUEUE_ABORT of a queue counts the commands that it ends with RESET_ABORT. -/
def countAbort (s : State) (q code detail : Nat) : State :=
  if code = St.resetAbort && detail = 0x0002 then
    { s with cp := { s.cp with table := s.cp.table.map (fun c =>
      match c.run with
      | .aborting t n => if t = q then { c with run := .aborting t (n + 1) } else c
      | _ => c) } }
  else s

/-- A command ends with an error: its outputs are undone (R92), its status is decided and its work stops. -/
def endCommand (s : State) (id code detail : Nat) : State :=
  match s.cmd? id with
  | none => s
  | some c =>
    if c.status.isSome then s else
    let s := leaveFabric (forgetOld (undoOutput (undoAdopt s c.run) c code) id) c
    countAbort (stopWork (decideStatus (releaseReaders s c) id code detail c.soFar) id) c.queue code detail

/-- R452: a ring sweep or collective command that ends with an error tells its neighbours, naming the lost engine. -/
def endWithLeave (s : State) (id code detail lost : Nat) : State :=
  match s.cmd? id with
  | none => s
  | some c => if c.status.isSome then s else leaveBoth (endCommand s id code detail) c lost

/-- A command ends with an error of this engine's own. -/
def failCommand (s : State) (id code detail : Nat) : State := endWithLeave s id code detail (ownId s)

/-- A command holds a tile that is not yet complete or on its way out: in an array or its drain latch, in a rib, or a strip of rows. The scores
of a fused chain and the tiles of a scan or a key band are formed whole; those of a band leave nothing of their own (log 131). -/
def tileInFlight (s : State) (id : Nat) : Bool :=
  let mine (t : Option Tile) : Bool := match t with | some t => t.cmd == id && t.role != 6 | none => false
  s.arr.any (fun p =>
    let x := p.2
    mine x.latch || (match x.work with
      | some w => w.cmd == id && w.scan.isNone && ((w.sweep.isNone && w.band.isNone) || mine x.acc0)
      | none => mine x.acc0 || mine x.acc1)) ||
  s.rib.any (fun p => p.2.work.map (·.cmd) == some id || p.2.landing.any (fun t => mine (some t)))

/-- R83, R295: a command is cut short: it takes no further item, and ends at its next tile boundary. -/
def stopCommand (s : State) (id code detail : Nat) : State :=
  match s.cmd? id with
  | none => s
  | some c =>
    if tileInFlight s id then s.mapCmd id (fun c => { c with stop := c.stop <|> some (code, detail) })
    else failCommand s id (c.stop.getD (code, detail)).1 (c.stop.getD (code, detail)).2

/-- A command that is being cut short ends where it has reached its tile boundary. -/
def settle (s : State) (id : Nat) : State :=
  match (s.cmd? id).bind (·.stop) with
  | some x => if tileInFlight s id then s else failCommand s id x.1 x.2
  | none => s

/-- R290, R316: a failure of plan verification, with the place that CP_VER_DIAG records. -/
def verReject (s : State) (id area index detail : Nat) : State :=
  failCommand { s with cp := { s.cp with diag := area * 2 ^ 28 + index % 2048 * 2 ^ 16 + detail } } id St.planRejected detail

/-- A command that a failing line ends (R379). -/
def eccEnd (s : State) (id pa : Nat) : State := failCommand (recordUncorr s pa) id St.eccAbort (eccDetail pa)

/-- R380: a partial-line write that is not made ends its command; the lines that were made stay. -/
def eccWriteEnd (s : State) (id pa : Nat) : State := eccEnd (forgetOld s id) id pa

end Sys2Proof.Machine
end

