-- ==== Sys2Proof/Machine/Reset.lean ====
section
/-! DEFINITION. Resets and power states: the survival table of R503, the reset report and map of R502, and the engine reset of R501. -/

namespace Sys2Proof.Machine

/-! ### The reset report (R502, R516) -/

/-- The queues that hold commands accepted and not retired. -/
def qmapOf (s : State) : BitVec 256 := s.cp.table.foldl (fun (m : BitVec 256) c => m ||| (1#256 <<< c.queue)) 0#256

def writeQmap (s : State) : State := { s with bd := { s.bd with qmap := qmapOf s } }

/-- BD_RESET_REPORT after a reset of a cause: engine resets are causes 4 and 5, warm resets and Park exits 2, 3 and 6. -/
def reportReset (s : State) (cause : Nat) : State :=
  { s with bd := { s.bd with
    cause := cause,
    engineCount := if cause = 4 || cause = 5 then satAdd 0xFF s.bd.engineCount 1 else s.bd.engineCount,
    warmCount := if cause = 2 || cause = 3 || cause = 6 then satAdd 0xFF s.bd.warmCount 1 else s.bd.warmCount,
    reportValid := true } }

/-! ### What each unit loses -/

/-- The arrays as their fuses leave them (F and D of R503): tiles and latches empty. -/
def fusedArrays (l : List (Nat × Arr)) : List (Nat × Arr) :=
  (l.map (fun p => (p.1, ({ fuses := p.2.fuses, bypass := p.2.fuses } : Arr)))).filter (fun p => p.2 != {})

/-- The accumulator tiles and latches lost (U); the configuration, the status and the test results are kept. -/
def emptiedArr (x : Arr) : Arr := { x with acc0 := none, acc1 := none, latch := none, work := none, ending := none }

def mapArrays (f : Arr → Arr) (l : List (Nat × Arr)) : List (Nat × Arr) :=
  (l.map (fun p => (p.1, f p.2))).filter (fun p => p.2 != {})

/-- A rib after a reset that keeps its seed buffers: store, registers and banks lost, RB registers at reset.
RB_SEED_ADDR, which no row of R503 names, stays with RB_SEED_CTRL (log 34). The rib registers are undefined, and no pass can tell: a
register that it has not written reads +0 (R239). -/
def engineRib (epoch : Nat) (x : Rib) : Rib :=
  { active := x.active, swapPending := x.swapPending, wrRefused := x.wrRefused, seedAddr := x.seedAddr, seedA := x.seedA,
    seedB := x.seedB, storeEpoch := epoch }

/-- All ribs at their reset values, the store content undefined anew (U). -/
def lostRibs (epoch : Nat) : List (Nat × Rib) := (List.range 32).map (fun a => (a, ({ storeEpoch := epoch } : Rib)))

/-- The ribs with their RB registers lost but the seed buffers kept. -/
def engineRibs (epoch : Nat) (l : List (Nat × Rib)) : List (Nat × Rib) :=
  (List.range 32).map (fun a => (a, engineRib epoch (tget {} l a)))

/-- A fresh epoch of undefined content, for a rib store. -/
def newEpoch (s : State) : State × Nat :=
  ({ s with mem := { s.mem with epochs := s.mem.epochs + 1 } }, s.mem.epochs)

/-! ### The columns of R503 -/

/-- Stake outside the keep region becomes undefined. -/
def loseStake (m : Memory) : Memory := (m.undefine stakeBase keepLo).undefine keepHi stakeEnd

/-- The configuration rows at their reset values (R503, R504, R544, R552): the pins, the clock reference, the thermal and electrical
state, the report, the reason of Park and the scratch registers are kept. BD_CFG_SEL, BD_PMB_STATUS and doorbell_held, which no row of
R503, R544 or R552 names, return to their reset values (log 34). The regulators, and what is known of them, are not the reset's. -/
def defaultBorder (b : Border) : Border :=
  { refPresent := b.refPresent, coldLow := b.coldLow, warmLow := b.warmLow, unlocked := b.unlocked, rootUnlockSeen := b.rootUnlockSeen,
    reportValid := b.reportValid, engineCount := b.engineCount, warmCount := b.warmCount, cause := b.cause, qmap := b.qmap,
    keep := b.keep, thermalCap := b.thermalCap, elecCap := b.elecCap, excursion := b.excursion,
    cooldown := b.cooldown, excursionUs := b.excursionUs, excursionCut := b.excursionCut, cooldownLeft := b.cooldownLeft,
    hotNow := b.hotNow, sinceFall := b.sinceFall, coolReads := b.coolReads, junction := b.junction, sensor := b.sensor,
    clockedW := b.clockedW, restW := b.restW, nowW := b.nowW, avgWindow := b.avgWindow,
    pmbWatts := b.pmbWatts, railCmd := b.railCmd, railsOff := b.railsOff,
    parkValid := b.parkValid, parkWhere := b.parkWhere, parkReason := b.parkReason, scratch := b.scratch }

/-- The Warm column. Bring-up follows from step 3 (R566), with the keep region left out of the clearing of stake.
What no row names (HP_TBL_SEL, HP_TBL_CTRL, HP_TBL_WORD, TL_TAG_SEED, RB_SEED_ADDR) returns to its reset value (log 34). -/
def warmReset (s : State) (cause : Nat) : State :=
  let s := reportReset (writeQmap s) cause
  let (s, e) := newEpoch s
  { cp := {}, arr := fusedArrays s.arr, rib := lostRibs e, mem := loseStake s.mem,
    bd := { defaultBorder s.bd with boot := { keepExcluded := true }, resetDue := true },
    jt := s.jt, bus := s.bus, free := s.free, pending := s.pending }

/-- The Park column: only the keep region, the configuration sets, the power and PMBus settings and the report are kept. The Handle
port is disabled (R493), so that its modules leave up (R552, log 82). -/
def losePark (s : State) : State :=
  let (s, e) := newEpoch s
  { cp := {}, arr := fusedArrays s.arr, rib := lostRibs e, mem := (loseStake s.mem).undefine 0 stackEnd,
    bd := { s.bd with
      rootLock := false, divRun := false, silent := 0, silentSeen := 0, engineReset := false,
      phase := 0, plaitSeen := 0, parkDue := none, irq := if handleUp s then s.bd.irq ||| 2 ^ 9 else s.bd.irq },
    jt := s.jt, bus := s.bus, free := s.free, pending := s.pending }

/-- The Rest column: accumulators, rib stores and registers and the seed buffers are lost; the stacks go into self refresh; a port
that was up stays up at a reduced rate (R492). -/
def loseRest (s : State) : State :=
  let (s, e) := newEpoch s
  { s with
    arr := mapArrays emptiedArr s.arr, rib := lostRibs e,
    bs := (List.range 32).map (fun n => (n, { s.base n with selfRefresh := true })),
    hp := { s.hp with ports := (s.hp.ports.map (fun p => (p.1, { p.2 with rested := portUp s p.1 }))).filter (fun p => p.2 != {}) } }

/-- Off keeps nothing, and a cold reset sets every register to its reset value; host memory, the fuses, the pins and
the boundary-scan chain are not the reset's. -/
def coldState (s : State) : State :=
  let (s, e) := newEpoch s
  { State.reset with
    mem := s.mem.undefine 0 stakeEnd, rib := lostRibs e, arr := fusedArrays s.arr,
    bd := { coldLow := s.bd.coldLow, warmLow := s.bd.warmLow },
    jt := s.jt, free := s.free, pending := s.pending }

/-! ### Engine reset (R501, R524) -/

/-- R344, R501: the readers counts are set to zero. -/
def zeroReaders (l : List (Nat × Desc)) : List (Nat × Desc) :=
  (l.map (fun p => (p.1, { p.2 with readers := 0 }))).filter (fun p => p.2 != {})

/-- R356: bytes of the ring area in each column. -/
def ringBytes (s : State) : Nat := 16 * (65536 * 2 ^ s.st.ringSize)

/-- R356, R357: the ring areas of an operand partition word become undefined. -/
def loseRingArea (s : State) (partition : Nat) : State :=
  (List.range (fld partition 11 6)).foldl (fun (s : State) k =>
    let hi := stakeBase + (fld partition 5 0 + k + 1) * 0x2000000
    { s with mem := s.mem.undefine (hi - ringBytes s) hi }) s

/-- The operand partition word of a started plan step command (R280, R281). -/
def opPartition (k : Compute) : Nat := tw k.header (10 + fld (tw k.step 4) 11 8)

def computeOf (r : Run) : Option Compute :=
  match r with
  | .compute k => some k
  | .ring r => some r.work
  | _ => none

def loseRings (s : State) : State :=
  s.cp.table.foldl (fun (s : State) c => match computeOf c.run with | some k => loseRingArea s (opPartition k) | none => s) s

/-- R524: a LEAVE for each ring sweep and collective in flight. -/
def leaveAll (s : State) : State :=
  s.cp.table.foldl (fun (s : State) c => if c.status.isSome then s else leaveBoth (leaveFabric s c) c (ownId s)) s

/-- The messages of commands that have ended are not sent, and those under way belong to no command any more. -/
def disown (h : Hoop) : Hoop :=
  { h with
    waiting := h.waiting.filter (fun o => o.cmd.isNone),
    ports := h.ports.map (fun p => (p.1, { p.2 with unacked := p.2.unacked.map (fun o => { o with cmd := none }) })) }

/-- Steps 3 to 6 of R501 and the Engine column. ENGINE_RESET_DONE ends it. -/
def engineResetEffect (s : State) (cause : Nat) : State :=
  let s := reportReset (writeQmap s) cause
  let s := loseRings (leaveAll s)
  let (s, e) := newEpoch s
  { s with
    cp := { time := s.cp.time },
    arr := mapArrays emptiedArr s.arr,
    rib := engineRibs e s.rib,
    mem := s.mem.undefine reduceLo reduceHi,
    sk := [], rings := [],
    cl := { s.cl with descs := zeroReaders s.cl.descs, busy := [] },
    hd := { s.hd with held := [] },
    hp := disown s.hp,
    sp := { s.sp with
      misses := [], waiting := [], current := s.sp.current.map (fun w => { w with cmd := 0, commit := .nothing }) },
    bd := { s.bd with engineReset := true } }

end Sys2Proof.Machine
end

