-- ==== Sys2Proof/Machine/Arrays.lean ====
section
/-! DEFINITION. The weave arrays' control (chapter 04): forms, bad columns, the online state, the held register writes and the built-in
test. What arrays compute is in Chunk.lean. -/

namespace Sys2Proof.Machine

/-- The bits set of a 128-bit value. -/
def popCount (b : BitVec 128) : Nat := ((List.range 128).filter (fun i => b.getLsbD i)).length

/-- R146: bypassed columns. -/
def Arr.bypassed (x : Arr) : Nat := popCount x.bypass

/-- R135: the depth and the full width of a form. -/
def formDepth (form : Nat) : Nat := [128, 64, 32].getD form 0
def formParts (form : Nat) : Nat := [1, 2, 4].getD form 0

/-- R146: the presented width in a form. -/
def Arr.width (x : Arr) (form : Nat) : Nat := formParts form * (128 - x.bypassed)

/-- R163: why an array is offline, 0 when it is online. -/
def Arr.offlineReason (x : Arr) : Nat :=
  if 4 < x.bypassed then 3 else if x.offlineCause = 2 then 2 else if x.offline then 1 else 0

def Arr.online (x : Arr) : Bool := x.offlineReason == 0

/-- R29: a register write is held until the array has no tile. -/
def Arr.held (x : Arr) : Bool := x.heldCfg.isSome || !x.heldBypass.isEmpty

/-- A tile in flight or assigned, in an accumulator tile or in the latch. -/
def Arr.busy (x : Arr) : Bool := x.work.isSome || x.ending.isSome || x.acc0.isSome || x.acc1.isSome || x.latch.isSome

/-! ### The registers (R148, R161 to R165) -/

/-- R162: a write of WV_CFG takes effect. -/
def Arr.configure (x : Arr) (v : Nat) : Arr :=
  { x with
    form := if fld v 1 0 = 3 then x.form else fld v 1 0, formLock := bit v 4, offline := bit v 8,
    offlineCause := if bit v 8 then x.offlineCause else 0 }

/-- 32 columns of WV_COL_BYPASS are written. -/
def Arr.setBypass (x : Arr) (k : Nat) (v : Word) : Arr :=
  let keep : BitVec 128 := ~~~ ((0xFFFFFFFF#128) <<< (32 * k))
  { x with bypass := (x.bypass &&& keep) ||| ((v.setWidth 128) <<< (32 * k)) }

/-- R29: a write takes the place of an older value that is held. -/
def writeWvCfg (s : State) (a : Nat) (v : Word) : State :=
  let x := s.array a
  s.setArray a (if x.busy then { x with heldCfg := some v } else { x.configure v.toNat with heldCfg := none })

def writeWvBypass (s : State) (a k : Nat) (v : Word) : State :=
  let x := s.array a
  let rest := x.heldBypass.filter (fun p => p.1 != k)
  s.setArray a (if x.busy then { x with heldBypass := rest ++ [(k, v)] } else { x.setBypass k v with heldBypass := rest })

/-- WV_CFG_WRITE (R148, R162): held while the array has a tile in flight or assigned. -/
def execWvCfgWrite (a : Nat) (v : Word) (s : State) : Out := when (s.windowOpen 1 && a < 32) s (writeWvCfg s a v)

/-- WV_COL_BYPASS_WRITE (R146, R148). -/
def execWvColBypassWrite (a k : Nat) (v : Word) (s : State) : Out := when (s.windowOpen 1 && a < 32 && k < 4) s (writeWvBypass s a k v)

/-- HELD_ARRAY_WRITE_APPLY (R29, R148): the array has no tile in flight or assigned any more. -/
def execHeldArrayWriteApply (a : Nat) (s : State) : Out :=
  let x := s.array a
  let y := match x.heldCfg with | some v => { x.configure v.toNat with heldCfg := none } | none => x
  let y := { y.heldBypass.foldl (fun (z : Arr) p => z.setBypass p.1 p.2) y with heldBypass := [] }
  when (s.clocked && a < 32 && !x.busy) s (s.setArray a y)

/-- R165: a write of WV_BIST. -/
def writeWvBist (s : State) (a : Nat) (v : Word) : State :=
  let x := s.array a
  let x := { x with bistRefused := x.bistRefused && !bit v.toNat 2 }
  s.setArray a (
    if !bit v.toNat 0 then x
    else if x.online || x.busy then { x with bistRefused := true }
    else if x.offline then { x with bistRunning := true, bistDone := false }
    else x)

/-- WV_BIST_RUN (R165): a write of 1 to run. -/
def execWvBistRun (a : Nat) (v : Word) (s : State) : Out := when (s.windowOpen 1 && a < 32 && bit v.toNat 0) s (writeWvBist s a v)

/-- BIST_DONE (R165): the test has ended; WV_COL_BYPASS is unchanged. -/
def execBistDone (a : Nat) (failed : BitVec 128) (s : State) : Out :=
  let x := s.array a
  when (s.clocked && a < 32 && x.bistRunning) s
    (s.setArray a { x with bistRunning := false, bistDone := true, bistFail := failed })

/-! ### Re-forming (R137, R138) -/

/-- ARRAY_REFORM (R137): no tile in flight, no live result, an empty latch; with form_lock, only into the form of WV_CFG. -/
def execArrayReform (a form : Nat) (s : State) : Out :=
  let x := s.array a
  when (s.clocked && a < 32 && form < 3 && !x.busy && x.reforming.isNone && x.current != form && (!x.formLock || x.form == form)) s
    (s.setArray a { x with reforming := some form })

/-- REFORM_DONE (R137): both tiles read +0 afterwards. -/
def execReformDone (a : Nat) (s : State) : Out :=
  let x := s.array a
  match x.reforming with
  | some f => when (s.clocked && a < 32) s (s.setArray a { x with reforming := none, current := f, acc0 := none, acc1 := none })
  | none => .next s

/-! ### The words of the registers -/

/-- R163: WV_PRESENT. -/
def wvPresentWord (x : Arr) : Nat :=
  x.width x.current + x.current * 2 ^ 12 + min 7 x.bypassed * 2 ^ 16 + b2n x.held * 2 ^ 20 +
  x.offlineReason * 2 ^ 24 + b2n x.online * 2 ^ 31

/-- R164: WV_STATUS. -/
def wvStatusWord (x : Arr) : Nat :=
  x.lastFault + b2n x.reforming.isSome * 2 ^ 20 + b2n x.latch.isSome * 2 ^ 21 + b2n x.acc0.isSome * 2 ^ 22 + b2n x.acc1.isSome * 2 ^ 23 +
  x.faultCount * 2 ^ 28

/-- R162: WV_CFG. -/
def wvCfgWord (x : Arr) : Nat := x.form + b2n x.formLock * 2 ^ 4 + b2n x.offline * 2 ^ 8

/-- R161: WV_ONLINE_MAP. -/
def onlineMap (s : State) : Nat := sumNat ((List.range 32).map (fun a => if (s.array a).online then 2 ^ a else 0))

/-- The online arrays, ascending. -/
def onlineArrays (s : State) : List Nat := (List.range 32).filter (fun a => (s.array a).online)

end Sys2Proof.Machine
end

