-- ==== Sys2Proof/Machine/Measure.lean ====
section
/-! DEFINITION. What Tally measures (chapter 13): gathering into slots, the window maximum, the update point of the scale controller,
the LFSR of the tagging and the trace record. -/

namespace Sys2Proof.Machine

/-- A 32-bit two's complement register value. -/
def sNat (n : Nat) : Int := if n < 2 ^ 31 then (n : Int) else (n : Int) - 2 ^ 32

/-! ### Gathering (R468 to R470) -/

/-- R469: the bin of a nonzero finite value. -/
def binOf (histBase : Int) (v : Word) : Nat :=
  let e := (fpVal v).log2
  if e < histBase then 0 else if e ≤ histBase + 61 then (e - histBase + 1).toNat else 63

/-- R469: one gathered value in the counts of a slot. -/
def countValue (histBase : Int) (x : Slot) (v : Word) : Slot :=
  let x := { x with total := satAdd (2 ^ 64 - 1) x.total 1 }
  let f := Fmt.binary32.decode v.toNat
  if !f.isFinite then { x with nonfinite := satAdd 0xFFFFFFFF x.nonfinite 1 }
  else if f.isZero then { x with zero := satAdd 0xFFFFFFFF x.zero 1 }
  else { x with bins := tmod 0 x.bins (binOf histBase v) (fun n => satAdd 0xFFFFFFFF n 1) }

/-- The magnitude of a value as a pattern; patterns of magnitudes are ordered as their values. -/
def magnitude (v : Word) : Nat := v.toNat % 2 ^ 31

/-- R470: one value in the window maximum of a command. -/
def Gather.value (g : Gather) (v : Word) : Gather :=
  let f := Fmt.binary32.decode v.toNat
  if f.isInf then { g with infinite := true, nonfinite := true }
  else if f.isNan then { g with nonfinite := true }
  else
    let a := (fMul .binary32 .rne (magnitude v) g.scale.toNat).1
    if g.window.toNat < a then { g with window := wd a, anyFinite := true } else { g with anyFinite := true }

/-- The gather of a slot that a command holds, as of its first value. -/
def gatherOf (c : Cmd) (slot : Nat) (scale : Word) : Gather :=
  (c.gathers.find? (fun g => g.slot == slot)).getD { slot := slot, scale := scale }

/-- Values written under a slot (R468), widened exactly to FP32, with the flags their conversion raised; `conv` when the format is an
8-bit one that they were converted into (R474). -/
def gather (s : State) (id slot : Nat) (scale : Word) (fmt : Nat) (conv : Bool) (vals : List Word) (f : Sticky) : State :=
  let s := raiseSlotFlags s slot f
  if slot = 0 || vals.isEmpty then s else
  let hb := sNat s.active.histBase
  let s := s.setSlot slot (vals.foldl (countValue hb) (s.slot slot))
  s.mapCmd id (fun c =>
    let g := vals.foldl Gather.value (gatherOf c slot scale)
    let g := { g with clipped := g.clipped || f.sat || f.ovf, conv8 := if conv then some fmt else g.conv8, fmt := fmt }
    { c with gathers := c.gathers.filter (fun g => g.slot != slot) ++ [g] })

/-! ### The update point (R474) -/

/-- The pattern of 2^k. -/
def pow2Word (k : Int) : Word := wd ((k + 127).toNat * 2 ^ 23)

/-- R474, step 3: the clamp to 2^-64 .. 2^64. -/
def clampScale (w : Word) : Word :=
  if w.toNat < (pow2Word (-64)).toNat then pow2Word (-64)
  else if (pow2Word 64).toNat < w.toNat then pow2Word 64 else w

/-- The exponent of the smallest power of two at or above a positive ratio. -/
def ceilLog2 (a b : Dy) : Int :=
  let k := a.log2 - b.log2
  if a.le (b.scale (k - 1)) then k - 1 else if a.le (b.scale k) then k else k + 1

/-- An entry added to the history, with the oldest dropped beyond the window (R474). -/
def pushHistory (h : List Word) (a : Word) (window : Nat) : List Word :=
  let h := h ++ [a]
  if window < h.length then h.drop 1 else h

def largest (h : List Word) : Word := h.foldl (fun m a => if m.toNat < a.toNat then a else m) 0#32

/-- R474, with f_max of the 8-bit format `fmt` (log 142). A window maximum whose product with the scale overflowed is infinite, and its
scale clamps to 2^64. -/
def updatePoint (cfg : CfgSet) (x : Slot) (g : Gather) (fmt : Nat) : Slot :=
  if cfg.scEnable = 0 || x.hold then x else
  let fmax : Dy := if fmt = 0 then ⟨480, 0⟩ else ⟨57344, 0⟩
  if g.clipped || g.nonfinite then
    let h := if g.anyFinite && finiteWord g.window then pushHistory x.history g.window cfg.scWindow else x.history
    { x with history := h, scale := clampScale (wd (fMul .binary32 .rne x.scale.toNat 0x40800000).1) }
  else
    let h := pushHistory x.history g.window cfg.scWindow
    let r := largest h
    if r = 0#32 then { x with history := h }
    else if !finiteWord r then { x with history := h, scale := pow2Word 64 }
    else
      let k := ceilLog2 (fpVal r) (fmax.scale (-(cfg.scMargin : Int)))
      { x with history := h, scale := pow2Word (max (-64) (min 64 k)) }

/-- The scale controller acts at an update point of a slot (R474). -/
def scaleUpdates (cfg : CfgSet) (x : Slot) (g : Gather) : Bool := g.conv8.isSome && cfg.scEnable != 0 && !x.hold

/-- R470, R474: what the retirement of a command does to one of its slots. -/
def retireGather (s : State) (g : Gather) : State :=
  let x := s.slot g.slot
  let m := if g.infinite then 0x7F800000#32 else if x.maximum.toNat < g.window.toNat then g.window else x.maximum
  let x := { x with maximum := m, format := g.fmt }
  (noteEvent s 0x60 g.slot (b2n (scaleUpdates s.active x g))).setSlot g.slot
    (match g.conv8 with | some f => updatePoint s.active x g f | none => x)

/-! ### Tagging (R484, R485) -/

/-- R484: one step of the LFSR of x^32 + x^22 + x^2 + x + 1, in one of the four standard forms (log 27). -/
def lfsrStep (form x : Nat) : Nat :=
  match form % 4 with
  | 0 => (x * 2 + b2n (bit x 31 ^^ bit x 21 ^^ bit x 1 ^^ bit x 0)) % 2 ^ 32
  | 1 => x / 2 + b2n (bit x 0 ^^ bit x 10 ^^ bit x 30 ^^ bit x 31) * 2 ^ 31
  | 2 => (x * 2 % 2 ^ 32) ^^^ (if bit x 31 then 0x00400007 else 0)
  | _ => (x / 2) ^^^ (if bit x 0 then 0xE0000200 else 0)

/-- Commands in flight that are tagged (R489). -/
def taggedInflight (s : State) : Nat := (s.cp.table.filter (·.tagged)).length

/-- R484, R485: what the acceptance of a command does to the tagging: the LFSR's step, and whether the command is tagged. -/
def tagAccepted (s : State) (forced : Bool) : State × Bool :=
  let s := if s.tl.tagEnable then { s with tl := { s.tl with lfsr := lfsrStep Config.lfsrForm s.tl.lfsr } } else s
  let chosen := forced || (s.tl.tagEnable && s.tl.lfsr % 2 ^ s.tl.tagRate == 0)
  if !chosen then (s, false)
  else if taggedInflight s < 16 then (s, true)
  else ({ s with tl := { s.tl with tagSkipped := satAdd 0xFF s.tl.tagSkipped 1 } }, false)

/-- R485: the trace record of a retiring command. -/
def traceRecord (c : Cmd) (st : Status) (now : Nat) : List Word :=
  [wd (c.name + c.queue * 2 ^ 8 + 2 ^ 16 + b2n c.forced * 2 ^ 17), wd (c.tag + st.code * 2 ^ 16), wd (c.tAccept / 2 ^ 32),
   wd c.tAccept, wd c.tRelease, wd c.tStart, wd c.tFirst, wd c.tLast, wd c.tDecided, wd now, wd st.count, wd c.stalls, wd c.misses,
   0#32, 0#32, 0#32]

def writeTrace (s : State) (c : Cmd) (st : Status) : State :=
  if !c.tagged then s else
  { s with
    tl := { s.tl with
      trace := tset [] s.tl.trace (s.tl.traceHead % 64) (traceRecord c st s.cp.time),
      traceHead := (s.tl.traceHead + 1) % 65536 } }

end Sys2Proof.Machine
end

