-- ==== Sys2Proof/Machine/Packet.lean ====
section
/-! DEFINITION. The packet: opcodes (R73), the layouts of R57 and R74 to R82 as masks and references, and the issue-time checks of R86. -/

namespace Sys2Proof.Machine

namespace Op
abbrev nop : Nat := 0x01
abbrev fence : Nat := 0x02
abbrev signal : Nat := 0x03
abbrev wait : Nat := 0x04
abbrev gemm : Nat := 0x10
abbrev gemm2 : Nat := 0x11
abbrev convert : Nat := 0x12
abbrev rowstat : Nat := 0x13
abbrev softmax : Nat := 0x14
abbrev attnFwd : Nat := 0x20
abbrev attnBwd : Nat := 0x21
abbrev attnDecode : Nat := 0x22
abbrev scanFwd : Nat := 0x24
abbrev scanBwd : Nat := 0x25
abbrev seqOpen : Nat := 0x30
abbrev seqClose : Nat := 0x31
abbrev kvAppend : Nat := 0x32
abbrev kvFork : Nat := 0x33
abbrev kvTrim : Nat := 0x34
abbrev kvEvict : Nat := 0x35
abbrev kvPin : Nat := 0x36
abbrev xlMap : Nat := 0x40
abbrev xlInval : Nat := 0x41
abbrev winOpen : Nat := 0x42
abbrev winClose : Nat := 0x43
abbrev ringSweep : Nat := 0x50
abbrev allreduce : Nat := 0x51
abbrev allreduceV : Nat := 0x52
abbrev put : Nat := 0x53
abbrev get : Nat := 0x54
abbrev cfgWriteShadow : Nat := 0x60
abbrev cfgSwap : Nat := 0x61
abbrev tallySnap : Nat := 0x62
abbrev scaleUpdate : Nat := 0x63
abbrev checkpoint : Nat := 0x70
abbrev adopt : Nat := 0x71
abbrev replay : Nat := 0x72
abbrev engineReset : Nat := 0x7E
abbrev queueAbort : Nat := 0x7F
end Op

/-- The opcodes of R73. -/
def opcodes : List Nat :=
  [0x01, 0x02, 0x03, 0x04, 0x10, 0x11, 0x12, 0x13, 0x14, 0x20, 0x21, 0x22, 0x24, 0x25, 0x30, 0x31, 0x32, 0x33, 0x34, 0x35, 0x36,
   0x40, 0x41, 0x42, 0x43, 0x50, 0x51, 0x52, 0x53, 0x54, 0x60, 0x61, 0x62, 0x63, 0x70, 0x71, 0x72, 0x7E, 0x7F]

/-- The barrier column of R73 (R69). -/
def barrierOp (op : Nat) : Bool :=
  op == 0x02 || (0x30 ≤ op && op ≤ 0x36) || (0x40 ≤ op && op ≤ 0x43) || (0x60 ≤ op && op ≤ 0x63) || (0x70 ≤ op && op ≤ 0x72) ||
  op == 0x7E || op == 0x7F

/-- The privileged column of R73. -/
def privilegedOp (op : Nat) : Bool :=
  op == 0x40 || op == 0x41 || op == 0x60 || op == 0x61 || (0x70 ≤ op && op ≤ 0x72) || op == 0x7E || op == 0x7F

/-- A product, attention or scan command: one that names a plan step (R62). -/
def stepOp (op : Nat) : Bool := (0x10 ≤ op && op ≤ 0x25) || op == 0x50

/-- Words 2 to 15 of a layout: the bits that are not reserved (R74 to R82, R567, R568). -/
def usedBits (op : Nat) (coil : Bool) : List Nat :=
  let m := 0xFFFFFFFF
  let h := 0xFFFFF
  match op with
  | 0x02 => [3]
  | 0x03 => [0x3FFF, 0xFFFF]
  | 0x04 => [0x8FFF8FFF, 0x8FFF8FFF]
  | 0x10 => [m, h, m, m, m, m, m, m, m, 0xFFFFFF, 0xFFFF, m, m, 3]
  | 0x11 => [m, h, m, m, m, m, m, m, m, m, m, m, 0xFFFF, 3]
  | 0x12 => [m, h, m, m, m, m, 0, 0, m, 0x7FFFF]
  | 0x13 => [m, h, m, m, m, m, 0, 0, m, 0x3FFFF]
  | 0x14 => [m, h, m, m, m, m, m, m, m, 0xFFFF]
  | 0x20 => if coil then [m, h, m, m, h, 0, 0, 0, m, m, m, h, 0xFFFF, 3] else [m, h, m, m, m, m, m, m, m, m, m, h, m, 3]
  | 0x21 => [m, h, m, m, m, m, m, m, m, m, m, h, m, 2]
  | 0x22 => [m, h, m, m, m, h, 0, 0, m, m, m, h, m]
  | 0x24 | 0x25 => [m, h, m, m, m, m, m, m, m, m, m, h, 0xFFFF]
  | 0x30 => [h, 0xFFF, m]
  | 0x31 => [h]
  | 0x32 => [h, 0xFFFF, m, m, m, m]
  | 0x33 => [h, h, m]
  | 0x34 => [h, m]
  | 0x35 => [h, m, m, 1]
  | 0x36 => [h, 1]
  | 0x40 => [0x3F3F, m, h, m, h, m, h]
  | 0x41 => [0x3F, m, h, m, h]
  | 0x42 => [0xFFF, m, h, m, h, 0x1FFFF]
  | 0x43 => [0xFFF]
  | 0x50 => [m, h, m, m, m, m, m, m, m, m, m, h, m, 0x3FF]
  | 0x51 => [m, h, m, 0xFFF]
  | 0x52 => [m, h, m, h, 0xFFF]
  | 0x53 | 0x54 => [0xFFFFFFF, m, h, m, h, m]
  | 0x60 => [0xFFFF, m, 0xFFFF, m, 0xFFFF, m, 0xFFFF, m, 0xFFFF, m, 0xFFFF, m, 0xFFFF, m]
  | 0x62 => [m, h, 0xFF00FF, 1]
  | 0x63 => [0x1FF, m, 0x1FF, m, 0x1FF, m, 0x1FF, m, 0x1FF, m, 0x1FF, m]
  | 0x70 => [m, h, 0xF]
  | 0x71 => [0xFFFF, m, h]
  | 0x72 => [0xFF, 0xFFFF]
  | 0x7E => [1]
  | 0x7F => [0xFF]
  | _ => []

/-- The positions of a tensor reference, for the legal formats of R61. -/
inductive Place where
  | input | right | output | convert | statistic | source
  deriving DecidableEq, Repr

/-- The tensor references of a packet: first word, place, and whether "not present" is allowed (R75, R77, R79). -/
def refsOf (c : Cmd) : List (Nat × Place × Bool) :=
  match c.opcode with
  | 0x10 => [(4, .input, false), (6, .right, false), (8, .output, false), (13, .output, true)]
  | 0x11 => [(4, .input, false), (6, .right, false), (8, .right, false), (12, .output, false)]
  | 0x12 => [(4, .convert, false), (6, .convert, false)]
  | 0x13 => [(4, .source, false), (6, .statistic, false)]
  | 0x14 => [(4, .source, false), (6, .output, false), (8, .statistic, true)]
  | 0x20 => if bit (c.word 15) 0 then [(4, .input, false), (10, .output, false)]
      else [(4, .input, false), (6, .input, false), (8, .input, false), (10, .output, false)]
  | 0x21 | 0x25 => [(4, .input, false), (6, .input, false), (8, .input, false), (10, .input, false)]
  | 0x22 => [(4, .input, false), (10, .output, false)]
  | 0x24 => [(4, .input, false), (6, .input, false), (8, .input, false), (10, .output, false)]
  | 0x32 => [(4, .input, false), (6, .input, false)]
  | 0x50 => [(4, .input, false), (6, .input, false), (8, .input, false),
      (10, if bit (c.word 15) 8 then .input else .output, false)]
  | _ => []

/-- R61, R124: the formats that are legal in a place. FP32 inputs go with prec 1 or 2. -/
def Place.legal (p : Place) (prec fmt : Nat) : Bool :=
  match p with
  | .input => fmt ≤ 2 || (fmt == 3 && prec != 0)
  | .right => fmt ≤ 2 || fmt == 4 || (fmt == 3 && prec != 0)
  | .output | .source => fmt ≤ 3
  | .convert => fmt ≤ 3 || fmt == 5
  | .statistic => fmt == 3

/-- R106: INT4 counts as E4M3. -/
def pairOk (a b : Nat) : Bool :=
  let x := if a = 4 then 0 else a
  let y := if b = 4 then 0 else b
  (x ≤ 1 && y ≤ 1) || (x == y && (x == 2 || x == 3))

/-- The operand pairs of one product that the packet alone fixes (R106). -/
def pairsOf (c : Cmd) : List (Nat × Nat) :=
  match c.opcode with
  | 0x10 | 0x11 => [(4, 6)]
  | 0x20 => if bit (c.word 15) 0 then [] else [(4, 6)]
  | 0x24 => [(4, 6)]
  | 0x21 | 0x25 => [(4, 6), (8, 10)]
  | 0x50 => if bit (c.word 15) 8 then [(4, 6), (8, 10)] else [(4, 6)]
  | _ => []

def Cmd.prec (c : Cmd) : Nat := if c.opcode = 0x10 || c.opcode = 0x11 then fld (c.word 15) 1 0 else 0

/-- Check 2: reserved bits; an optional reference that is not present has all of its bits zero (R60, log 30). One that is required and
zero fails check 7 (R567). -/
def reservedBad (c : Cmd) : Bool :=
  bit (c.word 0) 14 || bit (c.word 0) 15 || fld (c.word 1) 15 13 != 0 || fld (c.word 1) 31 29 != 0 ||
  (List.range 14).any (fun i => c.word (i + 2) ||| (usedBits c.opcode (bit (c.word 15) 0)).getD i 0 !=
    (usedBits c.opcode (bit (c.word 15) 0)).getD i 0) ||
  (refsOf c).any (fun r => r.2.2 && (c.ref r.1).addr == 0 && c.word (r.1 + 1) != 0)

/-- Check 6. -/
def formatsBad (c : Cmd) : Bool :=
  let prec := c.prec
  ((c.opcode == 0x10 || c.opcode == 0x11) &&
    (prec == 3 || ((prec != 0) != ((c.ref 4).fmt == 3 && (c.ref 6).fmt == 3)))) ||
  (refsOf c).any (fun r => (c.ref r.1).addr != 0 && !r.2.1.legal prec (c.ref r.1).fmt) ||
  (pairsOf c).any (fun p => (c.ref p.1).addr != 0 && (c.ref p.2).addr != 0 && !pairOk (c.ref p.1).fmt (c.ref p.2).fmt) ||
  (c.opcode == 0x30 && 2 < fld (c.word 3) 11 8)

/-- The plain addresses of a packet (R567): first word, alignment, and whether it must be nonzero. -/
def plainOf (op : Nat) : List (Nat × Nat × Bool) :=
  match op with
  | 0x20 | 0x21 | 0x24 | 0x25 | 0x50 => [(12, 64, true)]
  | 0x22 => [(12, 64, true), (6, 4, true)]
  | 0x40 => [(3, 4096, false), (5, 4096, false)]
  | 0x41 | 0x42 => [(3, 4096, false)]
  | 0x51 => [(2, 1, true)]
  | 0x52 => [(2, 1, true), (4, 1, true)]
  | 0x53 | 0x54 => [(3, 1, true), (5, 64, false)]
  | 0x62 => [(2, 64, true)]
  | 0x70 => [(2, 4096, true)]
  | 0x71 => [(3, 1, true)]
  | _ => []

/-- Check 7 (R60, R62, R78, R80, R81, R473, R526, R567). -/
def addressBad (c : Cmd) : Bool :=
  (stepOp c.opcode && c.addr 2 % 256 != 0) ||
  (refsOf c).any (fun r => (c.ref r.1).addr % 64 != 0 || ((c.ref r.1).addr == 0 && !r.2.2)) ||
  (plainOf c.opcode).any (fun p => c.addr p.1 % p.2.1 != 0 || (p.2.2 && c.addr p.1 == 0))

/-- Check 8 (R74, R76, R80, R81, R262, R268, R328, R415, R473, R568; log 31 for op 3 of SIGNAL and unlisted compression codes). -/
def countsBad (c : Cmd) : Bool :=
  let lo (i : Nat) := fld (c.word i) 15 0
  let hi (i : Nat) := fld (c.word i) 31 16
  match c.opcode with
  | 0x03 => fld (c.word 2) 13 12 == 3
  | 0x10 => lo 10 == 0 || hi 10 == 0 || lo 12 == 0 || c.word 11 == 0 || c.word 11 % 32 != 0
  | 0x11 => lo 10 == 0 || hi 10 == 0 || lo 11 == 0 || lo 14 == 0 || hi 11 == 0 || hi 11 % 32 != 0
  | 0x12 => c.word 10 == 0 || lo 11 == 0 || 1 < fld (c.word 11) 17 16
  | 0x13 => c.word 10 == 0 || lo 11 == 0 || fld (c.word 11) 17 16 == 3
  | 0x14 => c.word 10 == 0 || lo 11 == 0
  | 0x20 => lo 14 == 0 || (!bit (c.word 15) 0 && hi 14 == 0)
  | 0x21 | 0x50 => lo 14 == 0 || hi 14 == 0
  | 0x22 => lo 14 == 0 || 64 < lo 14 || hi 14 == 0
  | 0x24 | 0x25 => lo 14 == 0
  | 0x30 => fld (c.word 3) 7 0 == 0
  | 0x32 => lo 3 == 0
  | 0x35 => c.word 4 == 0
  | 0x40 => 1 < fld (c.word 2) 13 12 || c.addr 7 % 4096 != 0 || (fld (c.word 2) 13 12 == 1 && c.addr 7 != 0)
  | 0x41 | 0x42 => c.addr 5 % 4096 != 0 || c.addr 5 == 0
  | 0x51 => 2 < fld (c.word 5) 11 8
  | 0x52 => 2 < fld (c.word 6) 11 8
  | 0x53 | 0x54 => c.word 7 % 64 != 0
  | 0x62 => fld (c.word 4) 23 16 == 0 || 256 < fld (c.word 4) 7 0 + fld (c.word 4) 23 16
  | _ => false

/-- R86: the detail of the first check that fails, or none. Every index field is as wide as its range, so check 5 can fail only for
a QUEUE_ABORT of its own queue. -/
def issueCheck (cfg : QCfg) (c : Cmd) : Option Nat :=
  if !opcodes.contains c.opcode then some 0x0001
  else if reservedBad c then some 0x0002
  else if privilegedOp c.opcode && !cfg.priv then some 0x0008
  else if c.service && !cfg.serviceOk then some 0x0007
  else if c.opcode == 0x7F && fld (c.word 2) 7 0 == c.queue then some 0x0006
  else if formatsBad c then some 0x0003
  else if addressBad c then some 0x0005
  else if countsBad c then some 0x0004
  else none

end Sys2Proof.Machine
end

