-- ==== Sys2Proof/Machine/Translate.lean ====
section
/-! DEFINITION. Splint's translation (R386 to R404): TLBs, segments, the walk of the host tables with their mirrors, and misses. -/

namespace Sys2Proof.Machine

/-- R390: the segment of a context that covers an address. -/
def segmentOf (sp : Splint) (ctx va : Nat) : Option Segment :=
  (List.range 16).findSome? (fun i =>
    match tget none sp.segments (ctx * 16 + i) with
    | some g => if g.vbase ≤ va && va < g.vbase + g.length then some g else none
    | none => none)

def rootOf (sp : Splint) (ctx : Nat) : Option Nat := tget none sp.roots ctx

/-- R387: the entries of an agent's TLB. -/
def tlbSize (agent : Nat) : Nat := if agent < 64 then 512 else if agent = 64 then 64 else 256

def tlbLookup (sp : Splint) (agent ctx vpn : Nat) (write : Bool) : Option TlbEntry :=
  (tget [] sp.tlbs agent).find? (fun e => e.ctx == ctx && e.vpn == vpn && (!write || e.writable))

/-- R388: installs a resolved translation; the entry that a full TLB loses is the oldest (log 20: affects only timing). -/
def tlbInstall (sp : Splint) (agent : Nat) (e : TlbEntry) : Splint :=
  let old := (tget [] sp.tlbs agent).filter (fun x => !(x.ctx == e.ctx && x.vpn == e.vpn))
  { sp with tlbs := tset [] sp.tlbs agent ((e :: old).take (tlbSize agent)) }

/-- Drops TLB entries of a context in every agent. -/
def tlbDrop (sp : Splint) (f : TlbEntry → Bool) : Splint :=
  { sp with tlbs := (sp.tlbs.map (fun p => (p.1, p.2.filter (fun e => !f e)))).filter (fun p => p.2 != []) }

/-! ### Host tables -/

/-- The nonzero entries of the table page at a host physical address. -/
def tablePage (m : Memory) (hpa : Nat) : List (Nat × Nat) :=
  let lo := hostBase + hpa
  (distinct ((m.cells.filter (fun c => lo ≤ c.1 && c.1 < lo + 4096)).map (fun c => (c.1 - lo) / 8))).map
    (fun i => (i, m.readNat (lo + 8 * i) 8))

/-- The table mirror slot for a page that has none: a free choice, among the unused ones while there are any (R397, log 20). -/
def mirrorPlace (s : State) : Nat :=
  let pick := Config.mirrorSlot s.free % 8192
  let used := s.sp.mirrors.map (·.slot)
  if used.contains pick then ((List.range 8192).find? (fun i => !used.contains i)).getD pick else pick

/-- Mirrors a table page (R396): its copy, in its slot of the mirror area, is the current content. -/
def mirrorTable (s : State) (ctx hpa lo size : Nat) : State :=
  let old := s.sp.mirrors.find? (fun x => x.ctx == ctx && x.table == hpa && x.lo == lo)
  let slot := (old.map (·.slot)).getD (mirrorPlace s)
  let mr : Mirror := ⟨slot, ctx, hpa, lo, lo + size, tablePage s.mem hpa⟩
  let at_ := s.sp.mirrorBase + 4096 * slot
  { s with
    sp := { s.sp with mirrors := mr :: s.sp.mirrors.filter (fun x => x.slot != slot) }, free := s.free + 1,
    mem := mr.entries.foldl (fun (m : Memory) e => m.writeBytes (at_ + 8 * e.1) (wordBytes [wd e.2, wd (e.2 / 2 ^ 32)])) (s.mem.zero at_ (at_ + 4096)) }

/-- One table entry (R388 step 3, R397) of the table that serves `size` bytes from `lo`: from the mirror when the page is mirrored,
otherwise from host memory, which mirrors it. A walk after an answer (`fresh`) reads again an entry that would be a miss. -/
def tableEntry (s : State) (ctx hpa lo size idx : Nat) (fresh : Bool) (good : Nat → Bool) : State × Nat :=
  let fromHost (s : State) : State × Nat :=
    let s := mirrorTable s ctx hpa lo size
    (s, s.mem.readNat (hostBase + hpa + 8 * idx) 8)
  match s.sp.mirrors.find? (fun x => x.ctx == ctx && x.table == hpa && x.lo == lo) with
  | some mr => let e := tget 0 mr.entries idx
    if fresh && !good e then fromHost s else (s, e)
  | none => fromHost s

/-- What a walk finds: a page with its permission, or the reason of a miss (R399) and whether it sets bad_entry (R393). -/
inductive Walk where
  | page (pa : Nat) (writable : Bool)
  | miss (reason : Nat) (bad : Bool)
  deriving DecidableEq, Repr

def frameOf (e : Nat) : Nat := fld e 50 12 * 4096

/-- R393: a device frame lies in the stacks, or in stake outside the reduction buffer and the Coil region. -/
def devicePageOk (pa : Nat) : Bool :=
  match regionOf pa with
  | .stack => true
  | .stake => !inReduce pa && !inCoil pa
  | _ => false

/-- R393: what an L1 entry gives. -/
def leafEntry (e : Nat) (write : Bool) : Walk :=
  let bad := bit e 3 && !devicePageOk (frameOf e)
  if !bit e 0 then .miss 0 false
  else if bit e 4 then .miss 2 bad
  else if bad then .miss 0 true
  else if write && !bit e 1 then .miss 1 false
  else .page (if bit e 3 then frameOf e else hostBase + frameOf e) (bit e 1)

/-- R391, R393: the walk of the four levels. -/
def walk (s : State) (ctx root va : Nat) (write fresh : Bool) : State × Walk :=
  let up (large : Bool) (e : Nat) : Bool := bit e 0 && !(large && bit e 2)
  let (s, e4) := tableEntry s ctx root 0 (2 ^ 47) (fld va 46 39) fresh (up false)
  if !up false e4 then (s, .miss 0 false) else
  let (s, e3) := tableEntry s ctx (frameOf e4) (va / 2 ^ 39 * 2 ^ 39) (2 ^ 39) (fld va 38 30) fresh (up true)
  if !up true e3 then (s, .miss 0 (bit e3 0 && bit e3 2)) else
  let (s, e2) := tableEntry s ctx (frameOf e3) (va / 2 ^ 30 * 2 ^ 30) (2 ^ 30) (fld va 29 21) fresh (up true)
  if !up true e2 then (s, .miss 0 (bit e2 0 && bit e2 2)) else
  let (s, e1) := tableEntry s ctx (frameOf e2) (va / 2 ^ 21 * 2 ^ 21) (2 ^ 21) (fld va 20 12) fresh
    (fun e => match leafEntry e write with | .page .. => true | .miss .. => false)
  (s, leafEntry e1 write)

/-! ### Resolution -/

/-- What a lookup without a miss gives: an address, the reason of the miss, a fault (R416), or a wait on the Handle port (R555). -/
inductive Found where
  | at (pa : Nat)
  | miss (reason : Nat)
  | fault
  | held
  deriving DecidableEq, Repr

/-- R388, steps 1 to 3: a lookup that installs what it resolves in the agent's TLB. -/
def resolve (s : State) (agent ctx va : Nat) (write fresh : Bool) : State × Found :=
  match tlbLookup s.sp agent ctx (va / 4096) write with
  | some e => (s, .at (e.ppn * 4096 + va % 4096))
  | none =>
    match segmentOf s.sp ctx va with
    | some g =>
      let pa := g.target + (va - g.vbase)
      ({ s with sp := tlbInstall s.sp agent ⟨ctx, va / 4096, pa / 4096, true, true⟩ }, .at pa)
    | none =>
      if !s.sp.ready then (s, .fault) else
      match rootOf s.sp ctx with
      | none => (s, .miss 0)
      | some root =>
        if va ≥ 2 ^ 47 then (s, .miss 0) else
        let r := walk s ctx root va write fresh
        if !handleUp s && r.1.sp.mirrors != s.sp.mirrors then (s, .held) else
        match r with
        | (s, .page pa w) =>
          ({ s with sp := tlbInstall s.sp agent ⟨ctx, va / 4096, pa / 4096, w, false⟩ }, .at (pa + va % 4096))
        | (s, .miss r bad) => (if bad then { s with sp := { s.sp with badEntry := true } } else s, .miss r)

/-! ### Misses -/

def outstanding (sp : Splint) : Nat := (sp.misses.filter (·.sent)).length

/-- R399: the miss record and its notification. -/
def sendMiss (s : State) (m : Miss) : State × Miss :=
  let seq := s.sp.nextSeq
  let w := m.waiters.headD {}
  let words : List Word :=
    [wd (seq + m.ctx * 2 ^ 16 + m.reason * 2 ^ 22 + b2n m.write * 2 ^ 24 + b2n (!bit seq 8) * 2 ^ 31),
     wd (w.agent + w.queue * 2 ^ 8 + w.tag * 2 ^ 16), wd (fld m.page 19 0 * 2 ^ 12), wd (fld m.page 39 20)]
  let s := hostWrite s (s.sp.missBase + seq % 256 * 16) words
  let s := { s with
    sp := { s.sp with nextSeq := (seq + 1) % 65536, timedOut := s.sp.timedOut.filter (fun t => t != seq) } }
  let s := hostMessage s [wd (0x02 + seq * 2 ^ 16), wd (outstanding s.sp + 1), wd (s.cp.time % 2 ^ 32), wd (s.cp.time / 2 ^ 32 % 2 ^ 15)]
  (noteEvent s 0x23 0 1, { m with seq := seq, sent := true, notified := s.cp.time })

/-- The same access, whatever its answers so far. -/
def Waiter.same (w x : Waiter) : Bool := { w with retries := 0 } == { x with retries := 0 }

/-- An access joins a request; the record that is sent says whether any of them writes (R399). -/
def Miss.join (m : Miss) (w : Waiter) : Miss :=
  if m.waiters.any w.same then m else { m with waiters := m.waiters ++ [w], write := m.write || w.write }

/-- R398: an access waits on the request of its page and reason, which is made when none is outstanding. -/
def waitOn (s : State) (ctx va reason : Nat) (w : Waiter) : State :=
  let same (m : Miss) : Bool := m.ctx == ctx && m.page == va / 4096 && m.reason == reason
  let s := match w.cmd with
    | some id => if s.sp.misses.any (fun m => same m && m.waiters.any w.same) then s
        else s.mapCmd id (fun c => { c with misses := c.misses + 1 })
    | none => s
  if s.sp.misses.any same then
    { s with sp := { s.sp with misses := s.sp.misses.map (fun m => if same m then m.join w else m) } }
  else
    let m : Miss := { ctx := ctx, page := va / 4096, reason := reason, write := w.write, waiters := [w] }
    if outstanding s.sp < 256 then
      let (s, m) := sendMiss s m
      { s with sp := { s.sp with misses := s.sp.misses ++ [m] } }
    else { s with sp := { s.sp with misses := s.sp.misses ++ [m] } }

/-- R398: a freed entry lets the oldest unsent request go. -/
def sendWaiting (s : State) : State :=
  match s.sp.misses.find? (fun m => !m.sent) with
  | some m =>
    if outstanding s.sp < 256 then
      let (s, m') := sendMiss s m
      { s with sp := { s.sp with misses := s.sp.misses.map (fun x => if x = m then m' else x) } }
    else s
  | none => s

/-- R53, R401, R404: what a fault, or the timeout, of a waiting access does. A probe that faults fails check 15 (R291) and leaves CP_QFAULT as
it was (DEDUCED, log 56). A packet fetch or a reply write halts the queue with tag 0. -/
def faultAccess (s : State) (w : Waiter) (code : Nat) : State :=
  let addrOf (s : State) : State := s.setQueue w.queue { s.queue w.queue with fault := w.va }
  match w.cmd with
  | some id =>
    if w.probe && code = St.xlateFault then verReject s id 0 w.word 0x010F
    else failCommand (if code = St.xlateFault then addrOf s else s) id code w.word
  | none =>
    let s := match w.reply with | some id => s.mapCmd id (fun c => { c with noReply := true }) | none => s
    let s := haltQueue (recordErr (addrOf s) w.queue code 0) w.queue
    completionMessage s w.queue

/-- What a translation gives: a device-physical address, or the access waits, or it has faulted (its consequences done). -/
inductive Xlate where
  | at (pa : Nat)
  | waits
  | faulted
  deriving DecidableEq, Repr

/-- R555: an access waits on the Handle port. -/
def holdOnHandle (s : State) (w : Waiter) : State :=
  match w.cmd with
  | some id => if s.hd.held.any (fun h => h.1 == id) then s
      else { s with hd := { s.hd with held := s.hd.held ++ [(id, s.cp.time, w.word)] } }
  | none => s

/-- An access misses in its agent's TLB, and has not waited on a request for that yet: 1, else 0 (R480). -/
def tlbMisses (s : State) (ctx : Nat) (w : Waiter) : Nat :=
  b2n ((tlbLookup s.sp w.agent ctx (w.va / 4096) w.write).isNone &&
    !s.sp.misses.any (fun m => m.ctx == ctx && m.page == w.va / 4096 && m.waiters.any w.same))

/-- R388: an agent translates an address for an access. An access to host memory waits while no Handle module is up (R555). -/
def translate (s : State) (ctx : Nat) (w : Waiter) : State × Xlate :=
  let n := tlbMisses s ctx w
  match resolve s w.agent ctx w.va w.write false with
  | (s, .at pa) =>
    let s := noteEvent s 0x22 w.agent n
    if regionOf pa = .host && !handleUp s then (holdOnHandle s w, .waits) else (s, .at pa)
  | (s, .held) => (holdOnHandle s w, .waits)
  | (s, .fault) => (faultAccess (noteEvent s 0x22 w.agent n) w St.xlateFault, .faulted)
  | (s, .miss r) => (waitOn (noteEvent s 0x22 w.agent n) ctx w.va r w, .waits)

/-- R366: a range translated page by page, up to the first page that does not resolve. -/
def translatePages (s : State) (ctx : Nat) (w : Waiter) : List (Nat × Nat) → State × Option (List (Nat × Nat)) × Xlate
  | [] => (s, some [], .at 0)
  | (va, n) :: t =>
    match translate s ctx { w with va := va } with
    | (s, .at pa) =>
      match translatePages s ctx w t with
      | (s, some ps, r) => (s, some ((pa, n) :: ps), r)
      | (s, none, r) => (s, none, r)
    | (s, r) => (s, none, r)

def translateRange (s : State) (ctx : Nat) (w : Waiter) (va n : Nat) : State × Option (List (Nat × Nat)) × Xlate :=
  translatePages s ctx w (pagesOf va n)

/-- The access of Plait (agent 64) for a command, with the packet word of its reference. -/
def plaitAccess (c : Cmd) (word va : Nat) (write : Bool) : Waiter :=
  { agent := 64, queue := c.queue, tag := c.tag, cmd := some c.id, va := va, write := write, word := word }

/-- The access of Hoop (agent 65) for a command. -/
def hoopAccess (c : Cmd) (word va : Nat) (write : Bool) : Waiter := { plaitAccess c word va write with agent := 65 }

def ctxOf (s : State) (c : Cmd) : Nat := (s.queue c.queue).cfg.xlCtx

/-- Plait reads bytes of a command's control data (R24): translated, checked, read; an uncorrectable line ends the command. -/
def plaitRead (s : State) (c : Cmd) (word va n : Nat) : State × Option (List Byte) :=
  match translateRange s (ctxOf s c) (plaitAccess c word va false) va n with
  | (s, some ps, _) =>
    match readMeets s ps with
    | (s, some pa) => (eccEnd s c.id pa, none)
    | (s, none) => (s, some (readPieces s.mem ps))
  | (s, none, _) => (s, none)

/-- Bytes as 32-bit words (R10). -/
def wordsOf (bs : List Byte) : List Word := (chunksOf 4 bs).map (fun b => wd (Memory.ofBytes b))

end Sys2Proof.Machine
end

