-- ==== Sys2Proof/Machine/Queues.lean ====
section
/-! DEFINITION. Plait's queues (chapter 02): doorbells, acceptance, the start of commands, retirement, the states of a queue, events and
the ordering commands. -/

namespace Sys2Proof.Machine

/-! ### Rings and doorbells (R42 to R44) -/

abbrev indexMod : Nat := 2 ^ 17

/-- R43: the distance from one ring index to a later one. -/
def ahead (tail head : Nat) : Nat := (tail + indexMod - head % indexMod) % indexMod

/-- R44: the doorbell error. -/
def doorbellError (s : State) (q : Nat) : State :=
  completionMessage (haltQueue (s.setQueue q { s.queue q with doorbellErr := true }) q) q

/-- R44: a doorbell acted on. -/
def ringDoorbell (s : State) (q v : Nat) : State :=
  let x := s.queue q
  if 2 ^ x.cfg.log2Size < ahead v x.head then doorbellError s q else s.setQueue q { x with doorbell := v }

/-- R492: a doorbell in Rest is stored and flagged; the value it replaces is kept until Plait acts on it. -/
def storeDoorbell (s : State) (q v : Nat) : State :=
  let x := s.queue q
  let s := s.setQueue q { x with doorbell := v, unread := true, held := if x.unread then x.held else some x.doorbell }
  raiseIrq { s with bd := { s.bd with doorbellHeld := true } } 8

/-- R492: Plait acts on a doorbell that was stored in Rest. -/
def actOnStored (s : State) (q : Nat) : State :=
  let x := s.queue q
  if x.unread then
    ringDoorbell (s.setQueue q { x with doorbell := x.held.getD 0, unread := false, held := none }) q x.doorbell
  else s

/-- Whether Border is in Rest or on its way there or to Park (R492). -/
def inRest (s : State) : Bool :=
  match s.bd.power with
  | .rest => true
  | .entering t => t != 1
  | _ => false

/-- R490, R491: a doorbell ends Idle, or cancels its entry. -/
def wakeFromIdle (s : State) : State :=
  match s.bd.power with
  | .idle | .entering 1 => { s with bd := { s.bd with power := .returning, waiting := s.bd.target != 0 } }
  | _ => s

/-- Whether the CP window takes writes (R548). -/
def cpOpen (s : State) : Bool := s.windowOpen 0

/-- DOORBELL (R44, R84, R490, R492). On the way back from Rest, it takes the place of one that is stored and not yet acted on. -/
def execDoorbell (q : Nat) (v : Word) (s : State) : Out :=
  let t := v.toNat % indexMod
  .next (
    if !cpOpen s then s
    else if inRest s then storeDoorbell s q t
    else if (s.queue q).unread && s.bd.power == .returning then s.setQueue q { s.queue q with doorbell := t }
    else if (s.queue q).st == .aborting then s.setQueue q { s.queue q with held := some t }
    else wakeFromIdle (ringDoorbell s q t))

/-! ### Acceptance (R45 to R48, R53) -/

/-- Whether an access of Plait for a queue waits on a translation miss, which blocks the queue (R398): of a packet, of a reply, or of what a
command reads as it starts. -/
def plaitWaits (s : State) (q : Nat) : Bool := s.sp.misses.any (fun m => m.waiters.any (fun w => w.queue == q && w.agent == 64))

/-- R46: whether a packet of a queue may be accepted. An engine whose Plait firmware is silent, or has ended a
command with INTERNAL, accepts none (R518). -/
def mayAccept (s : State) (q : Nat) : Bool :=
  let x := s.queue q
  let n := (s.ofQueue q).length
  !s.bd.plaitHung && !s.cp.internal && x.st == .running && x.head != x.doorbell && n < x.cfg.inflightM1 + 1 && s.cp.table.length < 512 &&
  ahead x.rwrite x.rread + n < 2 ^ x.cfg.log2Size && !plaitWaits s q

/-- R56: acceptance waits only for a free reply entry. -/
def replyStall (s : State) (q : Nat) : Bool :=
  let x := s.queue q
  let n := (s.ofQueue q).length
  x.st == .running && x.head != x.doorbell && n < x.cfg.inflightM1 + 1 && s.cp.table.length < 512 &&
  2 ^ x.cfg.log2Size ≤ ahead x.rwrite x.rread + n

/-- R48: among queues that satisfy `ok`, one of the highest level, in turn after the last one served at that level. -/
def arbitrate (s : State) (last : List Nat) (ok : Nat → Bool) : Option Nat :=
  ([3, 2, 1, 0] : List Nat).findSome? (fun level =>
    ((List.range 256).map (fun i => (last.getD level 0 + 1 + i) % 256)).find?
      (fun q => (s.queue q).cfg.prio == level && ok q))

/-- The queue served last at a level. -/
def served (last : List Nat) (level q : Nat) : List Nat := last.set level q

/-- R86, R484: a fetched packet enters the command table. -/
def acceptWords (s : State) (q : Nat) (ws : List Word) : State :=
  let x := s.queue q
  let id := s.cp.nextId
  let now := s.cp.time
  let c : Cmd := { id := id, queue := q, words := ws, tAccept := now, tRelease := now, tStart := now, tFirst := now, tLast := now,
                   tDecided := now, forced := bit (tw ws 0) 13 }
  let (s, tagged) := tagAccepted (noteEvent s 0x10 q 1) c.forced
  let s := s.setQueue q { x with head := (x.head + 1) % indexMod }
  let s := { s with cp := { s.cp with
    table := s.cp.table ++ [{ c with tagged := tagged, forced := tagged && c.forced }], nextId := id + 1,
    lastAccept := served s.cp.lastAccept x.cfg.prio q } }
  match issueCheck x.cfg c with
  | some d => decideStatus s id St.planRejected d c.soFar
  | none => s

/-- R53: a packet that cannot be fetched halts its queue. -/
def fetchFault (s : State) (q code : Nat) : State := completionMessage (haltQueue (recordErr s q code 0) q) q

/-- PACKET_ACCEPT (R46): the arbiter's queue has its next packet fetched through Plait's translation, checked and entered. -/
def execPacketAccept (s : State) : Out :=
  if !s.running then .next s else
  match arbitrate s s.cp.lastAccept (mayAccept s) with
  | none => .next s
  | some q =>
    let x := s.queue q
    let va := x.base + 64 * (x.head % 2 ^ x.cfg.log2Size)
    match translateRange s x.cfg.xlCtx { agent := 64, queue := q, va := va } va 64 with
    | (s, some ps, _) =>
      match readMeets s ps with
      | (s, some pa) => .next (fetchFault (recordUncorr s pa) q St.eccAbort)
      | (s, none) => .next (acceptWords s q (wordsOf (readPieces s.mem ps)))
    | (s, none, _) => .next s

/-! ### Start (R63, R68, R69, R315, R506) -/

/-- The next command of a queue to start. -/
def nextStart (s : State) (q : Nat) : Option Cmd := (s.ofQueue q).find? (fun c => !c.started && c.status.isNone)

def eventReady (s : State) (c : Cmd) : Bool := !c.waitEn || (s.event c.waitEvent).released

/-- R506: a CFG_SWAP that only earlier commands keep back holds every later command (log 35). -/
def swapHolds (s : State) (x c : Cmd) : Bool :=
  x.opcode == Op.cfgSwap && x.id < c.id && x.status.isNone && (s.queue x.queue).st == .running && eventReady s x

/-- R68: a command that Plait has taken up and that waits for a partition, Coil, a slot of the reduction buffer or a translation holds every
later command of its queue. A WAIT has started. -/
def Cmd.holdsQueue (c : Cmd) : Bool := (c.run == .waiting || c.run == .held) && c.status.isNone && c.opcode != Op.wait

/-- R68, R69, R315, R398, R506: whether a command can start. A miss of Plait's accesses for a queue blocks the queue. -/
def canStart (s : State) (c : Cmd) : Bool :=
  let earlier := (s.ofQueue c.queue).filter (fun x => x.id < c.id)
  s.running && !s.cp.flushBusy && (s.queue c.queue).st == .running && !plaitWaits s c.queue &&
  (earlier.isEmpty || !(c.serial || barrierOp c.opcode)) && !earlier.any (fun x => barrierOp x.name || x.holdsQueue) && eventReady s c &&
  (c.opcode != Op.cfgSwap || s.cp.table.all (fun x => c.id ≤ x.id)) && !s.cp.table.any (fun x => swapHolds s x c)

/-- R48: a queue of a higher level has a command that can start. -/
def outranked (s : State) (q : Nat) : Bool :=
  s.cp.table.any (fun x => (s.queue q).cfg.prio < (s.queue x.queue).cfg.prio && !x.started && x.status.isNone &&
    (nextStart s x.queue).map (·.id) == some x.id && canStart s x)

/-- The command of an opcode that a queue may start now, and that arbitration starts before those of other queues (R48). -/
def startable (s : State) (q op : Nat) : Option Cmd :=
  match nextStart s q with
  | some c => if c.opcode = op && canStart s c && !outranked s q then some c else none
  | none => none

/-- The times of R485 of a command that starts. -/
def Cmd.startedAt (c : Cmd) (now : Nat) : Cmd := { c with tStart := now, tFirst := now, tLast := now, tDecided := now }

/-- R485: when a command was released from its wait: as its event was, unless it came later itself. -/
def releaseTime (s : State) (c : Cmd) : Nat := if c.waitEn then max c.tAccept (tget 0 s.cp.releases c.waitEvent) else c.tAccept

/-- The entry of a command as it starts. -/
def begun (s : State) (c : Cmd) : Cmd := { (c.startedAt s.cp.time) with started := true, tRelease := releaseTime s c }

def begin_ (s : State) (c : Cmd) : State := s.mapCmd c.id (begun s)

/-- A row that starts a command: `f` is what the start does. -/
def startCmd (s : State) (q op : Nat) (f : State → Cmd → State) : Out :=
  match startable s q op with
  | some c => .next (f (begin_ s c) (begun s c))
  | none => .next s

/-- R48, R49, R52, R398: whether commands of a queue that are held at their start may start now. -/
def liftsHolds (s : State) (q : Nat) : Bool := s.running && (s.queue q).st == .running && !plaitWaits s q && !outranked s q

/-- The commands of a queue that wait, by opcode: started ones, and those held at their start where the queue may start commands. -/
def waitingOf (s : State) (q op : Nat) : List Cmd :=
  (s.ofQueue q).filter (fun c => c.started && c.status.isNone && c.opcode == op &&
    (c.run == .waiting || (c.run == .held && liftsHolds s q)))

/-- A row that starts a command, and otherwise looks again at those that wait. -/
def startOrPoll (s : State) (q op : Nat) (f : State → Cmd → State) : Out :=
  match startable s q op with
  | some c => .next (f (begin_ s c) (begun s c))
  | none => .next (if s.plaitUp then (waitingOf s q op).foldl f s else s)

/-- A started command waits; one whose status is decided is left alone. -/
def wait_ (s : State) (c : Cmd) : State := s.mapCmd c.id (fun c => if c.status.isNone then { c with run := .waiting } else c)

/-- A command is held at its start (R294, R335, R458). -/
def hold_ (s : State) (c : Cmd) : State := s.mapCmd c.id (fun c => if c.status.isNone then { c with run := .held } else c)

def succeed (s : State) (c : Cmd) : State := decideStatus s c.id St.ok 0 0

def reject (s : State) (c : Cmd) (detail : Nat) : State := failCommand s c.id St.planRejected detail

/-! ### The ordering commands (R74) -/

/-- NOP retires as soon as it starts. -/
def execNop (q : Nat) (s : State) : Out := startCmd s q Op.nop succeed

/-- FENCE waits, with all_queues, for every command accepted before it. Every write of the model is visible when made. -/
def fenceStep (s : State) (c : Cmd) : State :=
  if bit (c.word 2) 0 && s.cp.table.any (fun x => x.id < c.id) then wait_ s c else succeed s c

def execFence (q : Nat) (s : State) : Out := startOrPoll s q Op.fence fenceStep

/-- SIGNAL applies its operation to an event. -/
def signalStep (s : State) (c : Cmd) : State :=
  let e := fld (c.word 2) 11 0
  succeed (s.setEvent e ((s.event e).signal (fld (c.word 2) 13 12) (fld (c.word 3) 15 0))) c

def execSignal (q : Nat) (s : State) : Out := startCmd s q Op.signal signalStep

/-- WAIT retires when every enabled event is released at once. -/
def waitReady (s : State) (c : Cmd) : Bool :=
  ([2, 3] : List Nat).all (fun i =>
    (!bit (c.word i) 15 || (s.event (fld (c.word i) 11 0)).released) &&
    (!bit (c.word i) 31 || (s.event (fld (c.word i) 27 16)).released))

def waitStep (s : State) (c : Cmd) : State := if waitReady s c then succeed s c else wait_ s c

def execWaitEvents (q : Nat) (s : State) : Out := startOrPoll s q Op.wait waitStep

/-! ### Retirement (R53, R59, R64, R71, R88 to R93) -/

/-- R88: the words of a status reply. -/
def replyWords (c : Cmd) (st : Status) (log2Size index : Nat) : List Word :=
  [wd (c.tag + st.code * 2 ^ 16 + c.name * 2 ^ 24),
   wd (st.detail % 2 ^ 16 + fld c.tDecided 46 32 * 2 ^ 16 + b2n (!bit index log2Size) * 2 ^ 31), wd st.count, wd c.tDecided]

/-- R64: the signal event at retirement. -/
def signalAtEnd (s : State) (c : Cmd) (st : Status) : State :=
  if c.signalEn then s.setEvent c.signalEvent ((s.event c.signalEvent).retire (st.code ≤ 1)) else s

/-- R535: the sweep record of a ring is cleared when a RING_SWEEP or REPLAY of it retires with OK. -/
def clearRecord (s : State) (c : Cmd) (st : Status) : State :=
  if c.opcode = Op.ringSweep && st.code = 0 then
    { s with hp := { s.hp with records := s.hp.records.filter (fun x => x.ring != fld (c.word 15) 7 0) } }
  else s

/-- What follows the reply in R71 and R474: the event, the completion message, the update points and the trace record; the entry of
the command table is freed. ENGINE_RESET then takes effect (R85). -/
def finishRetire (s : State) (c : Cmd) (st : Status) : State :=
  let s := signalAtEnd s c st
  let s := if (c.irq || st.halts) && !c.noReply then completionMessage s c.queue else s
  let s := c.gathers.foldl retireGather s
  let s := clearRecord (writeTrace (releaseReaders s c) c st) c st
  let s := noteEvent (noteEvent (s.dropCmd c.id) 0x11 c.queue 1) 0x61 0 (b2n c.tagged)
  if c.opcode = Op.engineReset && st.code = 0 then engineResetEffect s 4 else s

/-- The reply's write, through Plait's translation: none while it waits or cannot be made (R53). -/
def writeReply (s : State) (c : Cmd) (st : Status) : State × Bool :=
  let x := s.queue c.queue
  if c.noReply || (c.quiet && st.code = 0) then (s, true) else
  let va := x.rbase + 16 * (x.rwrite % 2 ^ x.cfg.log2Size)
  match translateRange s x.cfg.xlCtx { agent := 64, queue := c.queue, tag := c.tag, va := va, write := true, reply := some c.id } va 16 with
  | (s, some ps, _) =>
    match writeMeets s ps (wordBytes (replyWords c st x.cfg.log2Size x.rwrite)) with
    | (s, none) => (s.setQueue c.queue { s.queue c.queue with rwrite := (x.rwrite + 1) % indexMod }, true)
    | (s, some pa) =>
      ((fetchFault (recordUncorr s pa) c.queue St.eccAbort).mapCmd c.id (fun c => { c with noReply := true }), true)
  | (s, none, .faulted) => (s, true)
  | (s, none, _) => (s, false)

/-- R91, R518: Plait's firmware finds an inconsistency in its own state: the command ends with INTERNAL and a firmware code, and no work is
accepted before an engine reset (log 130). -/
def internalError (s : State) (id : Nat) : State :=
  let s := failCommand s id St.internal (Config.firmwareCode s.free).toNat
  { s with cp := { s.cp with internal := true }, free := s.free + 1 }

/-- COMMAND_RETIRE (R71): a command whose status is decided retires; one that Plait's firmware finds inconsistent is decided so first. A
reply that waits on a translation holds it (R53). -/
def execCommandRetire (id : Nat) (inconsistent : Bool) (s : State) : Out :=
  if !s.plaitUp then .next s else
  let s := if inconsistent && ((s.cmd? id).any (fun c => c.status.isNone)) then internalError s id else settle s id
  match s.cmd? id with
  | none => .next s
  | some c =>
    match c.status with
    | none => .next s
    | some st =>
      match writeReply s c st with
      | (s, true) => .next (finishRetire s ((s.cmd? id).getD c) st)
      | (s, false) => .next s

/-! ### The states of a queue (R49 to R52, R83, R84) -/

/-- CP_QCFG of a written word (R55). -/
def qcfgOf (w : Nat) : QCfg :=
  { enable := bit w 31, priv := bit w 30, serviceOk := bit w 29, burnoeg := bit w 28, prio := fld w 25 24, irqVector := fld w 23 16,
    xlCtx := fld w 15 10, inflightM1 := fld w 9 5, log2Size := max 4 (min 16 (fld w 4 0)) }

def QCfg.toNat (c : QCfg) : Nat :=
  c.log2Size + c.inflightM1 * 2 ^ 5 + c.xlCtx * 2 ^ 10 + c.irqVector * 2 ^ 16 + c.prio * 2 ^ 24 + b2n c.burnoeg * 2 ^ 28 +
  b2n c.serviceOk * 2 ^ 29 + b2n c.priv * 2 ^ 30 + b2n c.enable * 2 ^ 31

/-- QUEUE_ENABLE (R49, R50, R51): a write of CP_QCFG that sets enable, with the indices back at zero. A queue that has not yet drained stays
in its state, with its other fields as they were (log 89). -/
def execQueueEnable (q : Nat) (v : Word) (s : State) : Out :=
  let x := s.queue q
  when (cpOpen s && bit v.toNat 31 && !x.cfg.enable) s (
    let fresh : Queue := { x with head := 0, rwrite := 0, rread := 0, doorbell := 0, held := none, unread := false }
    s.setQueue q (if x.st == .disabled then { fresh with cfg := qcfgOf v.toNat, st := .running }
      else { fresh with cfg := { x.cfg with enable := true } }))

/-- QUEUE_DISABLE (R49, R51): a write of CP_QCFG that clears enable. -/
def execQueueDisable (q : Nat) (v : Word) (s : State) : Out :=
  let x := s.queue q
  when (cpOpen s && !bit v.toNat 31 && x.cfg.enable) s (s.setQueue q { x with cfg := { x.cfg with enable := false } })

/-- QUEUE_DISABLE_COMPLETE (R49): a queue with enable 0 and nothing in flight is Disabled. -/
def execQueueDisableComplete (q : Nat) (s : State) : Out :=
  let x := s.queue q
  when (s.plaitUp && !x.cfg.enable && (x.st == .running || x.st == .halted) && (s.ofQueue q).isEmpty) s
    (s.setQueue q { x with st := .disabled })

/-- RESUME (R52). -/
def execResume (q : Nat) (v : Word) (s : State) : Out :=
  let x := s.queue q
  when (cpOpen s && bit v.toNat 0 && x.st == .halted) s (s.setQueue q { x with st := .running })

/-- CP_EVENT_WRITE (R67): the count is stored, each 1 clears its flag. -/
def execCpEventWrite (e : Nat) (v : Word) (s : State) : Out :=
  let x := s.event e
  let w := v.toNat
  when (cpOpen s) s (s.setEvent e
    { count := fld w 15 0, fault := x.fault && !bit w 16, underflow := x.underflow && !bit w 17, overflow := x.overflow && !bit w 18 })

/-- R83: the commands of the target whose status is not decided end with RESET_ABORT, at their next tile boundary. -/
def abortCommands (s : State) (q : Nat) : State :=
  ((s.ofQueue q).filter (fun c => c.status.isNone)).foldl (fun (s : State) c => stopCommand s c.id St.resetAbort 0x0002) s

/-- QUEUE_ABORT (R83, R90): its count begins with the packets discarded. A Disabled target holds nothing: the command ends at once with count 0. -/
def queueAbortStep (s : State) (c : Cmd) : State :=
  let q := fld (c.word 2) 7 0
  let x := s.queue q
  if x.st == .disabled then succeed s c else
  let gone := ahead x.doorbell x.head
  let s := s.setQueue q { x with st := .aborting, head := x.doorbell }
  abortCommands (s.mapCmd c.id (fun c => { c with run := .aborting q gone })) q

def execQueueAbort (q : Nat) (s : State) : Out := startCmd s q Op.queueAbort queueAbortStep

/-- The QUEUE_ABORT commands of a target are decided. -/
def abortsDone (s : State) (q : Nat) : State :=
  s.cp.table.foldl (fun (s : State) c =>
    match c.run with
    | .aborting t n => if t = q then decideStatus s c.id St.ok 0 n else s
    | _ => s) s

/-- ABORT_COMPLETE (R49, R83, R84): nothing of the target is in flight any more; a held doorbell is applied. -/
def execAbortComplete (q : Nat) (s : State) : Out :=
  let s := (s.ofQueue q).foldl (fun (s : State) c => settle s c.id) s
  let x := s.queue q
  if !(s.plaitUp && x.st == .aborting && (s.ofQueue q).isEmpty) then .next s else
  let s := s.setQueue q { x with st := if x.cfg.enable then .running else .disabled, held := none }
  let s := abortsDone s q
  .next (match x.held with | some t => ringDoorbell s q t | none => s)

/-! ### Engine reset as a command (R85, R501, R510) -/

def engineResetStep (s : State) (c : Cmd) : State := if bit (c.word 2) 0 then succeed s c else reject s c 0x0502

/-- ENGINE_RESET (R501): its reply is written before the reset takes effect, which COMMAND_RETIRE does. -/
def execEngineReset (q : Nat) (s : State) : Out := startCmd s q Op.engineReset engineResetStep

/-! ### Verification cache control (R314, R315) -/

/-- FLUSH: a write of CP_VER_CTRL. -/
def execFlush (v : Word) (s : State) : Out :=
  when (cpOpen s && bit v.toNat 0) s { s with cp := { s.cp with cache := [], flushBusy := true } }

/-- VERIFICATION_FLUSH_DONE. -/
def execVerificationFlushDone (s : State) : Out := when s.clocked s { s with cp := { s.cp with flushBusy := false } }

end Sys2Proof.Machine
end

