-- ==== Sys2Proof/Machine/Ribs.lean ====
section
/-! DEFINITION. The rib's instructions (R233 to R245, R251 to R266, R272, R273): lanes, predicates, the meaning of each opcode on the
registers of one beat, and the legality of R245. -/

namespace Sys2Proof.Machine

/-! ### Lanes -/

abbrev lanes : Nat := 256

/-- What the programs of a tile see beside its rib: the rib's number, t_P's format (R266), Burnoeg mode, nan_on_overflow, the constant
pool, the auxiliary vectors, the dropout arguments, and the format of the stake operand slot in hand (FP32 where there is none). -/
structure RibEnv where
  rib : Nat := 0
  pFmt : Option Format := none
  compat : Bool := false
  nanOnOvf : Bool := false
  pool : List Word := []
  aux : List (Bool × List Word) := []
  seed : DWord := 0
  seq : Nat := 0
  threshold : Nat := 0
  slot : Nat := 0
  slotFmt : Format := .fp32
  deriving DecidableEq, Repr

def laneList : List Nat := List.range lanes

/-- The logical row and column of a lane (R234). -/
def BeatRegs.row (b : BeatRegs) (l : Nat) : Nat := b.rows.getD (l / 128) 0
def BeatRegs.col (b : BeatRegs) (l : Nat) : Nat := b.cols.getD (l / 128) 0 + l % 128

/-- R234: a lane is in bounds. -/
def BeatRegs.inside (b : BeatRegs) (l : Nat) : Bool :=
  b.row l < b.rowsIn && b.col l < b.colsIn && l % 128 < b.width && !b.skip.contains (b.row l)

/-- The key and the query position of a lane. -/
def BeatRegs.key (b : BeatRegs) (l : Nat) : Int := b.keyPos.at (if b.turned then b.row l else b.col l)
def BeatRegs.query (b : BeatRegs) (l : Nat) : Int := b.queryPos.at (if b.turned then b.col l else b.row l)

def zeroLanes : List Word := List.replicate lanes 0#32

/-- A vector register: +0 before it is written (R239). -/
def Rib.reg (x : Rib) (n : Nat) : List Word := (tget zeroLanes x.regs.v n ++ zeroLanes).take lanes

/-- A predicate register: p0 is 1, p1 the in-bounds bits (R239). -/
def Rib.pred (x : Rib) (n : Nat) : List Bool :=
  if n = 0 then List.replicate lanes true
  else if n = 1 then laneList.map x.regs.inside
  else (tget (List.replicate lanes false) x.regs.p n ++ List.replicate lanes false).take lanes

/-- The lanes that an instruction writes (R239). -/
def Rib.mask (x : Rib) (a : RibArgs) : List Bool := (x.pred a.pr.toNat).map (fun b => b != a.pn)

/-- The lanes of a value under a mask. -/
def under {α : Type} (m : List Bool) (new old : List α) : List α := (m.zip (new.zip old)).map (fun p => if p.1 then p.2.1 else p.2.2)

/-- Writes a vector register under the instruction's predicate. -/
def Rib.put (x : Rib) (a : RibArgs) (n : Nat) (new : List Word) : Rib :=
  { x with regs := { x.regs with v := tset zeroLanes x.regs.v n (under (x.mask a) new (x.reg n)) } }

/-- Writes a predicate register, p2 to p7, under the instruction's predicate. -/
def Rib.putPred (x : Rib) (a : RibArgs) (new : List Bool) : Rib :=
  let n := a.vd.toNat % 8
  if n < 2 then x else
  { x with regs := { x.regs with p := tset (List.replicate lanes false) x.regs.p n (under (x.mask a) new (x.pred n)) } }

/-! ### Flags (R273) -/

/-- The entries of in-bounds lanes. -/
def Rib.insideOf {α : Type} (x : Rib) (l : List α) : List α :=
  ((l.zip laneList).filter (fun p => x.regs.inside p.2)).map (·.1)

def joinF (l : List FFlags) : FFlags := l.foldl FFlags.or {}
def joinS (l : List Sticky) : Sticky := l.foldl Sticky.or Sticky.none

/-- IEEE 754 flags of in-bounds lanes gather in RB_FPSTAT (R277). -/
def Rib.ieee (x : Rib) (f : List FFlags) : Rib := { x with fpstat := x.fpstat.or (joinF (x.insideOf f)) }

def nanWord? (w : Word) : Bool := (Fmt.binary32.decode w.toNat).isNan

/-- A floating-point result with its flags: into the register, RB_FPSTAT and the sticky flags. -/
def Rib.putF (x : Rib) (a : RibArgs) (r : List (Word × FFlags)) : Rib × Sticky :=
  ((x.put a a.vd.toNat (r.map (·.1))).ieee (r.map (·.2)), joinS (x.insideOf (r.map (fun p => p.2.sticky (nanWord? p.1)))))

/-- An integer result of a class I instruction: its flags, but no NaN. -/
def Rib.putI (x : Rib) (a : RibArgs) (r : List (Word × FFlags)) : Rib × Sticky :=
  ((x.put a a.vd.toNat (r.map (·.1))).ieee (r.map (·.2)), joinS (x.insideOf (r.map (fun p => p.2.sticky false))))

/-- An FP32 to int32 conversion (FCVT with imm 0): a number that saturates raises sat_seen too (R273). -/
def Rib.putSat (x : Rib) (a : RibArgs) (f : Word → Word × FFlags) : Rib × Sticky :=
  let r := (x.reg a.va.toNat).map (fun w => (w, f w))
  let t := x.putI a (r.map (·.2))
  (t.1, t.2.or (joinS (x.insideOf (r.map (fun p => { sat := p.2.2.invalid && !nanWord? p.1 })))))

/-- An FP64 result: low word first, in an even register and the next (R244). -/
def Rib.putD (x : Rib) (a : RibArgs) (r : List (Nat × FFlags)) : Rib × Sticky :=
  let n := a.vd.toNat
  (((x.put a n (r.map (fun p => wd p.1))).put a (n + 1) (r.map (fun p => wd (p.1 / 2 ^ 32)))).ieee (r.map (·.2)),
   joinS (x.insideOf (r.map (fun p => p.2.sticky (Fmt.binary64.decode p.1).isNan))))

/-- A predicate result with its flags. -/
def Rib.putC (x : Rib) (a : RibArgs) (r : List (Bool × FFlags)) : Rib × Sticky :=
  ((x.putPred a (r.map (·.1))).ieee (r.map (·.2)), joinS (x.insideOf (r.map (fun p => p.2.sticky false))))

/-! ### Operand lanes -/

def Rib.va (x : Rib) (a : RibArgs) : List Word := x.reg a.va.toNat
def Rib.vb (x : Rib) (a : RibArgs) : List Word := x.reg a.vb.toNat
def Rib.vc (x : Rib) (a : RibArgs) : List Word := x.reg a.vc.toNat

/-- FP64 operands. -/
def Rib.pair (x : Rib) (n : Nat) : List Nat := ((x.reg n).zip (x.reg (n + 1))).map (fun p => p.1.toNat + 2 ^ 32 * p.2.toNat)

def lift1 (f : Nat → Nat × FFlags) (l : List Word) : List (Word × FFlags) :=
  l.map (fun w => let r := f w.toNat; (wd r.1, r.2))

def lift2 (f : Nat → Nat → Nat × FFlags) (l m : List Word) : List (Word × FFlags) :=
  (l.zip m).map (fun p => let r := f p.1.toNat p.2.toNat; (wd r.1, r.2))

/-- The rounding direction of a class I instruction (R243). -/
def roundOf (a : RibArgs) : RMode := (RMode.ofCode a.md.toNat).getD .rne

/-! ### Auxiliary vectors, the store and the constant pool -/

/-- An element of an auxiliary vector of FP32 values; one beyond its end is not defined. -/
def RibEnv.element (e : RibEnv) (n i : Nat) : Word :=
  ((e.aux.getD n (false, [])).2[i]?).getD (Config.undefinedWord n e.rib i)

/-- A row state of an auxiliary vector (R265). -/
def RibEnv.rowState (e : RibEnv) (n i : Nat) : RowState := .ofWords (e.element n (2 * i)) (e.element n (2 * i + 1))

/-- A word of the rib store; one that nothing has written since the store lost its content is not defined. -/
def Rib.storeWord (x : Rib) (rib i : Nat) : Word :=
  match x.store.find? (fun p => p.1 == i) with
  | some p => p.2
  | none => Config.undefinedWord x.storeEpoch rib i

def Rib.line (x : Rib) (rib n : Nat) : List Word := laneList.map (fun k => x.storeWord rib (256 * n + k))

/-- The lanes of a mask whose results the rib writes: the in-bounds ones (R234). -/
def Rib.insideMask (x : Rib) (m : List Bool) : List Bool := (m.zip laneList).map (fun p => p.1 && x.regs.inside p.2)

/-- A line written in the lanes of a mask. -/
def Rib.putLine (x : Rib) (m : List Bool) (n : Nat) (ws : List Word) : Rib :=
  { x with store := ((m.zip ws).zip laneList).foldl (fun st p => if p.1.1 then tput st (256 * n + p.2) p.1.2 else st) x.store }

/-! ### The opcodes -/

/-- The FP64 result of two FP64 operands. -/
def dbl2 (x : Rib) (a : RibArgs) (f : Nat → Nat → Nat × FFlags) : Rib × Sticky :=
  x.putD a (((x.pair a.va.toNat).zip (x.pair a.vb.toNat)).map (fun p => f p.1 p.2))

/-- An operation on whole lanes without flags. -/
def lane2 (x : Rib) (a : RibArgs) (f : Word → Word → Word) : Rib × Sticky :=
  (x.put a a.vd.toNat (((x.va a).zip (x.vb a)).map (fun p => f p.1 p.2)), .none)

/-- A special function of one operand; in Burnoeg mode that engine's result (R272), which raises no flag (log 13). -/
def special (e : RibEnv) (x : Rib) (a : RibArgs) (op : Nat) (f : Word → Word × FFlags) : Rib × Sticky :=
  x.putF a ((x.va a).map (fun w => if e.compat then (Config.burnoegValue op w 0, {}) else f w))

/-- GACT: the activation that imm[2:0] selects, of va, times vb; in Burnoeg mode that engine's result (R272), which raises no
flag (log 13). -/
def gated (e : RibEnv) (x : Rib) (a : RibArgs) (sel : Nat) (f : Word → Word → Word × FFlags) : Rib × Sticky :=
  x.putF a (((x.va a).zip (x.vb a)).map (fun p =>
    if e.compat then (Config.burnoegValue (fnGact + 256 * sel) p.1 p.2, {}) else f p.1 p.2))

/-- The active seed buffer (R256). -/
def Rib.seeds (x : Rib) : Seeds := if x.active then x.seedB else x.seedA

/-- R244: TURN. -/
def turnWord (va vb vc : Word) : Word :=
  ((va.signExtend 64) * (vc ++ vb : BitVec 64)).extractLsb' 32 32

/-- R244: the coordinate of a lane by selector. -/
def coordinate (b : BeatRegs) (sel l : Nat) : Word :=
  match sel with
  | 0 => wd (b.col l)
  | 1 => wd (b.row l)
  | 2 => wd (b.colBase + b.col l)
  | 3 => wd (b.rowBase + b.row l)
  | 4 => BitVec.ofInt 32 (b.key l)
  | _ => BitVec.ofInt 32 (b.query l)

/-- The two segments of a beat. -/
def segments {α : Type} (l : List α) : List (List α) := [l.take 128, l.drop 128]

/-- R261: the pairwise tree of a segment, with its flags. -/
def segTree (f : Nat → Nat → Nat × FFlags) (seg : List Word) : Word × FFlags :=
  (tree (fun (p q : Word × FFlags) => let r := f p.1.toNat q.1.toNat; (wd r.1, (p.2.or q.2).or r.2)) 7
    (seg.map (fun w => (w, ({} : FFlags))))).headD (0, {})

/-- RSUM and RMAX: each lane takes its segment's result. Only in-bounds lanes raise a flag (R234). -/
def segOp (x : Rib) (a : RibArgs) (f : Nat → Nat → Nat × FFlags) : Rib × Sticky :=
  let r := ((segments (x.va a)).map (fun g => List.replicate 128 (segTree f g))).flatten
  (x.put a a.vd.toNat (r.map (·.1)), joinS (x.insideOf (r.map (fun p => p.2.sticky (nanWord? p.1)))))

/-- A row accumulator. One that nothing has written is not defined. R235 gives the row accumulators no place in the allocation, and the model
keeps them outside `Rib.store` (DESIGN CHOICE, log 145). -/
def Rib.accOf (x : Rib) (rib k : Nat) : Word :=
  match x.racc.find? (fun p => p.1 == k) with
  | some p => p.2
  | none => Config.undefinedWord x.storeEpoch (32 + rib) k

/-- RACC (R261): the segments in ascending logical column order, each added to the accumulator of its global row,
under the predicate bit of the segment's first lane (log 138). -/
def raccOp (e : RibEnv) (x : Rib) (a : RibArgs) : Rib × Sticky :=
  let n := a.imm.toNat % 16
  ([0, 128] : List Nat).foldl (fun (t : Rib × Sticky) l =>
    if !((t.1.mask a).getD l false) then t else
    let k := 16 * (t.1.regs.rowBase + t.1.regs.row l) + n
    let r := fAdd .binary32 .rne (t.1.accOf e.rib k).toNat ((t.1.va a).getD l 0#32).toNat
    let s := if t.1.regs.inside l then r.2.sticky (nanWord? (wd r.1)) else .none
    ({ t.1 with racc := tput t.1.racc k (wd r.1) }, t.2.or s)) (x, .none)

/-- STG (R244, R269). -/
def stgLane (e : RibEnv) (f : Format) (w : Word) : Word × Sticky × FFlags :=
  let r := convertCode .fp32 f .rne e.nanOnOvf (Fmt.binary32.decode w.toNat)
  (widenTo32 f r.1, r.2)

/-- R244: what an opcode does with the registers of the beat in hand, and the sticky flags it raises. ROWFIN of a step whose p_format names no
format of P, which only Burnoeg mode reaches, takes t_P of BF16 (DESIGN CHOICE, log 146). -/
def ribOp (e : RibEnv) (op : Nat) (a : RibArgs) (x : Rib) : Rib × Sticky :=
  let d := a.vd.toNat
  let i := a.imm.toNat
  let f32 := Fmt.binary32
  let f64 := Fmt.binary64
  let s := x.seeds
  match op with
  | 0x01 => (x.put a d (x.va a), .none)
  | 0x02 => ({ x with regs := { x.regs with v := tset zeroLanes x.regs.v d (under (x.mask a) (x.va a) (x.vb a)) } }, .none)
  | 0x03 => (x.put a d (x.line e.rib (i / 1024 + x.regs.index)), .none)
  | 0x04 => (x.putLine (x.insideMask (x.mask a)) (i / 1024 + x.regs.index) (x.va a), .none)
  | 0x05 => (x.put a d (List.replicate lanes (e.pool.getD (i % 64) (Config.undefinedWord 4 e.rib i))), .none)
  | 0x06 => (x.put a d (laneList.map (fun l => e.element (i % 4) (x.regs.rowBase + x.regs.row l))), .none)
  | 0x07 => (x.put a d (laneList.map (fun l => e.element (i % 4) (x.regs.colBase + x.regs.col l))), .none)
  | 0x08 => (x.put a d (laneList.map (coordinate x.regs (i % 8))), .none)
  | 0x09 => (x.put a d (laneList.map (fun l => (x.va a).getD (l ^^^ (if bit i 0 then 64 else 1)) 0#32)), .none)
  | 0x10 => x.putF a (lift2 (fAdd f32 (roundOf a)) (x.va a) (x.vb a))
  | 0x11 => x.putF a (lift2 (fSub f32 (roundOf a)) (x.va a) (x.vb a))
  | 0x12 => x.putF a (lift2 (fMul f32 (roundOf a)) (x.va a) (x.vb a))
  | 0x13 => x.putF a (((x.va a).zip ((x.vb a).zip (x.vc a))).map (fun p =>
      let r := fFma f32 (roundOf a) p.1.toNat p.2.1.toNat p.2.2.toNat; (wd r.1, r.2)))
  | 0x14 => x.putF a (lift2 (fDiv f32 (roundOf a)) (x.va a) (x.vb a))
  | 0x15 => x.putF a (lift1 (fSqrt f32 (roundOf a)) (x.va a))
  | 0x16 => x.putF a (lift2 (fMin f32) (x.va a) (x.vb a))
  | 0x17 => x.putF a (lift2 (fMax f32) (x.va a) (x.vb a))
  | 0x18 => x.putC a (((x.va a).zip (x.vb a)).map (fun p => fCmp f32 (i % 8) p.1.toNat p.2.toNat))
  | 0x19 => x.putF a (lift2 (fun p q => (fSgn (i % 4) p q, {})) (x.va a) (x.vb a))
  | 0x1A => x.putF a (((x.va a).zip (x.vb a)).map (fun p => let r := fScaleB f32 (roundOf a) p.1.toNat (sInt p.2); (wd r.1, r.2)))
  | 0x1B => x.putI a ((x.va a).map (fun w => fExpo w.toNat))
  | 0x1C => match i % 4 with
    | 0 => x.putSat a (fun w => toInt32 w.toNat)
    | 1 => x.putF a ((x.va a).map (fun w => let r := fromInt32 (roundOf a) w; (wd r.1, r.2)))
    | 2 => x.putD a ((x.va a).map (fun w => fConvert .fp32 .fp64 (roundOf a) w.toNat))
    | _ => x.putF a ((x.pair a.va.toNat).map (fun w => let r := fConvert .fp64 .fp32 (roundOf a) w; (wd r.1, r.2)))
  | 0x20 => dbl2 x a (fAdd f64 (roundOf a))
  | 0x21 => dbl2 x a (fSub f64 (roundOf a))
  | 0x22 => dbl2 x a (fMul f64 (roundOf a))
  | 0x23 => x.putD a (((x.pair a.va.toNat).zip ((x.pair a.vb.toNat).zip (x.pair a.vc.toNat))).map
      (fun p => fFma f64 (roundOf a) p.1 p.2.1 p.2.2))
  | 0x24 => dbl2 x a (fDiv f64 (roundOf a))
  | 0x25 => x.putD a ((x.pair a.va.toNat).map (fSqrt f64 (roundOf a)))
  | 0x26 => x.putC a (((x.pair a.va.toNat).zip (x.pair a.vb.toNat)).map (fun p => fCmp f64 (i % 8) p.1 p.2))
  | 0x27 => (x.put a d (((x.va a).zip ((x.vb a).zip (x.vc a))).map (fun p => turnWord p.1 p.2.1 p.2.2)), .none)
  | 0x28 => lane2 x a (· + ·)
  | 0x29 => lane2 x a (· - ·)
  | 0x2A => lane2 x a (· * ·)
  | 0x2B => lane2 x a (· &&& ·)
  | 0x2C => lane2 x a (· ||| ·)
  | 0x2D => lane2 x a (· ^^^ ·)
  | 0x2E => lane2 x a (fun p q =>
      match i % 4 with
      | 0 => p <<< (q.toNat % 32)
      | 1 => p >>> (q.toNat % 32)
      | _ => p.sshiftRight (q.toNat % 32))
  | 0x2F => (x.putPred a (((x.va a).zip (x.vb a)).map (fun p =>
      relation (i % 8) (some (if p.1 = p.2 then 0 else if p.1.slt p.2 then -1 else 1)))), .none)
  | 0x30 => special e x a op (expOp s)
  | 0x31 => special e x a op (exp2Op s)
  | 0x32 => special e x a op (log2Op s)
  | 0x33 => special e x a op (rcpOp s)
  | 0x34 => special e x a op (rsqrtOp s)
  | 0x35 => special e x a op (tanhOp s)
  | 0x36 => special e x a op (fun p => (sintOp s p, {}))
  | 0x37 => special e x a op (fun p => (costOp s p, {}))
  | 0x38 => gated e x a (i % 8) (gactOp s (i % 8))
  | 0x39 => (x.put a d ((x.va a).map (fun w => wd (wexp s w))),
      joinS (x.insideOf ((x.va a).map (fun w => if inRange w then .none else Sticky.ofRange))))
  | 0x3A => x.putF a (laneList.map (fun l => (wlogOp s (e.rowState (i % 4) (x.regs.rowBase + x.regs.row l)), {})))
  | 0x40 => segOp x a (fAdd f32 .rne)
  | 0x41 => segOp x a (fMax f32)
  | 0x42 => raccOp e x a
  | 0x43 =>
    let r := ((x.va a).zip laneList).map (fun p =>
      rowfinOp s (e.rowState (i % 4) (x.regs.rowBase + x.regs.row p.2)) (e.pFmt.getD .bf16) p.1)
    (x.put a d (r.map (·.1)), joinS (x.insideOf (r.map (fun p => p.2.or (if nanWord? p.1 then .ofNan else .none)))))
  | 0x48 =>
    let r := (x.va a).map (stgLane e ((Format.ofCode a.md.toNat).getD .fp32))
    ((x.put a d (r.map (·.1))).ieee (r.map (·.2.2)), joinS (x.insideOf (r.map (·.2.1))))
  | 0x4C => (x.putPred a (laneList.map (fun l =>
      dropped e.seed e.seq x.regs.head e.threshold (x.regs.query l) (x.regs.key l))), .none)
  | _ => (x, .none)

/-! ### Legality (R243 to R245) -/

/-- The opcodes of R244. -/
def ribOpcodes : List Nat :=
  (List.range 10) ++ (List.range 13).map (· + 0x10) ++ (List.range 16).map (· + 0x20) ++ (List.range 11).map (· + 0x30) ++
  [0x40, 0x41, 0x42, 0x43, 0x48, 0x4C]

def classI (op : Nat) : Bool := (0x10 ≤ op && op ≤ 0x1C) || (0x20 ≤ op && op ≤ 0x26)
def classS (op : Nat) : Bool :=
  op == 0x14 || op == 0x15 || op == 0x24 || op == 0x25 || (0x30 ≤ op && op ≤ 0x3A) || op == 0x43
def classW (op : Nat) : Bool := 0x40 ≤ op && op ≤ 0x42
def writesPred (op : Nat) : Bool := op == 0x18 || op == 0x26 || op == 0x2F || op == 0x4C

/-- R245: an odd register where an FP64 value stands. -/
def oddPair (op : Nat) (a : RibArgs) : Bool :=
  let odd (v : BitVec 6) : Bool := v.getLsbD 0
  match op with
  | 0x20 | 0x21 | 0x22 | 0x24 => odd a.vd || odd a.va || odd a.vb
  | 0x23 => odd a.vd || odd a.va || odd a.vb || odd a.vc
  | 0x25 => odd a.vd || odd a.va
  | 0x26 => odd a.va || odd a.vb
  | 0x1C => (a.imm.toNat % 4 == 2 && odd a.vd) || (a.imm.toNat % 4 == 3 && odd a.va)
  | _ => false

/-- R244: an imm selector outside the range that its opcode gives. -/
def badSelector (op imm : Nat) : Bool :=
  match op with
  | 0x18 | 0x26 | 0x2F => imm % 8 == 7
  | 0x08 => 5 < imm % 8
  | 0x19 | 0x2E => imm % 4 == 3
  | 0x38 => 4 < imm % 8
  | _ => false

/-- R245; what it does not list is legal (log 139). -/
def legalInst (op : Nat) (a : RibArgs) : Bool :=
  ribOpcodes.contains op && !(classI op && 4 < a.md.toNat) && !(op == 0x48 && 3 < a.md.toNat) &&
  !(writesPred op && a.vd.toNat % 8 < 2) && !oddPair op a && !badSelector op a.imm.toNat

/-- The latency of R244, in VCLK. -/
def latency (op : Nat) : Nat :=
  match op with
  | 0x03 | 0x04 | 0x06 | 0x07 | 0x09 | 0x16 | 0x17 | 0x18 | 0x1A | 0x28 | 0x29 | 0x2B | 0x2C | 0x2D | 0x2E | 0x2F | 0x48 => 2
  | 0x10 | 0x11 | 0x12 | 0x13 | 0x26 | 0x27 | 0x2A | 0x41 | 0x42 => 4
  | 0x14 | 0x15 | 0x38 => 14
  | 0x1C => 3
  | 0x20 | 0x21 | 0x22 | 0x23 | 0x31 | 0x36 | 0x37 | 0x39 => 8
  | 0x24 | 0x25 => 28
  | 0x30 | 0x32 | 0x33 | 0x34 => 10
  | 0x35 | 0x3A | 0x43 => 12
  | 0x40 => 7
  | 0x4C => 6
  | _ => 1

/-! ### Images (R240) -/

/-- A pass descriptor. -/
structure Pass where
  first : Nat
  count : Nat
  source : Nat
  sink : Nat
  last : Bool
  line : Nat
  reservedBits : Bool
  deriving DecidableEq, Repr

def passOf (w : BitVec 64) : Pass :=
  let n := w.toNat
  ⟨fld n 11 0, fld n 16 12, fld n 19 17, fld n 22 20, bit n 23, fld n 41 32, fld n 31 24 != 0 || fld n 63 42 != 0⟩

/-- The opcode and operand fields of an instruction word. -/
def instOf (w : BitVec 64) : Nat × RibArgs := ((ribOpcode w).toNat, ribFields w)

/-- The instruction words of a pass. -/
def Image.body (im : Image) (p : Pass) : List (BitVec 64) := (im.code.drop p.first).take p.count

/-- A straight chain of instructions over the beat in hand. -/
def runChain (e : RibEnv) (is : List (BitVec 64)) (x : Rib) : Rib × Sticky :=
  is.foldl (fun (t : Rib × Sticky) w =>
    let (op, a) := instOf w
    let r := ribOp e op a t.1
    (r.1, t.2.or r.2)) (x, .none)

/-- R104, R240: the value of a lane as a stake operand slot holds it. -/
def slotValue (e : RibEnv) (w : Word) : Word × Sticky :=
  let r := convertCode .fp32 e.slotFmt .rne e.nanOnOvf (Fmt.binary32.decode w.toNat)
  (widenTo32 e.slotFmt r.1, r.2.1)

/-- R238, R239: the start of a beat: v0 holds its values, every other register +0. -/
def beginBeat (x : Rib) (b : BeatRegs) (vals : List Word) : Rib :=
  { x with regs := { b with v := tset zeroLanes [] 0 vals, p := [] } }

end Sys2Proof.Machine
end

