-- ==== Sys2Proof/Machine/Images.lean ====
section
/-! DEFINITION. Program images (R240, R247): what a plan step's programs name, how an image is read, its limits, and the rib store lines
that it uses. Also the words of a started plan step (R279 to R284). -/

namespace Sys2Proof.Machine

/-! ### The step record and the plan header -/

def Compute.s (k : Compute) (i : Nat) : Nat := tw k.step i
def Compute.h (k : Compute) (i : Nat) : Nat := tw k.header i
/-- A 52-bit address in two words of a block. -/
def pairAt (ws : List Word) (i : Nat) : Nat := tw ws i + 2 ^ 32 * fld (tw ws (i + 1)) 19 0

def Compute.progBase (k : Compute) : Nat := pairAt k.header 4
def Compute.dataBase (k : Compute) : Nat := pairAt k.header 7
def Compute.pFmt (k : Compute) : Nat := fld (k.s 36) 11 8

/-- The program offset of a point: 0 prologue_left, 1 prologue_right, 2 score, 3 epilogue, 4 row epilogue (R281). -/
def Compute.progOff (k : Compute) (point : Nat) : Nat :=
  let w := k.s (48 + point / 2)
  if point % 2 = 0 then fld w 15 0 else fld w 31 16

/-- The points at which a step names a program; the backward kind has no epilogue (R196). -/
def Compute.points (k : Compute) : List Nat :=
  (List.range 5).filter (fun p => k.progOff p != 0 && !(fld (k.s 0) 7 0 == 0x21 && 3 ≤ p))

/-- A partition word (R280). -/
def partFirst (w : Nat) : Nat := fld w 5 0
def partCount (w : Nat) : Nat := fld w 11 6
def partUse (w : Nat) : Nat := fld w 12 12
def partValid (w : Nat) : Bool := bit w 13
def Compute.partition (k : Compute) (i : Nat) : Nat := k.h (10 + i)
def Compute.opPart (k : Compute) : Nat := fld (k.s 4) 11 8
def Compute.ribPart (k : Compute) : Nat := fld (k.s 4) 15 12

/-- An auxiliary vector descriptor (R281). -/
structure AuxDesc where
  offset : Nat
  bytes : Nat
  rowState : Bool
  present : Bool
  deriving DecidableEq, Repr

/-- The descriptor of a vector (R281). Its six-bit length counts 1 to 64 units, so 0 stands for 64 (log 124). -/
def Compute.aux (k : Compute) (i : Nat) : AuxDesc :=
  let w := k.s (52 + i)
  ⟨64 * fld w 23 0, 4096 * (if fld w 29 24 = 0 then 64 else fld w 29 24), bit w 30, bit w 31⟩

/-! ### Limits (R247) -/

def countOps (p : Nat → Bool) (is : List (BitVec 64)) : Nat := (is.filter (fun w => p (instOf w).1)).length

/-- A pass over the limits of R247. -/
def passOver (im : Image) (p : Pass) : Bool :=
  let is := im.body p
  24 < p.count || p.count == 0 || 4 < countOps classS is || 2 < countOps classW is ||
  3 < countOps (· == 0x03) is + b2n (p.source ≤ 1) || 2 < countOps (· == 0x04) is + b2n (p.sink == 1)

/-- A pass over the limits of a score program. -/
def scorePassOver (im : Image) (p : Pass) : Bool :=
  8 < p.count || (im.body p).any (fun w => classW (instOf w).1 || (instOf w).1 == 0x04) ||
  24 < sumNat ((im.body p).map (fun w => latency (instOf w).1))

/-- A program over the limits: the first instruction of the pass that is, of a score program also of a second pass (log 126). -/
def imageOver (point : Nat) (im : Image) : Option Nat :=
  let ps := im.passes.map passOf
  if !ps.any (·.last) then some 0 else
  ((ps.find? (fun p => passOver im p || (point == 2 && scorePassOver im p))) <|> (if point = 2 then ps[1]? else none)).map Pass.first

/-- The first instruction of the programs beyond `n` of them, by its place in its image. -/
def beyond (n : Nat) : List (Nat × Image) → Option Nat
  | [] => none
  | p :: ps => if n < p.2.code.length then some n else beyond (n - p.2.code.length) ps

/-- The first auxiliary vector, from the `i`-th on, that is beyond `n` bytes of them. -/
def auxBeyond (k : Compute) (n : Nat) : List Nat → Option Nat
  | [] => none
  | i :: is =>
    let b := if (k.aux i).present then (k.aux i).bytes else 0
    if n < b then some i else auxBeyond k (n - b) is

/-- R247: where the programs and vectors of a step go over a limit: (area, index) of R316. -/
def stepOver (k : Compute) (images : List (Nat × Image)) : Option (Nat × Nat) :=
  ((beyond 2048 images).map (2, ·)) <|> ((auxBeyond k 262144 (List.range 4)).map (3, ·)) <|>
  ((images.findSome? (fun p => imageOver p.1 p.2)).map (2, ·))

/-! ### Legality (R240, R245) -/

/-- The first illegal place of an image: a pass descriptor, or an instruction, by its index in the image. -/
def imageIllegal (im : Image) : Option Nat :=
  let ds := im.passes.map passOf
  match (List.range ds.length).find? (fun i =>
      let d := ds.getD i ⟨0, 0, 0, 0, false, 0, false⟩
      3 < d.source || 5 < d.sink || d.reservedBits || ((d.source == 1 || d.sink == 1) && 895 < d.line)) with
  | some i => some i
  | none => (List.range im.code.length).find? (fun i => let p := instOf (im.code.getD i 0); !legalInst p.1 p.2)

/-- The first instruction of a pass whose rib store lines, over `beats` beats, lie outside an allocation; that of the pass where its own
lines do. -/
def passOutside (first count beats : Nat) (im : Image) (p : Pass) : Option Nat :=
  let ok (l : Nat) : Bool := first ≤ l && l + beats ≤ first + count && l + beats ≤ 896
  if (p.source == 1 || p.sink == 1) && !ok p.line then some p.first
  else ((im.body p).findIdx? (fun w => let i := instOf w; (i.1 == 0x03 || i.1 == 0x04) && !ok (i.2.imm.toNat / 1024))).map (p.first + ·)

/-- The rib store lines that a pass uses over `beats` beats lie in an allocation. -/
def passInside (first count beats : Nat) (im : Image) (p : Pass) : Bool := (passOutside first count beats im p).isNone

/-! ### Reading (R24, R246, R248, R287) -/

/-- The 64-bit words of a list of bytes. -/
def dwordsOf (bs : List Byte) : List (BitVec 64) := (chunksOf 8 bs).map (fun b => BitVec.ofNat 64 (Memory.ofBytes b))

/-- The pass descriptors of an image: up to the first with last set, at most eight. -/
def takePasses : List (BitVec 64) → List (BitVec 64)
  | [] => []
  | w :: ws => if (passOf w).last then [w] else w :: takePasses ws

/-- The number of instructions that the passes name. -/
def codeLength (ps : List (BitVec 64)) : Nat := ps.foldl (fun n w => max n ((passOf w).first + (passOf w).count)) 0

/-- Plait reads the image at an offset of the program area. -/
def readImage64 (s : State) (c : Cmd) (k : Compute) (off : Nat) : State × Option Image :=
  let base := k.progBase + 64 * off
  match plaitRead s c 2 base 64 with
  | (s, none) => (s, none)
  | (s, some bs) =>
    let ps := takePasses (dwordsOf bs)
    match plaitRead s c 2 (base + 8 * ps.length) (8 * codeLength ps) with
    | (s, none) => (s, none)
    | (s, some bs) => (s, some ⟨ps, dwordsOf bs⟩)

/-- The images of a list of points. -/
def readImages (s : State) (c : Cmd) (k : Compute) : List Nat → State × Option (List (Nat × Image))
  | [] => (s, some [])
  | p :: ps =>
    match readImage64 s c k (k.progOff p) with
    | (s, none) => (s, none)
    | (s, some im) =>
      match readImages s c k ps with
      | (s, none) => (s, none)
      | (s, some l) => (s, some ((p, im) :: l))

/-- The constant pool: empty where the step names none. -/
def readPool (s : State) (c : Cmd) (k : Compute) : State × Option (List Word) :=
  if fld (k.s 51) 23 0 = 0 then (s, some []) else
  match plaitRead s c 2 (k.dataBase + 64 * fld (k.s 51) 23 0) 256 with
  | (s, some bs) => (s, some (wordsOf bs))
  | (s, none) => (s, none)

/-- The auxiliary vectors from the `i`-th on, `n` of them. -/
def readAux (s : State) (c : Cmd) (k : Compute) : (n i : Nat) → State × Option (List (Bool × List Word))
  | 0, _ => (s, some [])
  | n + 1, i =>
    let d := k.aux i
    let here : State × Option (List Byte) := if d.present then plaitRead s c 2 (k.dataBase + d.offset) d.bytes else (s, some [])
    match here with
    | (s, none) => (s, none)
    | (s, some bs) =>
      match readAux s c k n (i + 1) with
      | (s, none) => (s, none)
      | (s, some l) => (s, some ((d.rowState, wordsOf bs) :: l))

/-- All that a bank holds of a step. R235 counts the auxiliary vectors and the constant pool in the allocation and gives them no place there;
the model keeps them in the bank, outside `Rib.store`, so that LDB and STB never meet them (DESIGN CHOICE, log 145). -/
def readBank (s : State) (c : Cmd) (k : Compute) : State × Option Bank :=
  match readImages s c k k.points with
  | (s, none) => (s, none)
  | (s, some ims) =>
    match readPool s c k with
    | (s, none) => (s, none)
    | (s, some pool) =>
      match readAux s c k 4 0 with
      | (s, none) => (s, none)
      | (s, some aux) => (s, some ⟨c.id, ims, pool, aux⟩)

end Sys2Proof.Machine
end

