-- ==== Sys2Proof/Machine/Slots.lean ====
section
/-! DEFINITION. Slot rings (R153 to R155, R357 to R364): where their lines lie in stake, what arrives in a slot, who has read it, and how a
ring ends. What the slots are to hold is in Rings.lean. -/

namespace Sys2Proof.Machine

/-! ### Rings by key -/

def State.ringAt (s : State) (id : Nat) : SlotRing := tget {} s.rings id
def State.setRing (s : State) (id : Nat) (x : SlotRing) : State := { s with rings := tset {} s.rings id x }

/-- The rings that a channel fills. -/
def Channel.fills (c : Channel) : List Nat := c.ring.toList ++ (match c.cursor with | some u => [u.kRing, u.vRing] | none => [])

/-- A key that no ring has, and that no channel fills. -/
def freshRing (s : State) : Nat :=
  ((s.sk.map (fun p => (p.2.channels.map Channel.fills).flatten)).flatten ++ s.rings.map (·.1)).foldl (fun n k => max n (k + 1)) 1

/-- The rings of an array, or of a rib, by number: the row operand, the column operand, the second product's operand, P, the undropped P
and dS of a band, and the preload (log 116). Of a band, `ringValue` and `ringDo` are the rows of Q and of dO; of a scan, `ringP` holds P′,
`ringDs` dA, `ringPPlain` the snapshots of tile 1, and `ringPre` the stored ones. `ringState` is the initial state of a scan; `ringFetch` and
`ringTaken` hold what a rib asks a streamer for, to read it and to change it (log 50). -/
abbrev ringLeft : Nat := 0
abbrev ringRight : Nat := 1
abbrev ringValue : Nat := 2
abbrev ringP : Nat := 3
abbrev ringPPlain : Nat := 4
abbrev ringDs : Nat := 5
abbrev ringPre : Nat := 6
abbrev ringDo : Nat := 7
abbrev ringState : Nat := 8
abbrev ringFetch : Nat := 9
abbrev ringTaken : Nat := 10

/-- The key of a ring of a work item, by its number; 0 is the key of none. -/
def Work.ring (w : Work) (r : Nat) : Nat := tget 0 w.rings r

/-! ### Slots -/

def SlotRing.slot (x : SlotRing) (n : Nat) : RingSlot := tget {} x.slots n
def SlotRing.setSlot (x : SlotRing) (n : Nat) (y : RingSlot) : SlotRing := { x with slots := tset {} x.slots n y }
def SlotRing.planOf (x : SlotRing) (n : Nat) : SlotPlan := x.plan.getD n {}

/-- The producer may write slot `n` (R364, R369). -/
def SlotRing.free (x : SlotRing) (n : Nat) : Bool := x.head ≤ n && n < x.head + x.depth

/-- A member may read slot `n`. -/
def SlotRing.holds (x : SlotRing) (n : Nat) : Bool := x.head ≤ n && n < x.tail

/-- The slots that a member has read. -/
def SlotRing.reads (x : SlotRing) (a : Nat) : Nat := tget 0 x.members a

/-- The next slot of a member is ready (R134, R364). -/
def SlotRing.nextReady (x : SlotRing) (a : Nat) : Bool := x.holds (x.reads a)

/-- A member has read its next slot. -/
def SlotRing.readBy (x : SlotRing) (a : Nat) : SlotRing :=
  { x with members := x.members.map (fun p => if p.1 = a then (p.1, p.2 + 1) else p) }

/-- R153, R364: the slot at the head is free once every member has read it; its content is gone. -/
def SlotRing.release (x : SlotRing) : SlotRing :=
  if x.head < x.tail && x.members.all (fun p => x.head < p.2) then { x with head := x.head + 1, slots := tdel x.slots x.head } else x

/-! ### Layout and placement (R360, R363) -/

/-- Bytes of a row as it lies in lines: an INT4 line row holds two rows of the tile. -/
def SlotView.rowBytes (v : SlotView) : Nat := v.cols * v.fmt.bytes
/-- Lines of a row: G of R363. -/
def SlotView.lines (v : SlotView) : Nat := cdiv v.rowBytes 64
/-- The rows as they lie in lines. -/
def SlotView.lineRows (v : SlotView) : Nat := if v.fmt = .int4 then cdiv (v.rows + b2n v.upper) 2 else v.rows

/-- R363: the ring bank of line (r, j) of `g` lines to a row, among `n` banks. -/
def lineBank (slewed : Bool) (g n r j : Nat) : Nat :=
  if slewed then (r * (if g % 2 = 1 then g else g + 1) + j) % n else (r * g + j) % n

/-- The lines of a slot that lie on the same bank before line `l`. -/
def lineRank (slewed : Bool) (g n l : Nat) : Nat :=
  ((List.range l).filter (fun i => lineBank slewed g n (i / g) (i % g) == lineBank slewed g n (l / g) (l % g))).length

/-- The bank rows that a slot of a ring takes (log 116). -/
def SlotRing.slotRows (x : SlotRing) : Nat :=
  let v := (x.planOf 0).view
  cdiv (v.lineRows * v.lines) (max 1 (fld x.partition 11 6)) + b2n v.slewed

/-- R360: where line `l` of slot `n` lies in the half of array `a`: its bank on the die, and its row in that half. -/
def SlotRing.linePlace (s : State) (x : SlotRing) (a n l : Nat) : Nat :=
  let v := (x.planOf n).view
  let nb := max 1 (fld x.partition 11 6)
  let g := max 1 v.lines
  let rows := 1024 * 2 ^ s.st.ringSize
  let row := 32768 - rows + a % 2 * (rows / 2) + (x.firstRow + n % max 1 x.depth * x.slotRows + lineRank v.slewed g nb l) % max 1 (rows / 2)
  let col := fld x.partition 5 0 + lineBank v.slewed g nb (l / g) (l % g)
  stakeBase + stakeOffset (48 * (a / 2) + col) row

/-- The lines of a range of a slot. -/
def slotLines (off n : Nat) : List Nat := if n = 0 then [] else (List.range (n + off % 64 + 63)).map (· + off / 64) |>.filter (fun l => l * 64 < off + n)

/-- R360: a ring is stored once on each die that holds a member, in the half of its even array where both arrays receive it. -/
def ringHomes (arrays : List Nat) : List Nat :=
  arrays.filter (fun a => a < 32 && (a % 2 == 0 || !arrays.contains (a - 1)))

/-- Where a member reads: the home of its die. -/
def SlotRing.homeOf (x : SlotRing) (a : Nat) : Nat := (x.homes.find? (fun h => h / 2 == a / 2)).getD (x.homes.headD a)

/-- The lines of a slot that a member reads (R379). -/
def SlotRing.linesAt (s : State) (x : SlotRing) (a n : Nat) : List (Nat × Nat) :=
  let v := (x.planOf n).view
  if errorFree s then [] else (List.range (v.lineRows * v.lines)).map (fun l => (x.linePlace s (x.homeOf a) n l, 64))

/-! ### What arrives (R364, R380) -/

/-- Bytes written into a slot: those of a line that fails its check and is covered only in part are not made, and the line is answered. -/
def slotWrite (s : State) (id n off : Nat) (bs : List Byte) : State × Option Nat :=
  let x := s.ringAt id
  if !x.free n then (s, none) else
  let ls := (slotLines off bs.length).map (fun l => (x.homes.map (fun h => x.linePlace s h n l), off ≤ 64 * l && 64 * l + 64 ≤ off + bs.length))
  let lost := (ls.filter (fun l => !l.2)).flatMap (fun l => l.1.filter (fun pa => s.mem.fails (lineOf pa)))
  let whole := (ls.filter (·.2)).flatMap (·.1)
  let y := x.slot n
  let s := { s with mem := whole.foldl (fun (m : Memory) pa => m.heal pa 64) s.mem }
  (s.setRing id (x.setSlot n { y with got := y.got + bs.length, parts := y.parts ++ [(off, bs)] }), lost.head?)

/-- The bytes of a slot in a range, zero where nothing has been written. -/
def RingSlot.bytesAt (y : RingSlot) (off n : Nat) : List Byte :=
  match y.parts.find? (fun p => p.1 ≤ off && off + n ≤ p.1 + p.2.length) with
  | some p => (p.2.drop (off - p.1)).take n
  | none => (List.range n).map (fun i =>
    match y.parts.find? (fun p => p.1 ≤ off + i && off + i < p.1 + p.2.length) with
    | some p => p.2.getD (off + i - p.1) 0#8
    | none => 0#8)

/-! ### Channels (R366, R370) -/

/-- The streamer with the fewest channels among some, the lowest number on a tie; none where all have eight. -/
def fewestOf (s : State) (ns : List Nat) : Option Nat :=
  let free := ns.filter (fun n => (s.streamer n).channels.length < 8)
  free.foldl (fun (o : Option Nat) n => match o with
    | none => some n
    | some m => if (s.streamer n).channels.length < (s.streamer m).channels.length then some n else some m) none

/-- A channel opens on a streamer. -/
def openChannel (s : State) (n : Nat) (c : Channel) : State :=
  let k := s.streamer n
  s.setStreamer n { k with channels := k.channels ++ [c] }

/-- The first channel, of some streamers, with a property: its streamer and number. -/
def findChannel (s : State) (ns : List Nat) (good : Channel → Bool) : Option (Nat × Nat) :=
  ns.findSome? (fun n => ((List.range (s.streamer n).channels.length).find? (fun i => good ((s.streamer n).channels.getD i {}))).map (fun i => (n, i)))

/-- Transfers are queued on a channel. -/
def queueOn (s : State) (p : Nat × Nat) (ts : List Transfer) : State :=
  let k := s.streamer p.1
  let x := k.channels.getD p.2 {}
  s.setStreamer p.1 { k with channels := k.channels.set p.2 { x with queued := x.queued ++ ts } }

/-! ### Places -/

/-- The end of a place `n` bytes on. -/
def Loc.plus : Loc → Nat → Loc
  | .phys pa, n => .phys (pa + n)
  | .virt ctx va, n => .virt ctx (va + n)
  | .slot r k off, n => .slot r k (off + n)

def Loc.start : Loc → Nat
  | .phys pa => pa
  | .virt _ va => va
  | .slot _ _ off => off

/-- Two ranges of one address space meet. -/
def Loc.meets (a : Loc) (n : Nat) (b : Loc) (m : Nat) : Bool :=
  (match a, b with
  | .phys _, .phys _ => true
  | .virt c _, .virt d _ => c == d
  | _, _ => false) && a.start < b.start + m && b.start < a.start + n

/-- A command's writes to a range are still on their way (R372). -/
def writesPending (s : State) (id : Nat) (a : Loc) (n : Nat) : Bool :=
  s.sk.any (fun p => p.2.channels.any (fun c => c.cmd == id &&
    (c.queued ++ c.moving.map (·.t)).any (fun t => t.data.isSome && t.dst.meets t.bytes a n)))

/-! ### The end of a ring -/

/-- The channels of a ring issue nothing more; what is under way ends (R372). -/
def closeFill (s : State) (id : Nat) : State :=
  { s with sk := s.sk.map (fun p => (p.1, { p.2 with channels := p.2.channels.map (fun c =>
      if c.ring == some id || (match c.cursor with | some u => u.kRing == id || u.vRing == id | none => false) then
        { c with queued := [], pages := [], cursor := none, missWait := false } else c) })) }

/-- Channels with nothing queued and nothing under way are closed. -/
def dropIdle (s : State) : State :=
  { s with sk := (s.sk.map (fun p => (p.1, { p.2 with channels := p.2.channels.filter (fun c =>
      !(c.queued.isEmpty && c.moving.isEmpty && c.pages.isEmpty && c.cursor.isNone)) }))).filter (fun p => p.2 != {}) }

/-- R155: a member leaves a ring; a ring with no array among its members ends. -/
def leaveRing (a : Nat) (s : State) (id : Nat) : State :=
  let x := s.ringAt id
  let m := x.members.filter (fun p => p.1 != a)
  if m.all (fun p => 32 ≤ p.1) then dropIdle (closeFill { s with rings := tdel s.rings id } id)
  else s.setRing id { x with members := m }

/-- An array leaves every ring of a work item. -/
def leaveRings (s : State) (a : Nat) (w : Work) : State := (w.rings.map (·.2)).foldl (leaveRing a) s

/-- Whether a command has channels left. -/
def hasChannels (s : State) (id : Nat) : Bool := s.sk.any (fun p => p.2.channels.any (fun c => c.cmd == id))

end Sys2Proof.Machine
end

