-- ==== Sys2Proof/Machine/Splint.lean ====
section
/-! DEFINITION. Splint's commands and registers (chapter 11): mapping, withdrawal, windows, misses and the mirror area. -/

namespace Sys2Proof.Machine

abbrev addressEnd : Nat := 2 ^ 52
abbrev mirrorSize : Nat := 0x4029000

/-- Two ranges of (base, length) overlap. -/
def rangesMeet (a b : Nat × Nat) : Bool := a.1 < b.1 + b.2 && b.1 < a.1 + a.2 && a.2 != 0 && b.2 != 0

/-! ### The checks of R415 -/

/-- R390: a segment's target lies wholly in one region, outside the reduction buffer and the Coil region. -/
def targetOk (t len : Nat) : Bool :=
  regionOf t != .nowhere && t + len ≤ addressEnd && regionOf t == regionOf (t + len - 1) && !(stackEnd ≤ t && t < stakeBase) &&
  !rangesMeet (t, len) (reduceLo, coilHi - reduceLo)

/-- The segments of a context, but for one. -/
def otherSegments (s : State) (ctx i : Nat) : List Segment :=
  (List.range 16).filterMap (fun k => if k = i then none else tget none s.sp.segments (ctx * 16 + k))

/-- The range of an installed segment. -/
def segmentRange (s : State) (ctx i : Nat) : List (Nat × Nat) :=
  match tget none s.sp.segments (ctx * 16 + i) with | some g => [(g.vbase, g.length)] | none => []

/-- R409: a range overlaps an open or closing window of the context. -/
def meetsWindow (s : State) (ctx : Nat) (rs : List (Nat × Nat)) : Bool :=
  s.sp.windows.any (fun w => w.2.state != 0 && w.2.ctx == ctx && rs.any (fun r => rangesMeet r (w.2.base, w.2.length)))

/-- The first failing check of a segment's mapping (kind 0). -/
def segmentCheck (s : State) (ctx i vbase target len : Nat) : Option Nat :=
  let old := segmentRange s ctx i
  if len = 0 then
    if meetsWindow s ctx old then some 0x0305 else if target != 0 then some 0x0309 else none
  else if (otherSegments s ctx i).any (fun g => rangesMeet (vbase, len) (g.vbase, g.length)) then some 0x0301
  else if !targetOk target len then some 0x0302
  else if addressEnd < vbase + len then some 0x0303
  else if meetsWindow s ctx ((vbase, len) :: old) then some 0x0305
  else none

/-- The first failing check of a root's mapping (kind 1). -/
def rootCheck (s : State) (ctx root : Nat) : Option Nat :=
  if bit root 51 then some 0x0304
  else if meetsWindow s ctx [(0, 2 ^ 47)] then some 0x0305
  else if !s.sp.ready then some 0x0308
  else none

/-! ### Withdrawal (R405 to R407) -/

/-- Installs what a withdrawal commits. -/
def commitWithdraw (s : State) (c : Commit) : State :=
  match c with
  | .nothing => s
  | .segment i g => copySegments { s with sp := { s.sp with segments := tset none s.sp.segments i g } }
  | .root ctx r => copySegments { s with sp := { s.sp with roots := tset none s.sp.roots ctx r } }

/-- Whether an address of a context falls under a withdrawal. -/
def Withdraw.covers (w : Withdraw) (ctx va n : Nat) : Bool := w.ctx == ctx && w.ranges.any (fun r => rangesMeet r (va, n))

/-- The TLB entries of the ranges of a withdrawal are dropped. -/
def Withdraw.drop (w : Withdraw) (sp : Splint) : Splint :=
  tlbDrop sp (fun e => w.covers e.ctx (e.vpn * 4096) 4096 && !(w.hostOnly && e.fromSegment))

/-- R405: the range of the segment that a withdrawal is to replace, as it stands when the withdrawal begins. -/
def replacedRange (s : State) (c : Commit) : List (Nat × Nat) :=
  match c with
  | .segment i _ => segmentRange s (i / 16) (i % 16)
  | _ => []

/-- R406, step 3: the WIN_OPEN commands that have translated pages of the ranges. -/
def openingUnder (s : State) (w : Withdraw) : List Nat :=
  (s.cp.table.filter (fun c => match c.run with
    | .window _ (_ :: _) => c.status.isNone && w.covers (ctxOf s c) (c.addr 3) (c.addr 5)
    | _ => false)).map (·.id)

/-- R406, step 3: the pieces under way were translated before this point. -/
def markMoving (sk : List (Nat × Streamer)) : List (Nat × Streamer) :=
  sk.map (fun p => (p.1, { p.2 with channels := p.2.channels.map (fun c => { c with moving := c.moving.map (fun m => { m with old := true }) }) }))

/-- R406, steps 1 and 2: mirrors and TLB entries of the ranges are dropped, and every agent is asked to acknowledge. -/
def beginWithdraw (s : State) (w : Withdraw) : State :=
  let w := { w with ranges := replacedRange s w.commit ++ w.ranges }
  let w := { w with opening := openingUnder s w }
  let sp := w.drop s.sp
  { s with
    sk := markMoving s.sk,
    sp := { sp with
      mirrors := sp.mirrors.filter (fun m => !(w.covers m.ctx m.lo (m.hi - m.lo))),
      current := some w, unacked := List.range 66 } }

/-- A withdrawal waits for those before it (R406). -/
def startWithdraw (s : State) (w : Withdraw) : State :=
  match s.sp.current with
  | none => beginWithdraw s w
  | some _ => { s with sp := { s.sp with waiting := s.sp.waiting ++ [w] } }

/-- R406, steps 3 and 4: whether pieces of the ranges that an agent translated before the withdrawal began are still under way. -/
def agentBusy (s : State) (w : Withdraw) (agent : Nat) : Bool :=
  let touches (l : Loc) (n : Nat) : Bool := match l with | .virt ctx va => w.covers ctx va n | _ => false
  if agent < 64 then
    (s.streamer agent).channels.any (fun c => c.moving.any (fun m => m.old && (touches m.t.src m.t.bytes || touches m.t.dst m.t.bytes)))
  else if agent = 64 then
    s.cp.table.any (fun c => match c.run with
      | .window .. => c.status.isNone && w.opening.contains c.id
      | _ => false)
  else false

/-- R406, step 5: the commit, from which on every access sees the new tables (R405): what was translated from the old ones in between goes.
The next withdrawal begins. -/
def endWithdraw (s : State) (w : Withdraw) : State :=
  let s := commitWithdraw { s with sp := { w.drop s.sp with current := none, unacked := [] } } w.commit
  let s := decideStatus s w.cmd St.ok 0 0
  match s.sp.waiting with
  | [] => s
  | n :: t => beginWithdraw { s with sp := { s.sp with waiting := t } } n

/-- AGENT_WITHDRAWAL_ACK (R406). -/
def execAgentWithdrawalAck (agent : Nat) (s : State) : Out :=
  match s.sp.current with
  | none => .next s
  | some w =>
    if !s.clocked || !s.sp.unacked.contains agent || agentBusy s w agent then .next s else
    let left := s.sp.unacked.filter (fun a => a != agent)
    let s := { s with sp := { s.sp with unacked := left } }
    .next (if left.isEmpty then endWithdraw s w else s)

/-! ### XL_MAP and XL_INVAL -/

def withdrawing (s : State) (c : Cmd) (w : Withdraw) : State :=
  startWithdraw (s.mapCmd c.id (fun c => { c with run := .withdraw })) w

def xlMapStep (s : State) (c : Cmd) : State :=
  let ctx := fld (c.word 2) 5 0
  let i := fld (c.word 2) 11 8
  let target := c.addr 5
  if fld (c.word 2) 13 12 = 0 then
    let vbase := c.addr 3
    let len := c.addr 7
    match segmentCheck s ctx i vbase target len with
    | some d => reject s c d
    | none =>
      let new : List (Nat × Nat) := if len = 0 then [] else [(vbase, len)]
      withdrawing s c { cmd := c.id, ctx := ctx, ranges := new,
                        commit := .segment (ctx * 16 + i) (if len = 0 then none else some ⟨vbase, target, len⟩) }
  else
    match rootCheck s ctx target with
    | some d => reject s c d
    | none =>
      withdrawing s c { cmd := c.id, ctx := ctx, ranges := [(0, addressEnd)], hostOnly := true,
                        commit := .root ctx (if target = 0 then none else some target) }

/-- XL_MAP (R405). -/
def execXlMap (q : Nat) (s : State) : Out := startCmd s q Op.xlMap xlMapStep

def xlInvalStep (s : State) (c : Cmd) : State :=
  let ctx := fld (c.word 2) 5 0
  let r := (c.addr 3, c.addr 5)
  if addressEnd < r.1 + r.2 then reject s c 0x0303
  else if meetsWindow s ctx [r] then reject s c 0x0305
  else withdrawing s c { cmd := c.id, ctx := ctx, ranges := [r] }

/-- XL_INVAL (R406). -/
def execXlInval (q : Nat) (s : State) : Out := startCmd s q Op.xlInval xlInvalStep

/-! ### Windows (R410 to R413) -/

abbrev mapEntries : Nat := 4194304

/-- The runs of page map entries in use. -/
def mapRuns (s : State) : List (Nat × Nat) :=
  (s.sp.windows.filter (fun w => w.2.state != 0)).map (fun w => (w.2.mapFirst, w.2.pages.length))

/-- SP_WIN_PAGES (R417). -/
def windowPages (s : State) : Nat := sumNat ((mapRuns s).map (·.2))

def runFree (s : State) (first n : Nat) : Bool := first + n ≤ mapEntries && !(mapRuns s).any (fun r => rangesMeet r (first, n))

/-- R411: a free run of page map entries: a free choice among those that hold the window (log 36). -/
def findRun (s : State) (n : Nat) : Option Nat :=
  let pick := Config.mapPlace s.free
  if runFree s pick n then some pick
  else (0 :: (mapRuns s).map (fun r => r.1 + r.2)).find? (fun f => runFree s f n)

/-- The first failing check of a window's opening. -/
def windowCheck (s : State) (w base len : Nat) : Option Nat :=
  if addressEnd < base + len then some 0x0303
  else if (s.window w).state != 0 then some 0x0306
  else if 2 ^ 32 < len || (findRun s (len / 4096)).isNone then some 0x0307
  else if !s.sp.ready then some 0x0308
  else none

/-- R411: the pages of a window from one on, translated in ascending order for writing; up to the first that does not resolve. -/
def windowTranslate (s : State) (c : Cmd) (ctx base : Nat) : (left done : Nat) → List Nat → State × List Nat × Xlate
  | 0, _, ps => (s, ps, .at 0)
  | n + 1, k, ps =>
    match translate s ctx { plaitAccess c 3 (base + 4096 * k) true with va := base + 4096 * k } with
    | (s, .at pa) => windowTranslate s c ctx base n (k + 1) (ps ++ [pa])
    | (s, r) => (s, ps, r)

/-- R411: the window is opened at commit. -/
def openWindow (s : State) (n ctx sender base len : Nat) (any : Bool) (pages : List Nat) : State :=
  match findRun s pages.length with
  | some f =>
    let s := { s with free := s.free + 1 }
    copyWindow (s.setWindow n ⟨1, ctx, any, sender, base, len, f, 0, pages⟩) n
  | none => s

/-- WIN_OPEN's translations from where they stand; the checks of other commands' commits in between are made again. -/
def winOpenGo (s : State) (c : Cmd) (done : List Nat) : State :=
  let w := fld (c.word 2) 11 0
  let base := c.addr 3
  let len := c.addr 5
  match windowTranslate s c (ctxOf s c) base (len / 4096 - done.length) done.length done with
  | (s, ps, .at _) =>
    match windowCheck s w base len with
    | some d => reject s c d
    | none => succeed (openWindow s w (ctxOf s c) (fld (c.word 7) 15 0) base len (bit (c.word 7) 16) ps) c
  | (s, ps, .waits) => s.mapCmd c.id (fun c => { c with run := .window w ps })
  | (s, _, .faulted) => s

def winOpenStep (s : State) (c : Cmd) : State :=
  match c.run with
  | .window _ ps => winOpenGo s c ps
  | _ =>
    match windowCheck s (fld (c.word 2) 11 0) (c.addr 3) (c.addr 5) with
    | some d => reject s c d
    | none => winOpenGo s c []

/-- The WIN_OPEN commands of a queue whose translations wait. -/
def openingOf (s : State) (q : Nat) : List Cmd :=
  (s.ofQueue q).filter (fun c => c.started && c.status.isNone && (match c.run with | .window .. => true | _ => false))

/-- WIN_OPEN (R411): starts the command, and otherwise continues one whose misses have been answered. -/
def execWinOpen (q : Nat) (s : State) : Out :=
  match startable s q Op.winOpen with
  | some _ => startCmd s q Op.winOpen winOpenStep
  | none => when s.plaitUp s ((openingOf s q).foldl winOpenStep s)

def winCloseStep (s : State) (c : Cmd) : State :=
  let n := fld (c.word 2) 11 0
  let w := s.window n
  if w.state = 0 then succeed s c
  else wait_ (copyWindow (s.setWindow n { w with state := 2 }) n) c

/-- WIN_CLOSE (R413). -/
def execWinClose (q : Nat) (s : State) : Out := startCmd s q Op.winClose winCloseStep

/-- The WIN_CLOSE commands of a window. -/
def closersOf (s : State) (n : Nat) : List Cmd :=
  s.cp.table.filter (fun c => c.started && c.status.isNone && c.opcode == Op.winClose && fld (c.word 2) 11 0 == n)

/-- WINDOW_CLOSE_COMPLETE (R413): no access of a closing window is in flight any more. -/
def execWindowCloseComplete (n : Nat) (s : State) : Out :=
  let w := s.window n
  when (s.clocked && w.state == 2 && w.inflight == 0) s
    ((closersOf s n).foldl succeed (copyWindow (s.setWindow n {}) n))

/-- R412: the check of a remote access. -/
def windowAdmits (s : State) (n sender offset len : Nat) : Bool :=
  let w := s.window n
  s.sp.ready && w.state == 1 && (w.anySender || w.sender == sender) && offset + len ≤ w.length

/-- The device-physical pieces of a range of a window. -/
def windowPieces (s : State) (n offset len : Nat) : List (Nat × Nat) :=
  let w := s.window n
  (pagesOf offset len).map (fun p => (w.pages.getD (p.1 / 4096) 0 + p.1 % 4096, p.2))

/-! ### Misses (R388, R398 to R404) -/

/-- TRANSLATION (R388): an agent translates an address for an access of the command of queue `q` and tag that runs, or, for Plait
with no such command, for a packet fetch of the queue. -/
def execTranslation (agent ctx va : Nat) (write : Bool) (q tag word : Nat) (s : State) : Out :=
  let c := (s.ofQueue q).find? (fun c => c.started && c.status.isNone && c.tag == tag)
  if !s.plaitUp || 65 < agent || 63 < ctx || addressEnd ≤ va || (c.isNone && agent != 64) then .next s else
  .next (translate s ctx { agent := agent, queue := q, tag := tag, cmd := c.map (·.id), va := va, write := write, word := word }).1

/-- R388, R400: an access that waited is resolved again after a retry; on its sixteenth in a row it faults (R402). -/
def retryAccess (m : Miss) (s : State) (w : Waiter) : State :=
  if 16 ≤ w.retries + 1 then faultAccess s w St.xlateFault else
  match resolve s w.agent m.ctx w.va w.write true with
  | (s, .at _) => s
  | (s, .held) => holdOnHandle s w
  | (s, .fault) => faultAccess s w St.xlateFault
  | (s, .miss r) => waitOn s m.ctx w.va r { w with retries := if r = m.reason then w.retries + 1 else 0 }

/-- The entry of a request is freed (R398). -/
def freeMiss (s : State) (seq : Nat) : State :=
  sendWaiting { s with sp := { s.sp with misses := s.sp.misses.filter (fun m => !(m.sent && m.seq == seq)) } }

def outstandingMiss (s : State) (seq : Nat) : Option Miss := s.sp.misses.find? (fun m => m.sent && m.seq == seq)

/-- R400, R401: an answer that names no outstanding request. -/
def strayAnswer (s : State) (seq : Nat) : State :=
  if s.sp.timedOut.contains seq then
    { s with sp := { s.sp with late := satAdd 0xFF s.sp.late 1, timedOut := s.sp.timedOut.filter (fun t => t != seq) } }
  else { s with sp := { s.sp with unknown := satAdd 0xFF s.sp.unknown 1 } }

/-- R400: the answer of the host, as written to SP_MISS_ANSWER. -/
def answerMiss (s : State) (v : Word) : State :=
  let seq := fld v.toNat 15 0
  let code := fld v.toNat 17 16
  if 1 < code then { s with sp := { s.sp with unknown := satAdd 0xFF s.sp.unknown 1 } } else
  match outstandingMiss s seq with
  | none => strayAnswer s seq
  | some m =>
    let s := { s with sp := { s.sp with misses := s.sp.misses.filter (fun x => !(x.sent && x.seq == seq)) } }
    if code = 1 then sendWaiting (m.waiters.foldl (fun s w => faultAccess s w St.xlateFault) s)
    else
      let s := { s with sp := tlbDrop s.sp (fun e => e.ctx == m.ctx && e.vpn == m.page) }
      sendWaiting (m.waiters.foldl (retryAccess m) s)

/-- Whether the SP window takes accesses (R548). -/
def spOpen (s : State) : Bool := s.windowOpen 7

/-- MISS_RETRY (R400). -/
def execMissRetry (v : Word) (s : State) : Out := when (spOpen s && s.clocked) s (answerMiss s v)

/-- MISS_FAULT (R400). -/
def execMissFault (v : Word) (s : State) : Out := when (spOpen s && s.clocked) s (answerMiss s v)

/-- MISS_TIMEOUT (R401): 105,000 CCLK after the notification. -/
def execMissTimeout (seq : Nat) (s : State) : Out :=
  match outstandingMiss s seq with
  | none => .next s
  | some m =>
    if !s.clocked || s.cp.time < m.notified + 105000 then .next s else
    let s := { s with sp := { s.sp with
      misses := s.sp.misses.filter (fun x => !(x.sent && x.seq == seq)), timedOut := s.sp.timedOut ++ [seq] } }
    .next (sendWaiting (m.waiters.foldl (fun s w => faultAccess s w St.hostTimeout) s))

/-! ### Enable (R420) -/

/-- The W1C bits of SP_CTRL (R418). -/
def spClear (s : State) (v : Nat) : State :=
  { s with sp := { s.sp with enableErr := s.sp.enableErr && !bit v 3, badEntry := s.sp.badEntry && !bit v 4 } }

/-- SPLINT_ENABLE (R420): a write of 1 to enable. While enable is 1 it does nothing but its W1C bits (DESIGN CHOICE, log 153). -/
def execSplintEnable (v : Word) (s : State) : Out :=
  if !(spOpen s && bit v.toNat 0) then .next s else
  let s := spClear s v.toNat
  if s.sp.enable then .next s
  else if s.sp.mirrorBase + mirrorSize ≤ stackEnd && s.sp.missBase != 0 then
    .next { s with
      sp := { s.sp with enable := true, initBusy := true },
      mem := s.mem.zero s.sp.mirrorBase (s.sp.mirrorBase + mirrorSize) }
  else .next { s with sp := { s.sp with enableErr := true } }

/-- SPLINT_READY (R420). -/
def execSplintReady (s : State) : Out :=
  when (s.clocked && s.sp.enable && s.sp.initBusy) s { s with sp := { s.sp with initBusy := false, ready := true } }

/-- SPLINT_DISABLE (R420): a write of 0 to enable. While enable is 0 it does nothing but its W1C bits (DESIGN CHOICE, log 153). -/
def execSplintDisable (v : Word) (s : State) : Out :=
  if !(spOpen s && !bit v.toNat 0) then .next s else
  let s := spClear s v.toNat
  if !s.sp.enable then .next s
  else if (List.range 256).all (fun q => (s.queue q).st == .disabled) then
    .next { s with sp := { s.sp with
      enable := false, ready := false, initBusy := false, roots := [], windows := [], tlbs := [], mirrors := [] } }
  else .next { s with sp := { s.sp with enableErr := true } }

/-! ### The segment registers (R418, R419) -/

/-- R419: why a store through SP_SEG_CTRL is refused. -/
def storeRefused (s : State) : Bool :=
  let ctx := s.sp.selCtx
  (List.range 256).any (fun q => (s.queue q).cfg.xlCtx == ctx && (s.queue q).st != .disabled) ||
  (if s.sp.selRoot then (rootCheck s ctx s.sp.segTarget).isSome
   else (segmentCheck s ctx s.sp.selSegment s.sp.segVbase s.sp.segTarget s.sp.segLen).isSome)

/-- R419: a store, with the meaning of XL_MAP and no withdrawal. -/
def storeSegment (s : State) : State :=
  let ctx := s.sp.selCtx
  if storeRefused s then { s with sp := { s.sp with segRefused := true } }
  else if s.sp.selRoot then commitWithdraw s (.root ctx (if s.sp.segTarget = 0 then none else some s.sp.segTarget))
  else commitWithdraw s (.segment (ctx * 16 + s.sp.selSegment)
    (if s.sp.segLen = 0 then none else some ⟨s.sp.segVbase, s.sp.segTarget, s.sp.segLen⟩))

/-- R418: the load; a removed entry reads as zeros. -/
def loadSegment (s : State) : State :=
  let ctx := s.sp.selCtx
  let (b, t, l) :=
    if s.sp.selRoot then (0, (tget none s.sp.roots ctx).getD 0, 0)
    else match tget none s.sp.segments (ctx * 16 + s.sp.selSegment) with
      | some g => (g.vbase, g.target, g.length)
      | none => (0, 0, 0)
  { s with sp := { s.sp with segVbase := b, segTarget := t, segLen := l } }

/-- A write of SP_SEG_CTRL: the W1C bit, then the store, then the load (R419). -/
def segCtrl (s : State) (v : Nat) : State :=
  let s := { s with sp := { s.sp with segRefused := s.sp.segRefused && !bit v 2 } }
  let s := if bit v 0 then storeSegment s else s
  if bit v 1 then loadSegment s else s

/-- SEGMENT_STORE (R419). -/
def execSegmentStore (v : Word) (s : State) : Out := when (spOpen s && bit v.toNat 0) s (segCtrl s v.toNat)

/-- SEGMENT_LOAD (R418). -/
def execSegmentLoad (v : Word) (s : State) : Out := when (spOpen s && bit v.toNat 1) s (segCtrl s v.toNat)

/-- R412, R417: a remote access that fails its check. -/
def refuseAccess (s : State) : State := { s with sp := { s.sp with winRefused := satAdd 0xFFFFFFFF s.sp.winRefused 1 } }

end Sys2Proof.Machine
end

