-- ==== Sys2Proof/Machine/Coil.lean ====
section
/-! DEFINITION. Coil, the paged key and value cache (chapter 09): frames, page lists, the seven Coil commands, readers, uncorrectable
errors of its data, and initialisation. -/

namespace Sys2Proof.Machine

/-! ### Pages and frames (R317 to R319) -/

/-- R347: the head dimension and the frame size. -/
def Coil.dim (c : Coil) : Nat := [32, 64, 96, 128].getD c.headDim 32
def Coil.frameBytes (c : Coil) : Nat := 8192 * 2 ^ c.frameSize

/-- R317: the bytes of an element of a K/V format, of a token's row, and of half a page. -/
def kvElem (fmt : Nat) : Nat := if fmt = 2 then 2 else 1
def Coil.rowBytes (c : Coil) (fmt : Nat) : Nat := c.dim * kvElem fmt
def Coil.half (c : Coil) (fmt : Nat) : Nat := 64 * c.rowBytes fmt

/-- R318: where a frame lies. -/
def Coil.frameAddr (c : Coil) (p : PageRef) : Nat :=
  if p.tier = 1 then Machine.stakeBase + c.stakeBase + p.frame * c.frameBytes else c.stackBase + p.frame * c.frameBytes

/-- R319: the place of a frame among the reference counts: stake frames first. -/
def Coil.refKey (c : Coil) (p : PageRef) : Nat := if p.tier = 1 then p.frame else c.stakeCount + p.frame

def Coil.count (c : Coil) (p : PageRef) : Nat := tget 0 c.refs (c.refKey p)

/-- R319: each section of the metadata area starts on a 4 KiB boundary. -/
def up4k (n : Nat) : Nat := cdiv n 4096 * 4096

def Coil.stakeStackAt (c : Coil) : Nat := c.metaBase + up4k (2 * (c.stakeCount + c.stackCount))
def Coil.stackStackAt (c : Coil) : Nat := c.stakeStackAt + up4k (4 * c.stakeCount)
def Coil.listStackAt (c : Coil) : Nat := c.stackStackAt + up4k (4 * c.stackCount)
def Coil.blocksAt (c : Coil) : Nat := c.listStackAt + up4k (4 * c.listBlocks)
def Coil.metaEnd (c : Coil) : Nat := c.blocksAt + 1024 * c.listBlocks

/-! ### Free stacks (R326) -/

def FreeStack.size (x : FreeStack) : Nat := x.pushed.length + (x.total - x.fresh)

/-- Last in, first out; after initialisation the numbers come in ascending order. -/
def FreeStack.pop (x : FreeStack) : Nat × FreeStack :=
  match x.pushed with
  | n :: t => (n, { x with pushed := t })
  | [] => (x.fresh, { x with fresh := x.fresh + 1 })

def FreeStack.push (x : FreeStack) (n : Nat) : FreeStack := { x with pushed := n :: x.pushed }

/-- A frame of a pool is taken, with a count of 1. -/
def Coil.take (c : Coil) (stake : Bool) : PageRef × Coil :=
  let (n, f) := (if stake then c.freeStake else c.freeStack).pop
  let p : PageRef := ⟨if stake then 1 else 2, n⟩
  let c := if stake then { c with freeStake := f } else { c with freeStack := f }
  (p, { c with refs := tset 0 c.refs (c.refKey p) 1 })

/-- R326: a new frame comes from the stake pool while more than the reserve is free. -/
def Coil.takeNew (c : Coil) : PageRef × Coil := c.take (c.reserve < c.freeStake.size)

def Coil.takeNews : Nat → Coil → List PageRef × Coil
  | 0, c => ([], c)
  | n + 1, c =>
    let (p, c) := c.takeNew
    let (ps, c) := Coil.takeNews n c
    (p :: ps, c)

/-- R323: a reference is dropped; a frame whose count falls to 0 returns to its pool. -/
def Coil.drop (c : Coil) (p : PageRef) : Coil :=
  let n := c.count p - 1
  let c := { c with refs := tset 0 c.refs (c.refKey p) n }
  if n ≠ 0 then c
  else if p.tier = 1 then { c with freeStake := c.freeStake.push p.frame } else { c with freeStack := c.freeStack.push p.frame }

/-- Pages dropped in ascending page index, and the frames that this freed. -/
def Coil.dropAll (c : Coil) (ps : List PageRef) : Coil × Nat :=
  ps.foldl (fun (t : Coil × Nat) p => (t.1.drop p, t.2 + b2n (t.1.count p == 1))) (c, 0)

/-! ### Page lists (R321, R322, R326) -/

def takeBlocks : Nat → FreeStack → List Nat × FreeStack
  | 0, f => ([], f)
  | n + 1, f =>
    let (b, f) := f.pop
    let (bs, f) := takeBlocks n f
    (b :: bs, f)

/-- The blocks of a list that comes to hold `n` pages: none when too few are free. `rewrite` asks for a new block in place of the one
of a depth-0 list (R332). -/
def Coil.relist (c : Coil) (root : Option Nat) (blocks : List Nat) (n : Nat) (rewrite : Bool) : Option (Option Nat × List Nat × Coil) :=
  let k := cdiv n 256
  let deep := decide (256 < n)
  let fresh := rewrite && !deep
  let keep := if fresh then [] else blocks.take k
  let give := if fresh then blocks else blocks.drop k
  let newRoot := deep && root.isNone
  if c.freeList.size < b2n newRoot + (k - keep.length) then none else
  let (r, f) := if newRoot then (fun (x : Nat × FreeStack) => (some x.1, x.2)) c.freeList.pop else (root, c.freeList)
  let (bs, f) := takeBlocks (k - keep.length) f
  let gone := give ++ (if deep then [] else match root with | some b => [b] | none => [])
  some (if deep then r else none, keep ++ bs, { c with freeList := gone.foldl FreeStack.push f })

def Coil.desc (c : Coil) (n : Nat) : Desc := tget {} c.descs n
def Coil.setDesc (c : Coil) (n : Nat) (d : Desc) : Coil := { c with descs := tset {} c.descs n d }

/-- R321: the pages of a length. -/
def pagesFor (groups length : Nat) : Nat := groups * cdiv length 64

/-! ### The commands: what they name and check (R328 to R334, R342) -/

def Cmd.seq (c : Cmd) : Nat := fld (c.word 2) 19 0
def Cmd.child (c : Cmd) : Nat := fld (c.word 3) 19 0

def namedSeqs (c : Cmd) : List Nat := if c.opcode = Op.kvFork then [c.seq, c.child] else [c.seq]

/-- R334: a sequence that a command needs open. -/
def notOpen (d : Desc) : Option Nat := if d.state = 1 then none else if d.state = 0 then some 0x0201 else some 0x020F

/-- R322: the largest length of a sequence, with its capacity. -/
def lengthLimit (d : Desc) : Nat :=
  let most := 64 * (65536 / d.groups)
  if d.capacity = 0 then most else min most d.capacity

/-- The start-time checks that the descriptors decide. -/
def coilCheck (cl : Coil) (c : Cmd) : Option Nat :=
  let d := cl.desc c.seq
  match c.opcode with
  | 0x30 => if d.state != 0 then some 0x0202
      else if cl.frameBytes < 2 * cl.half (fld (c.word 3) 11 8) then some 0x020C else none
  | 0x31 => if d.state == 1 && d.pinned then some 0x0203 else none
  | 0x32 => notOpen d <|>
      (if [c.ref 4, c.ref 6].any (fun r => r.fmt != d.format || r.slot != 0) then some 0x0210
       else if lengthLimit d < d.length + fld (c.word 3) 15 0 then some 0x0204 else none)
  | 0x33 => notOpen d <|>
      (if (cl.desc c.child).state != 0 then some 0x0202 else if d.length < c.word 4 then some 0x0208 else none)
  | 0x34 => notOpen d <|> (if d.pinned then some 0x0203 else if d.length < c.word 3 then some 0x0207 else none)
  | 0x35 => notOpen d <|>
      (if d.pinned then some 0x0203 else if d.pages.length < c.word 3 + c.word 4 then some 0x020A else none)
  | _ => notOpen d

/-- The pages of the named sequence that a command looks at: from and to. -/
def pagesRead (cl : Coil) (c : Cmd) : Nat × Nat :=
  let d := cl.desc c.seq
  match c.opcode with
  | 0x31 => if d.state = 1 then (0, d.pages.length) else (0, 0)
  | 0x32 => (d.groups * (d.length / 64), d.pages.length)
  | 0x33 => (0, pagesFor d.groups (c.word 4))
  | 0x34 => (pagesFor d.groups (c.word 3), d.pages.length)
  | 0x35 => (c.word 3, c.word 3 + c.word 4)
  | _ => (0, 0)

/-- The pages from `lo` up to `hi`. -/
def pageSpan (d : Desc) (lo hi : Nat) : List PageRef := (d.pages.drop lo).take (hi - lo)

/-! ### The commands: what they change and move (R325 to R333) -/

/-- What a command commits, its count, and the data it moves first. -/
structure CoilPlan where
  cl : Coil
  count : Nat := 0
  moves : List Transfer := []
  deriving DecidableEq, Repr

/-- A frame copied whole. -/
def copyFrame (cl : Coil) (a b : PageRef) : Transfer := { src := .phys (cl.frameAddr a), dst := .phys (cl.frameAddr b), bytes := cl.frameBytes }

/-- R329, R317: the moves of token `t` of an append, for a group: its K row and its V row. -/
def appendMoves (cl : Coil) (c : Cmd) (ctx : Nat) (d : Desc) (pages : List PageRef) (t g : Nat) : List Transfer :=
  let row := cl.rowBytes d.format
  let tok := d.length + t
  let at_ := cl.frameAddr (pages.getD (tok / 64 * d.groups + g) {}) + tok % 64 * row
  let off := (t * d.groups + g) * row
  [{ src := .virt ctx ((c.ref 4).addr + off), dst := .phys at_, bytes := row, word := 4 },
   { src := .virt ctx ((c.ref 6).addr + off), dst := .phys (at_ + cl.half d.format), bytes := row, word := 6 }]

/-- The pages of a list with those of some indices replaced, in order. -/
def replacePages (ps : List PageRef) (idx : List Nat) (new : List PageRef) : List PageRef :=
  (idx.zip new).foldl (fun (l : List PageRef) p => l.set p.1 p.2) ps

/-- KV_APPEND: shared pages of the last block are copied, new pages taken, all in ascending page index (R326, R327). -/
def planAppend (cl : Coil) (c : Cmd) (ctx : Nat) : Except Nat CoilPlan :=
  let d := cl.desc c.seq
  let n := fld (c.word 3) 15 0
  let have_ := d.pages.length
  let total := pagesFor d.groups (d.length + n)
  let shared := ((List.range have_).drop (d.groups * (d.length / 64))).filter (fun i => 1 < cl.count (d.pages.getD i {}))
  let need := shared.length + (total - have_)
  if cl.freeStake.size - cl.reserve + cl.freeStack.size < need then .error 0x0205 else
  let (new, c1) := Coil.takeNews need cl
  let pages := replacePages d.pages shared new ++ new.drop shared.length
  let c1 := (c1.dropAll (shared.map (fun i => d.pages.getD i {}))).1
  match c1.relist d.root d.blocks total false with
  | none => .error 0x0206
  | some (root, blocks, c1) =>
    let copies := (shared.zip new).map (fun p => copyFrame cl (d.pages.getD p.1 {}) p.2)
    let rows := ((List.range n).map (fun t => ((List.range d.groups).map (appendMoves cl c ctx d pages t)).flatten)).flatten
    .ok ⟨c1.setDesc c.seq { d with length := d.length + n, pages := pages, root := root, blocks := blocks }, need, copies ++ rows⟩

/-- KV_FORK: the child names the parent's frames (R328, R330). -/
def planFork (cl : Coil) (c : Cmd) : Except Nat CoilPlan :=
  let d := cl.desc c.seq
  let ps := d.pages.take (pagesFor d.groups (c.word 4))
  if ps.any (fun p => 65535 ≤ cl.count p) then .error 0x0209 else
  match cl.relist none [] ps.length false with
  | none => .error 0x0206
  | some (root, blocks, c1) =>
    let c1 := { c1 with refs := ps.foldl (fun r p => tmod 0 r (cl.refKey p) (· + 1)) c1.refs }
    .ok ⟨c1.setDesc c.child
      { state := 1, groups := d.groups, format := d.format, capacity := d.capacity, length := c.word 4, pages := ps, root := root,
        blocks := blocks }, 0, []⟩

/-- KV_TRIM (R328, R331). -/
def planTrim (cl : Coil) (c : Cmd) : Except Nat CoilPlan :=
  let d := cl.desc c.seq
  let keep := pagesFor d.groups (c.word 3)
  let (c1, freed) := cl.dropAll (d.pages.drop keep)
  match c1.relist d.root d.blocks keep false with
  | none => .error 0x0206
  | some (root, blocks, c1) =>
    .ok ⟨c1.setDesc c.seq { d with length := c.word 3, pages := d.pages.take keep, root := root, blocks := blocks }, freed, []⟩

/-- SEQ_CLOSE: list blocks are pushed before the root (R326); a closed or damaged sequence ends closed with count 0 (R334, R342). -/
def planClose (cl : Coil) (c : Cmd) : CoilPlan :=
  let d := cl.desc c.seq
  if d.state ≠ 1 then ⟨cl.setDesc c.seq {}, 0, []⟩ else
  let (c1, freed) := cl.dropAll d.pages
  let gone := d.blocks ++ (match d.root with | some b => [b] | none => [])
  ⟨({ c1 with freeList := gone.foldl FreeStack.push c1.freeList } : Coil).setDesc c.seq {}, freed, []⟩

def Coil.takeMany (stake : Bool) : Nat → Coil → List PageRef × Coil
  | 0, c => ([], c)
  | n + 1, c =>
    let (p, c) := c.take stake
    let (ps, c) := Coil.takeMany stake n c
    (p :: ps, c)

/-- KV_EVICT (R326, R332): pages in the other pool that are not shared move. -/
def planEvict (cl : Coil) (c : Cmd) : Except Nat CoilPlan :=
  let d := cl.desc c.seq
  let stake := bit (c.word 5) 0
  let tier := if stake then 1 else 2
  let move := (List.range (c.word 4)).map (· + c.word 3) |>.filter (fun i =>
    (d.pages.getD i {}).tier != tier && cl.count (d.pages.getD i {}) == 1)
  if (if stake then cl.freeStake.size else cl.freeStack.size) < move.length then .error 0x020E else
  let (new, c1) := Coil.takeMany stake move.length cl
  let old := move.map (fun i => d.pages.getD i {})
  let c1 := (c1.dropAll old).1
  match c1.relist d.root d.blocks d.pages.length (!move.isEmpty) with
  | none => .error 0x0206
  | some (root, blocks, c1) =>
    .ok ⟨c1.setDesc c.seq { d with pages := replacePages d.pages move new, root := root, blocks := blocks }, move.length,
      (old.zip new).map (fun p => copyFrame cl p.1 p.2)⟩

/-- What a Coil command does (R328). -/
def coilPlan (cl : Coil) (c : Cmd) (ctx : Nat) : Except Nat CoilPlan :=
  match c.opcode with
  | 0x30 => .ok ⟨cl.setDesc c.seq
      { state := 1, groups := fld (c.word 3) 7 0, format := fld (c.word 3) 11 8, capacity := c.word 4 }, 0, []⟩
  | 0x31 => .ok (planClose cl c)
  | 0x32 => planAppend cl c ctx
  | 0x33 => planFork cl c
  | 0x34 => planTrim cl c
  | 0x35 => planEvict cl c
  | _ => .ok ⟨cl.setDesc c.seq { cl.desc c.seq with pinned := bit (c.word 3) 0 }, 0, []⟩

/-! ### The stored metadata (R319, R322) -/

def pageWord (p : PageRef) : Word := wd (p.frame + p.tier * 2 ^ 26)

/-- Writes the list blocks and the root block of a sequence. -/
def writeList (m : Memory) (cl : Coil) (d : Desc) : Memory :=
  let at_ (b : Nat) : Nat := cl.blocksAt + 1024 * b
  let fill (ws : List Word) : List Byte := wordBytes (ws ++ List.replicate (256 - ws.length) 0#32)
  let m := (d.blocks.zip (chunksOf 256 d.pages)).foldl
    (fun (m : Memory) p => m.writeBytes (at_ p.1) (fill (p.2.map pageWord))) m
  match d.root with
  | some r => m.writeBytes (at_ r) (fill (d.blocks.map (fun b => wd (b + 2 ^ 31))))
  | none => m

/-- The frames whose counts differ between two states of Coil. -/
def refChanges (a b : Coil) : List Nat :=
  (distinct (a.refs.map (·.1) ++ b.refs.map (·.1))).filter (fun k => tget 0 a.refs k != tget 0 b.refs k)

/-- The free stack sections that a commit changes. R326 does not place their entries: their content is free (log 37). -/
def stackChanges (a b : Coil) : List (Nat × Nat) :=
  (if a.freeStake != b.freeStake then [(a.stakeStackAt, 4 * a.stakeCount)] else []) ++
  (if a.freeStack != b.freeStack then [(a.stackStackAt, 4 * a.stackCount)] else []) ++
  (if a.freeList != b.freeList then [(a.listStackAt, 4 * a.listBlocks)] else [])

/-- Writes what a commit changes in the metadata area. -/
def storeMeta (m : Memory) (a b : Coil) (seqs : List Nat) : Memory :=
  let m := (refChanges a b).foldl (fun (m : Memory) k => m.writeBytes (a.metaBase + 2 * k) (Memory.leBytes 2 (tget 0 b.refs k))) m
  let m := (stackChanges a b).foldl (fun (m : Memory) r => m.undefine r.1 (r.1 + r.2)) m
  seqs.foldl (fun (m : Memory) n => writeList m b (b.desc n)) m

/-! ### Uncorrectable errors (R340, R341) -/

/-- R340: a sequence becomes damaged. The root block of a lost list is counted in CL_LEAKED as one list block more (DESIGN CHOICE, log 151). -/
def damageSeq (s : State) (n : Nat) : State :=
  let d := s.desc n
  let lost := d.pages.length + d.blocks.length + b2n d.root.isSome
  let s := s.setDesc n { state := 2 }
  { s with
    cl := { s.cl with
      damaged := satAdd 0xFFFFF s.cl.damaged 1, damageValid := true, damageSeq := n, leaked := satAdd 0x7FFFFFF s.cl.leaked lost },
    mem := s.mem.heal (coilLo + 64 * n) 64 }

/-- A descriptor that fails its check ends the command that meets it. -/
def descriptorLost (s : State) (id n : Nat) : State := damageSeq (eccEnd s id (coilLo + 64 * n)) n

/-- The stored entries of the pages of a list from `lo` up to `hi`, with those of the root block that lead to them. -/
def listRanges (cl : Coil) (d : Desc) (lo hi : Nat) : List (Nat × Nat) :=
  if hi ≤ lo then [] else
  (match d.root with | some r => [(cl.blocksAt + 1024 * r, 4 * d.blocks.length)] | none => []) ++
  (d.blocks.zip (List.range d.blocks.length)).filterMap (fun p =>
    let a := max lo (256 * p.2)
    let b := min hi (256 * p.2 + 256)
    if a < b then some (cl.blocksAt + 1024 * p.1 + 4 * (a - 256 * p.2), 4 * (b - a)) else none)

/-- R341: reference counts or a free stack are lost. -/
def metaLost (s : State) (id pa : Nat) : State :=
  let s := eccEnd s id pa
  { s with cl := { s.cl with metaFault := true, metaStack := stackOf pa } }

/-- What Coil meets where it reads descriptors: the first sequence whose descriptor fails its check. -/
def descsMeet (s : State) (seqs : List Nat) : State × Option Nat :=
  match readMeets s (seqs.map (fun n => (coilLo + 64 * n, 64))) with
  | (s, pa) => (s, pa.map (fun a => (a - coilLo) / 64))

/-- R341: a list block that fails damages the sequence; a count that fails is a fault of the metadata. Whether one failed. -/
def pagesLost (s : State) (id n : Nat) (d : Desc) (lo hi : Nat) (counts : Bool) : State × Bool :=
  match readMeets s (listRanges s.cl d lo hi) with
  | (s, some pa) => (if (s.desc n).state = 2 then eccEnd s id pa else damageSeq (eccEnd s id pa) n, true)
  | (s, none) =>
    if !counts then (s, false) else
    match readMeets s ((pageSpan d lo hi).map (fun p => (s.cl.metaBase + 2 * s.cl.refKey p, 2))) with
    | (s, some pa) => (metaLost s id pa, true)
    | (s, none) => (s, false)

/-- R345, R341: why Coil takes no command and no reader. -/
def coilClosed (s : State) : Option (Nat × Nat) :=
  if !s.cl.ready then some (St.planRejected, 0x020D)
  else if s.cl.metaFault then some (St.eccAbort, 2 * 2 ^ 12 + s.cl.metaStack)
  else none

/-! ### How Coil carries out its commands (R324, R325, R338) -/

/-- The Coil commands that run or wait, in the order of their start. -/
def coilCmds (s : State) : List Cmd :=
  s.cl.busy.filterMap (fun id => match s.cmd? id with | some c => if c.status.isNone then some c else none | none => none)

/-- CL_STATUS.coil_busy. -/
def coilBusy (s : State) : Bool := !(coilCmds s).isEmpty

def coilWait (s : State) (c : Cmd) : State := s.mapCmd c.id (fun c => { c with run := .coilWait })

/-- R338: the command must wait for readers that started before it. -/
def heldByReaders (s : State) (c : Cmd) : Bool :=
  (c.opcode == Op.seqClose || c.opcode == Op.kvTrim || c.opcode == Op.kvEvict) && (s.desc c.seq).readers != 0

/-- The K/V streamers (R365). -/
def kvStreamers : List Nat := [0, 1, 2, 3, 60, 61, 62, 63]

/-- R325: the commit. -/
def coilCommit (s : State) (c : Cmd) (p : CoilPlan) : State :=
  decideStatus { s with cl := p.cl, mem := storeMeta s.mem s.cl p.cl (namedSeqs c) } c.id St.ok 0 p.count

/-- The plan of a command whose checks pass; an error of stored metadata or a failed check ends it. -/
def withPlan (s : State) (c : Cmd) (f : State → CoilPlan → State) : State :=
  match coilPlan s.cl c (ctxOf s c) with
  | .error d => reject s c d
  | .ok p =>
    match readMeets s ((refChanges s.cl p.cl).map (fun k => (s.cl.metaBase + 2 * k, 2)) ++ stackChanges s.cl p.cl) with
    | (s, some pa) => metaLost s c.id pa
    | (s, none) => f s p

/-- The command at the front: its checks, its waits, its data and its commit. -/
def coilGo (s : State) (c : Cmd) : State :=
  match coilClosed s with
  | some (code, d) => failCommand s c.id code d
  | none =>
  match descsMeet s (namedSeqs c) with
  | (s, some n) => descriptorLost s c.id n
  | (s, none) =>
  match coilCheck s.cl c with
  | some d => reject s c d
  | none =>
  if heldByReaders s c then coilWait s c else
  let (lo, hi) := pagesRead s.cl c
  match pagesLost s c.id c.seq (s.desc c.seq) lo hi true with
  | (s, true) => s
  | (s, false) =>
  withPlan s c (fun s p =>
    if p.moves.isEmpty then coilCommit s c p else
    match fewestOf s kvStreamers with
    | some n => (openChannel s n { cmd := c.id, queued := p.moves }).mapCmd c.id (fun c => { c with run := .coilMove })
    | none => coilWait s c)

/-- R325: the data of a command has moved; it commits. A sequence that became damaged meanwhile (R340) ends it (log 118). -/
def coilMoved (s : State) (c : Cmd) : State :=
  match coilCheck s.cl c with
  | some d => reject s c d
  | none => withPlan s c (coilCommit · c)

/-- A Coil command starts: it runs at once when no other runs or waits (R324). -/
def coilEnter (s : State) (c : Cmd) : State :=
  let live := (coilCmds s).map (·.id)
  let s := { s with cl := { s.cl with busy := live ++ [c.id] } }
  if live.isEmpty then coilGo s c else coilWait s c

/-- The row of a Coil command: it starts the command of a queue, and otherwise looks again at the front one if it is that. -/
def coilRow (s : State) (q op : Nat) : Out :=
  match startable s q op with
  | some c => .next (coilEnter (begin_ s c) (begun s c))
  | none =>
    match (coilCmds s).head? with
    | some c => when (s.running && c.queue == q && c.opcode == op && c.run == .coilWait) s (coilGo s c)
    | none => .next s

/-- SEQ_OPEN (R328). -/
def execSeqOpen (q : Nat) (s : State) : Out := coilRow s q Op.seqOpen
/-- SEQ_CLOSE (R328, R338, R342). -/
def execSeqClose (q : Nat) (s : State) : Out := coilRow s q Op.seqClose
/-- KV_APPEND (R327, R329). -/
def execKvAppend (q : Nat) (s : State) : Out := coilRow s q Op.kvAppend
/-- KV_FORK (R328, R330). -/
def execKvFork (q : Nat) (s : State) : Out := coilRow s q Op.kvFork
/-- KV_TRIM (R331). -/
def execKvTrim (q : Nat) (s : State) : Out := coilRow s q Op.kvTrim
/-- KV_EVICT (R332). -/
def execKvEvict (q : Nat) (s : State) : Out := coilRow s q Op.kvEvict
/-- KV_PIN (R333). -/
def execKvPin (q : Nat) (s : State) : Out := coilRow s q Op.kvPin

/-! ### Readers (R335 to R339) -/

/-- R335: a Coil command that runs or waits names one of the sequences. -/
def readerBlocked (s : State) (seqs : List Nat) : Bool := (coilCmds s).any (fun c => (namedSeqs c).any seqs.contains)

/-- R106 and R336: formats of a legal pair. -/
def legalCodes (a b : Nat) : Bool := (a ≤ 1 && b ≤ 1) || (a == 2 && b == 2)

/-- R336: what a reader's sequence must suit. -/
structure Suits where
  groups : Nat
  headDim : Nat
  qFmt : Nat
  pFmt : Nat
  deriving DecidableEq, Repr

/-- The first failing check of a reader's sequences. -/
def readerCheck (cl : Coil) (seqs : List Nat) (w : Suits) : Option Nat :=
  seqs.findSome? (fun n =>
    let d := cl.desc n
    notOpen d <|>
      (if d.groups != w.groups || cl.dim != w.headDim || !legalCodes d.format w.qFmt || !legalCodes d.format w.pFmt ||
          d.format != (cl.desc (seqs.headD 0)).format then some 0x020B else none))

/-- R335: the readers counts rise and the lengths are recorded. A count saturates at 0xFFFF, and every hold is given back (DESIGN CHOICE,
log 150). -/
def takeReaders (s : State) (seqs : List Nat) : State × List Snapshot :=
  (seqs.foldl (fun (s : State) n => s.setDesc n { s.desc n with readers := satAdd 0xFFFF (s.desc n).readers 1 }) s,
   seqs.map (fun n => ⟨n, (s.desc n).length, s.desc n⟩))

/-- What a reader's start gives: snapshots, or it waits, or it has ended. -/
def readerStart (s : State) (c : Cmd) (seqs : List Nat) (w : Suits) : State × Option (List Snapshot) :=
  match coilClosed s with
  | some (code, d) => (failCommand s c.id code d, none)
  | none =>
  match descsMeet s seqs with
  | (s, some n) => (descriptorLost s c.id n, none)
  | (s, none) =>
  match readerCheck s.cl seqs w with
  | some d => (reject s c d, none)
  | none => (fun (x : State × List Snapshot) => (x.1, some x.2)) (takeReaders s seqs)

/-- R339: the page entry of a token block for a group, with the slots in bounds below the snapshot. -/
def pageEntry (cl : Coil) (d : Desc) (group block snapshot : Nat) : PageEntry :=
  ⟨block, cl.frameAddr (d.pages.getD (block * d.groups + group) {}), min 64 (snapshot - 64 * block)⟩

/-- The descriptor that a reader works by: the current one, or, once the sequence is damaged, that of its start (R340). -/
def readerDesc (s : State) (n : Snapshot) : Desc := if (s.desc n.seq).state = 1 then s.desc n.seq else n.desc

/-! ### Initialisation (R343 to R345) -/

/-- R344, R56: a Coil command or a reader is accepted and not retired. -/
def coilInFlight (s : State) : Bool :=
  s.cp.table.any (fun c => (Op.seqOpen ≤ c.opcode && c.opcode ≤ Op.kvPin) || c.opcode == Op.attnDecode ||
    (c.opcode == Op.attnFwd && bit (c.word 15) 0))

/-- R344: why an initialisation is refused. -/
def initRefused (s : State) : Bool :=
  let c := s.cl
  let f := c.frameBytes
  coilInFlight s || c.initBusy ||
  (c.stakeCount != 0 && keepLo < Machine.stakeBase + c.stakeBase + c.stakeCount * f) ||
  (c.stackCount != 0 && stackEnd < c.stackBase + c.stackCount * f) ||
  (c.stackCount != 0 && rangesMeet (c.stackBase, c.stackCount * f) (c.metaBase, c.metaEnd - c.metaBase)) ||
  stackEnd < c.metaEnd || 2 ^ 26 < c.stakeCount + c.stackCount || c.stakeCount + c.stackCount == 0 || c.listBlocks == 0 ||
  c.stakeBase % f != 0 || c.stackBase % f != 0 || c.metaBase % 4096 != 0

/-- COIL_INIT (R344): a write of 1 to init. -/
def execCoilInit (v : Word) (s : State) : Out :=
  if !(s.windowOpen 6 && bit v.toNat 0) then .next s
  else if initRefused s then .next { s with cl := { s.cl with initErr := true } }
  else .next { s with
    cl := { s.cl with initBusy := true, ready := false, descs := [], refs := [] },
    mem := s.mem.zero coilLo coilHi }

/-- COIL_INIT_DONE (R344): the counts are zero, the free stacks full, and Coil is ready. -/
def execCoilInitDone (s : State) : Out :=
  let c := s.cl
  when (s.clocked && c.initBusy) s { s with
    cl := { c with
      initBusy := false, ready := true, metaFault := false, metaStack := 0, damaged := 0, damageValid := false, damageSeq := 0,
      leaked := 0, descs := [], refs := [], busy := [], freeStake := ⟨[], 0, c.stakeCount⟩, freeStack := ⟨[], 0, c.stackCount⟩,
      freeList := ⟨[], 0, c.listBlocks⟩ },
    mem := (s.mem.zero c.metaBase (c.metaBase + 2 * (c.stakeCount + c.stackCount))).undefine c.stakeStackAt c.metaEnd }

/-- The words of a descriptor (R320). -/
def descWords (d : Desc) : List Word :=
  let tier (n : Nat) : Nat := (d.pages.filter (fun p => p.tier == n)).length
  let top : Nat := match d.root with | some r => r | none => d.blocks.headD 0
  [wd (d.state + b2n d.pinned * 4 + b2n d.root.isSome * 8 + d.groups * 2 ^ 8 + d.format * 2 ^ 16), wd d.length, wd d.capacity, wd d.readers,
   wd (top + b2n (!d.pages.isEmpty) * 2 ^ 31), wd d.pages.length, wd (tier 1), wd (tier 2)] ++ List.replicate 8 0#32

/-- A word of the Coil region as a management read sees it: the sequence table while Coil is ready (R320), else the stored bytes. -/
def coilRegionWord (s : State) (pa : Nat) : Word :=
  if s.cl.ready then (descWords (s.desc ((pa - coilLo) / 64))).getD ((pa - coilLo) % 64 / 4) 0#32
  else wd (s.mem.readNat pa 4)

/-- CL_OPEN_COUNT. -/
def openCount (s : State) : Nat := (s.cl.descs.filter (fun p => p.2.state == 1)).length

end Sys2Proof.Machine
end

