-- ==== Sys2Proof/Machine/Stake.lean ====
section
/-! DEFINITION. Stake memory and the base controllers (chapter 10): atomic operations, ring configuration, management access, scrubbing and stored errors. -/

namespace Sys2Proof.Machine

/-! ### Atomic operations (R354) -/

/-- Whether a bank performs an atomic operation on the line at an address. -/
def atomicAt (s : State) (pa : Nat) : Bool := s.running && regionOf pa == .stake && pa % 64 == 0

/-- ADD_F32: each element of the line becomes the sum of old and new. -/
def addLine (s : State) (pa : Nat) (vals : List Word) : State :=
  let old := wordsOf (s.mem.readBytes pa 64)
  let r := (old.zip vals).map (fun p => arrayAdd p.1 p.2)
  raiseFlags { s with mem := s.mem.writeBytes pa (wordBytes (r.map (·.1))) } (r.foldl (fun f x => f.or x.2) Sticky.none)

/-- An atomic operation, whose read may meet a failing line (R380: it is then not made). -/
def atomic (s : State) (pa : Nat) (f : State → State) : State :=
  match readMeets s [(pa, 64)] with
  | (s, some _) => recordUncorr s pa
  | (s, none) => f s

/-- ADD_F32 (R354). -/
def execAddF32 (pa : Nat) (vals : List Word) (s : State) : Out := when (atomicAt s pa) s (atomic s pa (addLine · pa vals))

/-- TEST_SET (R354): sets a bit of the line and returns the old one. -/
def execTestSet (pa b : Nat) (s : State) : Out :=
  let a := pa + b % 512 / 8
  let old := s.mem.read a
  when (atomicAt s pa && b < 512) s (atomic s pa (fun s => { s with
    mem := s.mem.write a (old ||| (1#8 <<< (b % 8))), st := { s.st with atomic := wd (b2n (bit old.toNat (b % 8))) } }))

/-- INC32 (R354): adds 1 to a word of the line and returns the old word. -/
def execInc32 (pa w : Nat) (s : State) : Out :=
  let a := pa + 4 * (w % 16)
  let old := wd (s.mem.readNat a 4)
  when (atomicAt s pa && w < 16) s (atomic s pa (fun s => { s with
    mem := s.mem.writeBytes a (Memory.leBytes 4 (old + 1#32).toNat), st := { s.st with atomic := old } }))

/-! ### Ring configuration (R358) -/

/-- A ring size comes into force, which flushes the verification cache. -/
def applyRing (s : State) (n : Nat) : State :=
  { s with st := { s.st with ringSize := n, pending := none }, cp := { s.cp with cache := [] } }

/-- ST_RING_CFG_WRITE (R358, R383): held while CP_TABLE_USE is nonzero. -/
def execStRingCfgWrite (v : Word) (s : State) : Out :=
  let n := fld v.toNat 1 0
  when (s.windowOpen 3) s (if s.cp.table.isEmpty then applyRing s n else { s with st := { s.st with pending := some n } })

/-- RING_CFG_APPLY (R358): CP_TABLE_USE reads 0. -/
def execRingCfgApply (s : State) : Out :=
  match s.st.pending with
  | some n => when (s.clocked && s.cp.table.isEmpty) s (applyRing s n)
  | none => .next s

/-! ### Management access to stake (R29, R381 to R383, R548) -/

/-- The response of an access. -/
def respond (s : State) (code : Resp) (data : Word) : State := { s with bus := ⟨code, data⟩ }

/-- R383: a management write that is dropped. -/
def stakeWriteDropped (s : State) (pa : Nat) : Bool :=
  (inCoil pa && (s.cl.ready || s.cl.initBusy)) ||
  (inReduce pa && s.cp.table.any (fun c => c.opcode == Op.allreduce || c.opcode == Op.allreduceV))

/-- The offset advances by one word. -/
def advanceMaddr (s : State) : State := { s with st := { s.st with offset := (s.st.offset + 4) % 2 ^ 31 } }

/-- What a write of ST_MDATA does. -/
def stakeWrite (s : State) (v : Word) : State :=
  let pa := stakeBase + s.st.offset
  if 0x5FFFFFFC < s.st.offset then respond s .error 0#32
  else if stakeWriteDropped s pa then respond (advanceMaddr { s with st := { s.st with wrRefused := true } }) .ok 0#32
  else match writeMeets s [(pa, 4)] (Memory.leBytes 4 v.toNat) with
    | (s, some _) => respond (recordUncorr s pa) .error 0#32
    | (s, none) => respond (advanceMaddr s) .ok 0#32

/-- What a read of ST_MDATA does. -/
def stakeRead (s : State) : State :=
  let pa := stakeBase + s.st.offset
  if 0x5FFFFFFC < s.st.offset then respond s .error 0#32
  else match readMeets s [(pa, 4)] with
    | (s, some _) => respond (recordUncorr s pa) .error 0#32
    | (s, none) => respond (advanceMaddr s) .ok (if inCoil pa then coilRegionWord s pa else wd (s.mem.readNat pa 4))

/-- ST_MDATA_WRITE (R382). -/
def execStMdataWrite (v : Word) (s : State) : Out := when (s.windowOpen 3) s (stakeWrite s v)

/-- ST_MDATA_READ (R377, R382). -/
def execStMdataRead (f : Finding) (s : State) : Out :=
  when (s.windowOpen 3) s (stakeRead (if 0x5FFFFFFC < s.st.offset then s else meetAt s (stakeBase + s.st.offset) f))

/-- MANAGEMENT_STAKE_WAIT_EXPIRY (R29, R548): the access that waits for a bank cycle ends with the busy response and no effect. -/
def execManagementStakeWaitExpiry (s : State) : Out := when (s.windowOpen 3) s (respond s .busy 0#32)

/-! ### Scrubbing and the base controllers (R375 to R378) -/

/-- SCRUB (R378): the scrubber of a bank reads one line. -/
def execScrub (bank row : Nat) (f : Finding) (s : State) : Out :=
  let pa := stakeBase + stakeOffset bank row
  let r := readMeets (meetAt s pa f) [(pa, 64)]
  when (s.clocked && s.st.scrubEnable && bank < 768 && row < 32768) s
    (if r.2.isSome then { r.1 with st := { r.1.st with scrubUncorr := true, eccBank := bank, eccRow := row } } else r.1)

/-- R375: the refresh rate of a temperature. -/
def refreshOf (t : Nat) : Nat := if 95 < t then 2 else if 85 < t then 1 else 0

/-- R496: Border will take a protective Park; the first cause stands. -/
def parkFor (s : State) (place reason : Nat) : State :=
  if s.bd.power == .park || s.bd.power == .off then s
  else { s with bd := { s.bd with parkDue := s.bd.parkDue <|> some (place, reason) } }

/-- STACK_TEMP_READ (R375, R496). -/
def execStackTempRead (n t : Nat) (s : State) : Out :=
  let s1 := s.setBase n { s.base n with temp := t, hot := 100 < t, refresh := refreshOf t }
  when (n < 32 && t < 256 && s.bd.power != .park && s.bd.power != .off && s.clocked) s (if 105 ≤ t then parkFor s1 n 3 else s1)

/-- The channels with a transfer under way on an address: streamer, command, and whether the transfer reads there. -/
def channelsOn (s : State) (pa : Nat) : List (Nat × Nat × Bool) :=
  let on (ps : List (Nat × Nat)) : Bool := ps.any (fun r => r.1 ≤ pa && pa < r.1 + r.2)
  (s.sk.map (fun p => (p.2.channels.filter (fun c => c.moving.any (fun m => on (m.src ++ m.dst)))).map (fun c =>
    (p.1, c.cmd, c.moving.any (fun m => on m.src))))).flatten

/-- PARITY_RETRY (R376): an access to a stack fails its parity check. It is repeated twice; the third failure is an uncorrectable
error of that access. It ends the commands whose transfers make it, and stops a channel that reads (R384); where no transfer does, the access
is the next one that a unit makes there (log 119). -/
def execParityRetry (n pa : Nat) (s : State) : Out :=
  let b := s.base n
  let at_ := lineOf pa
  let k := tget 0 b.repeats at_
  let on := channelsOn s pa
  when (s.clocked && n < 32 && pa < stackEnd && stackOf pa == n) s
    (if k < 2 then s.setBase n { b with retries := satAdd 0xFF b.retries 1, repeats := tset 0 b.repeats at_ (k + 1) }
     else
      let s := s.setBase n { b with uncorr := true, eccAddr := at_, repeats := tdel b.repeats at_ }
      if on.isEmpty then { s with mem := { s.mem with once := addNew s.mem.once at_ } } else
      on.foldl (fun (s : State) p =>
        failCommand (if p.2.2 then s.setStreamer p.1 { s.streamer p.1 with eccStop := true } else s) p.2.1 St.eccAbort (eccDetail pa)) s)

end Sys2Proof.Machine
end

