-- ==== Sys2Proof/Machine/RibRows.lean ====
section
/-! DEFINITION. The rows of a rib: its instructions one by one (R242 to R244), the loading and switching of program banks (R246, R248) and
the exchange of its seed buffers (R256, R257, R274). -/

namespace Sys2Proof.Machine

/-! ### What a rib's programs see -/

/-- The command whose tile a rib holds, or else whose programs it holds. -/
def ribCmd (x : Rib) : Nat :=
  match x.landing, x.work with
  | t :: _, _ => t.cmd
  | [], some w => w.cmd
  | [], none => (tget {} x.banks (b2n x.bank)).cmd

/-- The Compute of a command, wherever it runs. -/
def workOf (c : Cmd) : Compute := (computeOf c.run).getD {}

/-- R183: the sequence value of the dropout mask. A ring sweep takes that of its ring table (R441). -/
def dropSeq (s : State) (c : Cmd) : Nat :=
  if c.opcode = Op.ringSweep then fld (tw (tget [] s.hp.rings (fld (c.word 15) 7 0)) 4) 19 0
  else if c.opcode = Op.attnFwd && bit (c.word 15) 0 then fld (c.word 6) 19 0 else 0

/-- R183: the dropout threshold in force: 0 where dropout is off. -/
def dropThreshold (c : Cmd) : Nat :=
  let on := if c.opcode = Op.ringSweep then bit (c.word 15) 9
    else (c.opcode == Op.attnFwd || c.opcode == Op.attnBwd) && bit (c.word 15) 1
  if on then fld ((workOf c).s 34) 23 0 else 0

def dropSeed (c : Cmd) : DWord := BitVec.ofNat 64 (tw (workOf c).args 5 + 2 ^ 32 * tw (workOf c).args 6)

/-- nan_on_overflow (R104): of CONVERT the packet's, otherwise the active set's. -/
def nanOnOverflow (s : State) (c : Cmd) : Bool :=
  if c.opcode = Op.convert then bit (c.word 11) 18 else s.active.fp8OvfNan % 2 == 1

/-- Whether a command runs in Burnoeg compatibility mode (R292). -/
def burnoeg (s : State) (c : Cmd) : Bool := (s.queue c.queue).cfg.burnoeg

/-- What the programs of a command see on a rib, from a bank. -/
def envFor (s : State) (c : Cmd) (a : Nat) (b : Bank) (slot : Nat) : RibEnv :=
  { rib := a, pFmt := Format.ofCode (workOf c).pFmt, compat := burnoeg s c, nanOnOvf := nanOnOverflow s c, pool := b.pool, aux := b.aux,
    seed := dropSeed c, seq := dropSeq s c, threshold := dropThreshold c, slot := slot }

/-- The bank of a rib that holds a command's programs; an empty one where the step has none. -/
def Rib.bankOf (x : Rib) (id : Nat) : Bank := ((x.banks.find? (fun p => p.2.cmd == id)).map (·.2)).getD { cmd := id }

def Rib.hasBank (x : Rib) (id : Nat) : Bool := x.banks.any (fun p => p.2.cmd == id)

/-- What the beat in hand of a rib sees. -/
def envOf (s : State) (a : Nat) : RibEnv :=
  let x := s.ribOf a
  envFor s ((s.cmd? (ribCmd x)).getD {}) a (x.bankOf (ribCmd x)) ((x.landing.head?.map (·.slot)).getD 0)

/-- The detail of TILE_ILLEGAL (R293). -/
def tileDetail (cause v : Nat) : Nat := cause * 2 ^ 12 + v

/-- What an array and its rib hold of a command is given up. -/
def clearOn (s : State) (id a : Nat) : State :=
  let x := s.array a
  let keep (t : Option Tile) : Option Tile := t.filter (fun t => t.cmd != id)
  let mine := x.work.filter (fun w => w.cmd == id)
  let s := s.setArray a { x with
    work := x.work.filter (fun w => w.cmd != id), ending := x.ending.filter (fun w => w.cmd != id), acc0 := keep x.acc0,
    acc1 := keep x.acc1, latch := keep x.latch }
  let y := s.ribOf a
  let first : Bool := y.landing.head?.map (·.cmd) == some id || y.work.map (·.cmd) == some id
  let strip := y.work.filter (fun w => w.cmd == id)
  let s := s.setRib a { (if first then y.freed else y) with landing := y.landing.filter (fun t => t.cmd != id) }
  ([mine, strip].filterMap (fun w => w)).foldl (fun s w => leaveRings s a w) s

/-- TILE_ILLEGAL ends a command (R293, R295): the tile at fault, on array or rib `v` but for cause 1, is given up, the others end at their
boundaries. -/
def tileIllegal (s : State) (id cause v : Nat) : State :=
  stopCommand (if cause = 1 then s else clearOn s id v) id St.tileIllegal (tileDetail cause v)

/-! ### Instructions -/

/-- Whether a rib works. -/
def ribOn (s : State) (a : Nat) : Bool := s.running && a < 32

/-- An instruction on the registers of the beat in hand, with the flags of R273. An illegal one ends the command (R245, R293). -/
def ribRow (a op : Nat) (x : RibArgs) (s : State) : Out :=
  when (ribOn s a) s (
    if legalInst op x then
      let r := ribOp (envOf s a) op x (s.ribOf a)
      raiseSlotFlags (s.setRib a r.1) (envOf s a).slot r.2
    else tileIllegal s (ribCmd (s.ribOf a)) 4 a)

/-- RIB_NOP (R244). -/
def execRibNop (a : Nat) (x : RibArgs) (s : State) : Out := ribRow a 0x00 x s
/-- MOV (R244). -/
def execMov (a : Nat) (x : RibArgs) (s : State) : Out := ribRow a 0x01 x s
/-- SEL (R244). -/
def execSel (a : Nat) (x : RibArgs) (s : State) : Out := ribRow a 0x02 x s
/-- LDB (R244). -/
def execLdb (a : Nat) (x : RibArgs) (s : State) : Out := ribRow a 0x03 x s
/-- STB (R244). -/
def execStb (a : Nat) (x : RibArgs) (s : State) : Out := ribRow a 0x04 x s
/-- KONST (R244). -/
def execKonst (a : Nat) (x : RibArgs) (s : State) : Out := ribRow a 0x05 x s
/-- ROWV (R244). -/
def execRowv (a : Nat) (x : RibArgs) (s : State) : Out := ribRow a 0x06 x s
/-- COLV (R244). -/
def execColv (a : Nat) (x : RibArgs) (s : State) : Out := ribRow a 0x07 x s
/-- LANEIDX (R244). -/
def execLaneidx (a : Nat) (x : RibArgs) (s : State) : Out := ribRow a 0x08 x s
/-- LSWP (R244). -/
def execLswp (a : Nat) (x : RibArgs) (s : State) : Out := ribRow a 0x09 x s
/-- FADD (R244). -/
def execFadd (a : Nat) (x : RibArgs) (s : State) : Out := ribRow a 0x10 x s
/-- FSUB (R244). -/
def execFsub (a : Nat) (x : RibArgs) (s : State) : Out := ribRow a 0x11 x s
/-- FMUL (R244). -/
def execFmul (a : Nat) (x : RibArgs) (s : State) : Out := ribRow a 0x12 x s
/-- FFMA (R244). -/
def execFfma (a : Nat) (x : RibArgs) (s : State) : Out := ribRow a 0x13 x s
/-- FDIV (R244). -/
def execFdiv (a : Nat) (x : RibArgs) (s : State) : Out := ribRow a 0x14 x s
/-- FSQRT (R244). -/
def execFsqrt (a : Nat) (x : RibArgs) (s : State) : Out := ribRow a 0x15 x s
/-- FMIN (R244). -/
def execFmin (a : Nat) (x : RibArgs) (s : State) : Out := ribRow a 0x16 x s
/-- FMAX (R244). -/
def execFmax (a : Nat) (x : RibArgs) (s : State) : Out := ribRow a 0x17 x s
/-- FCMP (R244). -/
def execFcmp (a : Nat) (x : RibArgs) (s : State) : Out := ribRow a 0x18 x s
/-- FSGN (R244). -/
def execFsgn (a : Nat) (x : RibArgs) (s : State) : Out := ribRow a 0x19 x s
/-- FSCALE (R244). -/
def execFscale (a : Nat) (x : RibArgs) (s : State) : Out := ribRow a 0x1A x s
/-- FEXPO (R244). -/
def execFexpo (a : Nat) (x : RibArgs) (s : State) : Out := ribRow a 0x1B x s
/-- FCVT (R244). -/
def execFcvt (a : Nat) (x : RibArgs) (s : State) : Out := ribRow a 0x1C x s
/-- DADD (R244). -/
def execDadd (a : Nat) (x : RibArgs) (s : State) : Out := ribRow a 0x20 x s
/-- DSUB (R244). -/
def execDsub (a : Nat) (x : RibArgs) (s : State) : Out := ribRow a 0x21 x s
/-- DMUL (R244). -/
def execDmul (a : Nat) (x : RibArgs) (s : State) : Out := ribRow a 0x22 x s
/-- DFMA (R244). -/
def execDfma (a : Nat) (x : RibArgs) (s : State) : Out := ribRow a 0x23 x s
/-- DDIV (R244). -/
def execDdiv (a : Nat) (x : RibArgs) (s : State) : Out := ribRow a 0x24 x s
/-- DSQRT (R244). -/
def execDsqrt (a : Nat) (x : RibArgs) (s : State) : Out := ribRow a 0x25 x s
/-- DCMP (R244). -/
def execDcmp (a : Nat) (x : RibArgs) (s : State) : Out := ribRow a 0x26 x s
/-- TURN (R244). -/
def execTurn (a : Nat) (x : RibArgs) (s : State) : Out := ribRow a 0x27 x s
/-- IADD (R244). -/
def execIadd (a : Nat) (x : RibArgs) (s : State) : Out := ribRow a 0x28 x s
/-- ISUB (R244). -/
def execIsub (a : Nat) (x : RibArgs) (s : State) : Out := ribRow a 0x29 x s
/-- IMUL (R244). -/
def execImul (a : Nat) (x : RibArgs) (s : State) : Out := ribRow a 0x2A x s
/-- IAND (R244). -/
def execIand (a : Nat) (x : RibArgs) (s : State) : Out := ribRow a 0x2B x s
/-- IOR (R244). -/
def execIor (a : Nat) (x : RibArgs) (s : State) : Out := ribRow a 0x2C x s
/-- IXOR (R244). -/
def execIxor (a : Nat) (x : RibArgs) (s : State) : Out := ribRow a 0x2D x s
/-- ISH (R244). -/
def execIsh (a : Nat) (x : RibArgs) (s : State) : Out := ribRow a 0x2E x s
/-- ICMP (R244). -/
def execIcmp (a : Nat) (x : RibArgs) (s : State) : Out := ribRow a 0x2F x s
/-- EXP (R244). -/
def execExp (a : Nat) (x : RibArgs) (s : State) : Out := ribRow a 0x30 x s
/-- EXP2 (R244). -/
def execExp2 (a : Nat) (x : RibArgs) (s : State) : Out := ribRow a 0x31 x s
/-- LOG2 (R244). -/
def execLog2 (a : Nat) (x : RibArgs) (s : State) : Out := ribRow a 0x32 x s
/-- RCP (R244). -/
def execRcp (a : Nat) (x : RibArgs) (s : State) : Out := ribRow a 0x33 x s
/-- RSQRT (R244). -/
def execRsqrt (a : Nat) (x : RibArgs) (s : State) : Out := ribRow a 0x34 x s
/-- TANH (R244). -/
def execTanh (a : Nat) (x : RibArgs) (s : State) : Out := ribRow a 0x35 x s
/-- SINT (R244). -/
def execSint (a : Nat) (x : RibArgs) (s : State) : Out := ribRow a 0x36 x s
/-- COST (R244). -/
def execCost (a : Nat) (x : RibArgs) (s : State) : Out := ribRow a 0x37 x s
/-- GACT (R244). -/
def execGact (a : Nat) (x : RibArgs) (s : State) : Out := ribRow a 0x38 x s
/-- WEXP (R244). -/
def execWexp (a : Nat) (x : RibArgs) (s : State) : Out := ribRow a 0x39 x s
/-- WLOG (R244). -/
def execWlog (a : Nat) (x : RibArgs) (s : State) : Out := ribRow a 0x3A x s
/-- RSUM (R244). -/
def execRsum (a : Nat) (x : RibArgs) (s : State) : Out := ribRow a 0x40 x s
/-- RMAX (R244). -/
def execRmax (a : Nat) (x : RibArgs) (s : State) : Out := ribRow a 0x41 x s
/-- RACC (R244). -/
def execRacc (a : Nat) (x : RibArgs) (s : State) : Out := ribRow a 0x42 x s
/-- ROWFIN (R244). -/
def execRowfin (a : Nat) (x : RibArgs) (s : State) : Out := ribRow a 0x43 x s
/-- STG (R244). -/
def execStg (a : Nat) (x : RibArgs) (s : State) : Out := ribRow a 0x48 x s
/-- DROP (R244). -/
def execDrop (a : Nat) (x : RibArgs) (s : State) : Out := ribRow a 0x4C x s

/-! ### The rib's own memories (R237) -/

/-- R237: the corrected words of a rib store are counted; a word that fails, or a parity error of a seed buffer or of the program store,
discards the tile in hand and ends its command. The place of a finding is 2^17 times its area, and its word (R274). -/
def ribFinding (s : State) (a : Nat) (c : Cmd) (f : Finding) : State × Option Unit :=
  if f.corrected = 0 && !f.uncorrectable then (s, some ()) else
  let x := { s.ribOf a with corr := satAdd 0xFFFF (s.ribOf a).corr f.corrected }
  if f.uncorrectable then
    (failCommand (s.setRib a { x with uncorr := true, eccArea := f.place / 2 ^ 17 % 4, eccWord := f.place % 2 ^ 17 }) c.id St.eccAbort
      (3 * 2 ^ 12 + a), none)
  else (s.setRib a x, some ())

/-- What a rib does for a command, after what its memories have met. -/
def ribDoes (s : State) (a : Nat) (c : Cmd) (f : Finding) (go : State → State) : State :=
  match ribFinding s a c f with
  | (s, none) => s
  | (s, some ()) => go s

/-! ### Program banks -/

/-- A bank whose command has no tile left on the rib or its array. -/
def bankFree (s : State) (a : Nat) (b : Bank) : Bool :=
  let x := s.ribOf a
  let y := s.array a
  let held : List Nat := x.landing.map (·.cmd) ++ [x.work.map (·.cmd), y.work.map (·.cmd), y.ending.map (·.cmd), y.acc0.map (·.cmd), y.acc1.map (·.cmd),
    y.latch.map (·.cmd)].filterMap id
  !held.contains b.cmd

/-- The bank that the lanes do not use. -/
def Rib.idleBank (x : Rib) : Nat := b2n (!x.bank)

/-- PROGRAM_LOAD (R246, R248): the programs, the constant pool and the auxiliary vectors of a command's step enter the idle bank, and a bank
switch waits for the next tile boundary. A program over the limits ends its command (R247). -/
def execProgramLoad (a id : Nat) (s : State) : Out :=
  let x := s.ribOf a
  match s.cmd? id with
  | none => .next s
  | some c =>
    if !(ribOn s a && c.started && c.status.isNone && (computeOf c.run).isSome && !x.hasBank id && !x.bankPending &&
        bankFree s a (tget {} x.banks x.idleBank)) then .next s else
    match readBank s c (workOf c) with
    | (s, none) => .next s
    | (s, some b) =>
      if (stepOver (workOf c) b.images).isSome then .next (tileIllegal s id 4 a)
      else .next (s.setRib a { s.ribOf a with banks := tset {} (s.ribOf a).banks x.idleBank b, bankPending := true })

/-- The VCLK between the last pass of one tile and the first of the next (R246). -/
def Rib.boundary (x : Rib) : Bool := x.pass.isNone && x.nextPass == 0

/-- The tile in hand needs the programs of the other bank. -/
def Rib.needsOther (x : Rib) : Bool :=
  match x.landing.head? with
  | some t => (tget {} x.banks x.idleBank).cmd == t.cmd && (tget {} x.banks (b2n x.bank)).cmd != t.cmd
  | none => false

/-- BANK_SWITCH (R246): at a tile boundary. -/
def execBankSwitch (a : Nat) (s : State) : Out :=
  let x := s.ribOf a
  when (ribOn s a && x.boundary && (x.bankPending || x.needsOther)) s (s.setRib a { x with bank := !x.bank, bankPending := false })

/-! ### Seed buffers -/

def Rib.inactive (x : Rib) : Seeds := if x.active then x.seedA else x.seedB

/-- One word of a seed buffer, kept as its difference from the factory table. -/
def seedPut (t : Seeds) (i : Nat) (w : Word) : Seeds := if w = factoryWord i then tdel t i else tput t i w

/-- RB_SEED_ADDR advances by one word, wrapping at 16 KiB (R274). -/
def Rib.advanceSeed (x : Rib) : Rib := { x with seedAddr := (x.seedAddr + 4) % 16384 }

/-- R257, R274: a write of RB_SEED_DATA; a dropped one leaves RB_SEED_ADDR as it is (log 140). -/
def Rib.seedWrite (x : Rib) (v : Word) : Rib :=
  if x.swapPending then { x with wrRefused := true }
  else
    let x := if x.active then { x with seedA := seedPut x.seedA (x.seedAddr / 4) v } else { x with seedB := seedPut x.seedB (x.seedAddr / 4) v }
    x.advanceSeed

/-- R276: a write of RB_SEED_CTRL. -/
def Rib.seedCtrl (x : Rib) (v : Nat) : Rib := { x with swapPending := x.swapPending || bit v 1, wrRefused := x.wrRefused && !bit v 3 }

/-- A write of the register at an offset of a rib's block (R274 to R278). -/
def Rib.writeReg (x : Rib) (off : Nat) (v : Word) : Rib :=
  match off with
  | 0x04 => x.seedCtrl v.toNat
  | 0x08 => { x with seedAddr := fld v.toNat 13 2 * 4 }
  | 0x0C => x.seedWrite v
  | 0x10 => { x with fpstat := x.fpstat.clear v.toNat }
  | 0x14 => { x with uncorr := x.uncorr && !bit v.toNat 31 }
  | _ => x

def ribWindow (s : State) (a : Nat) : Bool := s.windowOpen 2 && a < 32

/-- SEED_SWAP (R256): a write of 1 to swap. -/
def execSeedSwap (a : Nat) (v : Word) (s : State) : Out :=
  when (ribWindow s a && bit v.toNat 1) s (s.setRib a ((s.ribOf a).seedCtrl v.toNat))

/-- SEED_SWAP_EXCHANGE (R256): at the next tile boundary. -/
def execSeedSwapExchange (a : Nat) (s : State) : Out :=
  let x := s.ribOf a
  when (s.clocked && a < 32 && x.swapPending && x.boundary) s (s.setRib a { x with active := !x.active, swapPending := false })

/-- RB_SEED_DATA_WRITE (R256, R257). -/
def execRbSeedDataWrite (a : Nat) (v : Word) (s : State) : Out := when (ribWindow s a) s (s.setRib a ((s.ribOf a).seedWrite v))

/-- What a read of RB_SEED_DATA answers and does (R257, R274). -/
def seedRead (s : State) (a : Nat) : State :=
  let x := s.ribOf a
  respond (s.setRib a x.advanceSeed) .ok (seedWord x.inactive (x.seedAddr / 4))

/-- RB_SEED_DATA_READ (R274). -/
def execRbSeedDataRead (a : Nat) (s : State) : Out := when (ribWindow s a) s (seedRead s a)

/-- A broadcast write reaches every rib. -/
def ribBroadcast (s : State) (off : Nat) (v : Word) : State :=
  (List.range 32).foldl (fun (s : State) a => s.setRib a ((s.ribOf a).writeReg off v)) s

/-- RB_BROADCAST_WRITE (R274). -/
def execRbBroadcastWrite (off : Nat) (v : Word) (s : State) : Out := when (s.windowOpen 2) s (ribBroadcast s off v)

end Sys2Proof.Machine
end

