-- ==== Sys2Proof/Machine/Plan.lean ====
section
/-! DEFINITION. Plans (chapter 08): the parameters of a step, its tensors, the verification of R290, the choice of a shape (R296 to R299),
and what a command that names a step does when it starts. -/

namespace Sys2Proof.Machine

/-! ### Parameters -/

/-- The kind of step that a packet serves (R281): of RING_SWEEP by its bwd bit. -/
def stepKind (c : Cmd) : Nat :=
  if c.opcode = Op.ringSweep then (if bit (c.word 15) 8 then Op.attnBwd else Op.attnFwd) else c.opcode

def Compute.heads (k : Compute) : Nat := fld (k.s 32) 7 0
def Compute.gqa (k : Compute) : Nat := fld (k.s 32) 15 8
def Compute.dim (k : Compute) : Nat := fld (k.s 32) 23 16
def Compute.mask (k : Compute) : Nat := fld (k.s 32) 26 24
def Compute.windowOf (k : Compute) : Nat := fld (k.s 33) 23 0
def Compute.keep (k : Compute) : Word := wd (k.s 35)
/-- score_slot, or the intermediate slot of GEMM2 (R283). -/
def Compute.midSlot (k : Compute) : Nat := fld (k.s 36) 7 0
/-- ds_slot, or a_slot of a scan. -/
def Compute.sideSlot (k : Compute) : Nat := fld (k.s 37) 7 0
def Compute.dsFmt (k : Compute) : Nat := fld (k.s 37) 11 8
def Compute.splitMin (k : Compute) : Nat := 256 * fld (k.s 37) 8 0
def Compute.scratch (k : Compute) : Nat := pairAt k.step 38
def Compute.argRef (k : Compute) (i : Nat) : TRef := tref (tw k.args i) (tw k.args (i + 1))
def Compute.groups (k : Compute) : Nat := k.heads / k.gqa

/-- Query tokens, key tokens of the packet, and tokens of a scan. -/
def Cmd.queries (c : Cmd) : Nat := fld (c.word 14) 15 0
def Cmd.keysIn (c : Cmd) : Nat := fld (c.word 14) 31 16
/-- A command that reads Coil (R335). -/
def Cmd.coilReader (c : Cmd) : Bool := (c.opcode == Op.attnFwd && bit (c.word 15) 0) || c.opcode == Op.attnDecode
def Cmd.hasArgs (c : Cmd) : Bool := (0x20 ≤ c.opcode && c.opcode ≤ 0x25) || c.opcode == Op.ringSweep

/-- GEMM's M, N, K and batch; GEMM2's M, N1, K, N2 and batch (R75). -/
def Cmd.gm (c : Cmd) : Nat := fld (c.word 10) 15 0
def Cmd.gn (c : Cmd) : Nat := fld (c.word 10) 31 16
def Cmd.gk (c : Cmd) : Nat := if c.opcode = Op.gemm then fld (c.word 11) 23 0 else fld (c.word 11) 31 16
def Cmd.gn2 (c : Cmd) : Nat := fld (c.word 11) 15 0
def Cmd.batch (c : Cmd) : Nat := if c.opcode = Op.gemm then fld (c.word 12) 15 0 else fld (c.word 14) 15 0
/-- Rows and columns of CONVERT, ROWSTAT and SOFTMAX. -/
def Cmd.rows (c : Cmd) : Nat := c.word 10
def Cmd.cols (c : Cmd) : Nat := fld (c.word 11) 15 0

/-- A shape family (R284). -/
structure Fam where
  m : Nat := 128
  n : Nat := 128
  form : Nat := 0
  split : Nat := 1
  kslice : Nat := 1
  deriving DecidableEq, Repr

def famOf (w : Nat) : Fam := ⟨fld w 7 0, fld w 17 8, fld w 19 18, fld w 24 20 + 1, fld w 31 25⟩
def Compute.famCount (k : Compute) : Nat := fld (k.s 4) 3 0
def Compute.pinFamily (k : Compute) : Nat := fld (k.s 4) 6 4
def Compute.pinned (k : Compute) : Bool := bit (k.s 4) 7 || bit (k.h 3) 0
def Compute.fams (k : Compute) : List Fam := (List.range (min 8 k.famCount)).map (fun i => famOf (k.s (8 + i)))

/-! ### Tensors (R282) -/

/-- A tensor of a command: the packet word of its reference, the reference, its rows and columns, the rows' and the outer stride in
bytes, and the outer count. -/
structure Ten where
  word : Nat := 2
  ref : TRef := {}
  rows : Nat := 0
  cols : Nat := 0
  stride : Nat := 0
  ostride : Nat := 0
  outer : Nat := 1
  deriving DecidableEq, Repr

def fmtOf (code : Nat) : Format := (Format.ofCode code).getD .fp32
def Ten.fmt (t : Ten) : Format := fmtOf t.ref.fmt
def Ten.present (t : Ten) : Bool := t.ref.addr != 0
/-- Bytes of one row: a byte row of an INT4 operand (R282). -/
def Ten.rowBytes (t : Ten) : Nat := t.cols * t.fmt.bytes
/-- The rows that the row stride separates. -/
def Ten.memRows (t : Ten) : Nat := if t.fmt = .int4 then cdiv t.rows 2 else t.rows
/-- The address of an element's row. -/
def Ten.at (t : Ten) (o r col : Nat) : Nat := t.ref.addr + o * t.ostride + r * t.stride + col * t.fmt.bytes
/-- Bytes from the first to the last byte of the tensor (R291). -/
def Ten.extent (t : Ten) : Nat := (t.outer - 1) * t.ostride + (t.memRows - 1) * t.stride + t.rowBytes

/-- A tensor at a position of the step record. -/
def strided (k : Compute) (word : Nat) (ref : TRef) (pos rows cols outer : Nat) : Ten :=
  ⟨word, ref, rows, cols, k.s (16 + 2 * pos), 64 * k.s (17 + 2 * pos), outer⟩

/-- A dense FP32 tensor: `cols` values in each row. -/
def dense (word : Nat) (ref : TRef) (rows cols : Nat) : Ten :=
  ⟨word, { ref with fmt := 3 }, rows, cols, 4 * cols, 4 * cols * rows, 1⟩

/-- The tensors of a command by name. -/
def tA (c : Cmd) (k : Compute) : Ten := strided k 4 (c.ref 4) 0 c.gm c.gk c.batch
def tB (c : Cmd) (k : Compute) : Ten := strided k 6 (c.ref 6) 1 c.gk c.gn c.batch
def tC (c : Cmd) (k : Compute) : Ten := strided k 8 (c.ref 8) 2 c.gm c.gn c.batch
def tPre (c : Cmd) (k : Compute) : Ten := strided k 13 (c.ref 13) 3 c.gm c.gn c.batch
def tD2 (c : Cmd) (k : Compute) : Ten := strided k 8 (c.ref 8) 2 c.gn c.gn2 c.batch
def tE2 (c : Cmd) (k : Compute) : Ten := strided k 12 (c.ref 12) 3 c.gm c.gn2 c.batch
def tSrc (c : Cmd) (k : Compute) : Ten := strided k 4 (c.ref 4) 0 c.rows c.cols 1
def tDst (c : Cmd) (k : Compute) : Ten := strided k 6 (c.ref 6) 1 c.rows c.cols 1
def tStat (c : Cmd) : Ten := dense 6 (c.ref 6) c.rows 2
def tRowOut (c : Cmd) (k : Compute) : Ten := dense 8 (c.ref 8) c.rows (if bit (k.s 36) 12 then 2 else 1)

/-- Heads and KV head groups of an attention tensor; a scan has heads alone. -/
def kvHeads (c : Cmd) (k : Compute) : Nat := if c.opcode = Op.scanFwd || c.opcode = Op.scanBwd then k.heads else k.groups
def kvTokens (c : Cmd) : Nat := if c.opcode = Op.scanFwd || c.opcode = Op.scanBwd then c.queries else c.keysIn
/-- Sequences of a list: one but for ATTN_DECODE (R225). -/
def seqCount (c : Cmd) : Nat := if c.opcode = Op.attnDecode then c.keysIn else 1

def tQ (c : Cmd) (k : Compute) : Ten := strided k 4 (c.ref 4) 0 c.queries k.dim (seqCount c * k.heads)
def tK (c : Cmd) (k : Compute) : Ten := strided k 6 (c.ref 6) 1 (kvTokens c) k.dim (kvHeads c k)
def tV (c : Cmd) (k : Compute) : Ten := strided k 8 (c.ref 8) 2 (kvTokens c) k.dim (kvHeads c k)
/-- O of the forward kinds, dO of the backward ones. -/
def tO (c : Cmd) (k : Compute) : Ten := strided k 10 (c.ref 10) 3 c.queries k.dim (seqCount c * k.heads)
/-- L of attention and G of a scan (R78). -/
def tL (c : Cmd) (k : Compute) : Ten := dense 12 (k.argRef 0) (seqCount c * k.heads * c.queries) 1
def tDG (c : Cmd) (k : Compute) : Ten := dense 12 (k.argRef 5) (k.heads * c.queries) 1
def tOin (c : Cmd) (k : Compute) : Ten := strided k 12 (k.argRef 8) 4 c.queries k.dim k.heads
def tS0 (k : Compute) : Ten := dense 12 (k.argRef 8) (k.heads * k.dim) k.dim
def tSend (k : Compute) : Ten := dense 12 (k.argRef 10) (k.heads * k.dim) k.dim
/-- The position of dQ: t5 of ATTN_BWD, t4 of SCAN_BWD. -/
def gradPos (c : Cmd) : Nat := if c.opcode = Op.scanBwd then 4 else 5
def tDQ (c : Cmd) (k : Compute) : Ten := strided k 12 (k.argRef 10) (gradPos c) c.queries k.dim k.heads
def tDK (c : Cmd) (k : Compute) : Ten := strided k 12 (k.argRef 12) (gradPos c + 1) (kvTokens c) k.dim (kvHeads c k)
def tDV (c : Cmd) (k : Compute) : Ten := strided k 12 (k.argRef 14) (gradPos c + 2) (kvTokens c) k.dim (kvHeads c k)

/-- The strided tensors of a packet, as (step position, tensor), for check 7. -/
def stridedOf (c : Cmd) (k : Compute) : List (Nat × Ten) :=
  match stepKind c with
  | 0x10 => [(0, tA c k), (1, tB c k), (2, tC c k), (3, tPre c k)]
  | 0x11 => [(0, tA c k), (1, tB c k), (2, tD2 c k), (3, tE2 c k)]
  | 0x12 => [(0, tSrc c k), (1, tDst c k)]
  | 0x13 => [(0, tSrc c k)]
  | 0x14 => [(0, tSrc c k), (1, tDst c k)]
  | 0x20 => if c.coilReader then [(0, tQ c k), (3, tO c k)] else [(0, tQ c k), (1, tK c k), (2, tV c k), (3, tO c k)]
  | 0x22 => [(0, tQ c k), (3, tO c k)]
  | 0x21 => [(0, tQ c k), (1, tK c k), (2, tV c k), (3, tO c k), (4, tOin c k), (5, tDQ c k), (6, tDK c k), (7, tDV c k)]
  | 0x24 => [(0, tQ c k), (1, tK c k), (2, tV c k), (3, tO c k)]
  | _ => [(0, tQ c k), (1, tK c k), (2, tV c k), (3, tO c k), (4, tDQ c k), (5, tDK c k), (6, tDV c k)]

/-- The dense tensors of a command. -/
def denseOf (c : Cmd) (k : Compute) : List Ten :=
  match stepKind c with
  | 0x13 => [tStat c]
  | 0x14 => [tRowOut c k]
  | 0x20 | 0x21 | 0x22 => [tL c k]
  | 0x24 => [tL c k, tS0 k, tSend k]
  | 0x25 => [tL c k, tDG c k, tS0 k]
  | _ => []

/-! ### Scratch areas -/

/-- R204: the bytes of one group buffer, and of its claim bitmap (R311). -/
def groupBytes (c : Cmd) (k : Compute) : Nat := k.gqa * c.queries * (k.dim + 2) * 4
def claimBytes (c : Cmd) (k : Compute) : Nat := cdiv (cdiv (k.gqa * cdiv c.queries 128 * cdiv (cdiv c.keysIn 128) 4) 8) 64 * 64

/-- R307: the bytes of one combine entry. -/
def entryBytes (c : Cmd) (sh : Shape) : Nat := 64 + 4 * sh.m * sh.n * (if c.determ then sh.split else 1)
def tilesOut (c : Cmd) (sh : Shape) : Nat := c.batch * cdiv c.gm sh.m * cdiv c.gn sh.n

def chunkCount (c : Cmd) : Nat := cdiv c.queries 128

/-- R229: keys in a split. -/
def splitLen (k : Compute) (length : Nat) : Nat := max k.splitMin (256 * cdiv length 8192)

/-- The scratch or combine area of a command as (address, bytes). The decode scratch depends on the sequences, so that of the whole
command is taken from the row tiles and splits of the listed lengths. -/
def scratchArea (c : Cmd) (k : Compute) (lens : List Nat) : List (Nat × Nat) :=
  match stepKind c with
  | 0x10 => if k.shape.split = 1 then [] else [(k.scratch, tilesOut c k.shape * entryBytes c k.shape)]
  | 0x21 => [(k.scratch, 2 * groupBytes c k + 2 * claimBytes c k)]
  | 0x22 =>
    let n := sumNat (lens.map (fun l => if splitLen k l < l then
      k.groups * cdiv (k.gqa * c.queries) k.shape.m * cdiv l (splitLen k l) * (k.shape.m * (k.dim + 2) * 4) else 0))
    if n = 0 then [] else [(k.scratch, n)]
  | 0x25 => [(k.scratch, k.heads * chunkCount c * k.dim * k.dim * (fmtOf k.pFmt).bytes)]
  | _ => []

/-! ### Slot rings (R359 to R362) -/

/-- Half bytes of one element. -/
def halfBytes (f : Format) : Nat := f.bits / 4
def tileBytes (rows cols : Nat) (f : Format) : Nat := cdiv (rows * cols * halfBytes f) 2
/-- R359. -/
def slotBytes (n : Nat) : Nat := cdiv n 1024 * 1024

/-- The bytes that one array's rings need for a family: the row and the column operand, the fixed part F and the streamed part U. -/
structure RingNeed where
  row : Nat := 0
  col : Nat := 0
  fixed : Nat := 0
  streamed : Nat := 0
  deriving DecidableEq, Repr

/-- The formats of K and V; where Coil holds them, that of Q, whose elements have the size of the sequence's (R106, R336). -/
def kFmt (c : Cmd) : Format := if c.coilReader then fmtOf (c.ref 4).fmt else fmtOf (c.ref 6).fmt
def vFmt (c : Cmd) : Format := if c.coilReader then fmtOf (c.ref 4).fmt else fmtOf (c.ref 8).fmt

def ringNeed (c : Cmd) (k : Compute) (f : Fam) : RingNeed :=
  let q := fmtOf (c.ref 4).fmt
  let p := slotBytes (tileBytes f.m f.n (fmtOf k.pFmt) + 128)
  let kf := 32 * f.kslice
  match stepKind c with
  | 0x10 =>
    let a := tileBytes f.m kf q
    let b := tileBytes kf f.n (fmtOf (c.ref 6).fmt)
    let pre := if (tPre c k).present then slotBytes (tileBytes f.m f.n (tPre c k).fmt) else 0
    ⟨a, b, 0, slotBytes a + slotBytes b + pre⟩
  | 0x11 =>
    let a := tileBytes f.m kf q
    let b := tileBytes kf f.n (fmtOf (c.ref 6).fmt)
    ⟨a, b, 3 * p, slotBytes a + slotBytes b + slotBytes (tileBytes f.n 128 (fmtOf (c.ref 8).fmt))⟩
  | 0x20 | 0x22 =>
    let a := tileBytes f.m k.dim q
    let b := tileBytes k.dim f.n (kFmt c)
    let v := tileBytes f.n k.dim (vFmt c)
    ⟨a, max b v, slotBytes a + 3 * p, slotBytes b + slotBytes v⟩
  | 0x21 =>
    let a := tileBytes f.m k.dim q
    let b := tileBytes k.dim f.n (kFmt c)
    let o := tileBytes f.m k.dim (fmtOf (c.ref 10).fmt)
    let ds := slotBytes (tileBytes f.m f.n (fmtOf k.dsFmt))
    let ps := if bit (c.word 15) (if c.opcode = Op.ringSweep then 9 else 1) && k.s 34 != 0 then 6 * p else 3 * p
    ⟨a, b, slotBytes b + slotBytes (tileBytes k.dim f.n (vFmt c)) + 8 * slotBytes a + 8 * slotBytes o + ps + 4 * ds, 0⟩
  | 0x24 =>
    let t := tileBytes 128 k.dim q
    ⟨t, t, 0, 3 * slotBytes t⟩
  | 0x25 =>
    let t := tileBytes 128 k.dim q
    ⟨t, t, 0, 3 * slotBytes t + slotBytes (tileBytes 128 k.dim (fmtOf (c.ref 10).fmt))⟩
  | _ => {}

/-- R360, R361: the ring capacity of an array, and whether a family fits it. -/
def ringCapacity (s : State) (k : Compute) : Nat := partCount (k.partition k.opPart) * (65536 * 2 ^ s.st.ringSize) / 2
def ringsFit (s : State) (c : Cmd) (k : Compute) (f : Fam) : Bool :=
  let r := ringNeed c k f
  r.fixed + 3 * r.streamed ≤ ringCapacity s k

/-- R361: the depth of the streamed rings. -/
def ringDepth (s : State) (c : Cmd) (k : Compute) (f : Fam) : Nat :=
  let r := ringNeed c k f
  if r.streamed = 0 then 8 else min 8 ((ringCapacity s k - r.fixed) / r.streamed)

/-! ### Families and arrays (R149 to R151, R285) -/

/-- The presented columns that a family needs: those of its O or E tile too, and of a scan those of its 128 × 128 tiles. -/
def needWidth (c : Cmd) (k : Compute) (f : Fam) : Nat :=
  let up (d : Nat) : Nat := if d ≤ 32 then 32 else if d ≤ 64 then 64 else 128
  match stepKind c with
  | 0x20 => max f.n (up k.dim)
  | 0x22 => max (if f.form = 1 then min f.n 128 else f.n) (up k.dim)
  | 0x11 => max f.n (up c.gn2)
  | 0x24 | 0x25 => 128
  | _ => f.n

/-- An online array that holds a family (R138, R150). -/
def arrayHolds (x : Arr) (c : Cmd) (k : Compute) (f : Fam) : Bool :=
  x.online && 1 ≤ f.m && 1 ≤ f.n && f.m ≤ formDepth f.form && needWidth c k f ≤ x.width f.form && f.form < 3 && (!x.formLock || x.form == f.form)

def holders (s : State) (c : Cmd) (k : Compute) (f : Fam) : Nat :=
  ((List.range 32).filter (fun a => (s.array a).online && arrayHolds (s.array a) c k f)).length

/-- nf_arr of R297: the online arrays whose presented width holds N and that are not locked into another form. -/
def presenting (s : State) (f : Fam) : Nat :=
  ((List.range 32).filter (fun a => let x := s.array a; x.online && f.n ≤ x.width f.form && (!x.formLock || x.form == f.form))).length

/-- R227: the row tiles of ATTN_DECODE in normal service, with the slices of the family: up to 64 rows in form 1, more in form 0. The score
tiles of form 1 have the N of a family of that form; of another, 256 keys, or 128 where 256 do not fit its rings (log 127). -/
def rowFam (s : State) (c : Cmd) (k : Compute) (f : Fam) : Fam :=
  let rows := k.gqa * c.queries
  if stepKind c != 0x22 || c.service || burnoeg s c then f
  else if 64 < rows then { f with m := 128, n := 128, form := 0 }
  else
    let m := if f.form = 1 && rows ≤ f.m then f.m else if rows ≤ 32 then 32 else 64
    let wide : Fam := { f with m := m, n := if f.form = 1 then f.n else 256, form := 1 }
    if f.form = 1 || ringsFit s c k wide then wide else { wide with n := 128 }

/-- The family of a command's shape. -/
def famIn (s : State) (c : Cmd) (k : Compute) : Fam := rowFam s c k (k.fams.getD k.shape.index {})

/-- The constraint of a kind (R285, R227). -/
def kindShape (c : Cmd) (k : Compute) (f : Fam) : Bool :=
  let square := f.m == 128 && f.n == 128
  match stepKind c with
  | 0x10 => true
  | 0x20 => f.form == 0 && (c.service || (f.m == 128 && (f.n == 64 || f.n == 128)))
  | 0x11 => f.form == 0 && (c.service || (if bit (k.s 32) 0 then f.m == 128 && (f.n == 64 || f.n == 128) else square))
  | 0x22 => (f.form == 1 && (c.service || ((f.m == 32 || f.m == 64) && (f.n == 128 || f.n == 256)))) || (f.form == 0 && (c.service || square))
  | _ => f.form == 0 && (c.service || square)

/-- R285 with R149, or R151 with the service flag. -/
def famLegal (c : Cmd) (k : Compute) (f : Fam) : Bool :=
  let r := ringNeed c k f
  let shape := if c.service then 1 ≤ f.m && 1 ≤ f.n else [32, 64, 128].contains f.m && [32, 64, 128, 256, 512].contains f.n
  f.form < 3 && 1 ≤ f.kslice && (c.opcode == Op.gemm || f.split == 1) && shape && f.m ≤ formDepth f.form &&
  f.n ≤ 128 * formParts f.form && kindShape c k f && r.row ≤ 524288 && r.col ≤ 524288

/-! ### The checks of R290 -/

/-- A place at fault: area and index of CP_VER_DIAG, and the detail. -/
structure Fault290 where
  area : Nat
  index : Nat
  detail : Nat
  deriving DecidableEq, Repr

/-- The first word of a list whose condition fails. -/
def firstBad (area detail : Nat) (l : List (Nat × Bool)) : Option Fault290 := (l.find? (·.2)).map (fun p => ⟨area, p.1, detail⟩)

/-- Check 2. -/
def checkVersion (k : Compute) : Option Fault290 :=
  firstBad 0 0x0102 [(0, fld (k.s 0) 15 8 != 1)] <|> firstBad 1 0x0102 [(3, fld (k.h 3) 15 8 != 1)]

/-- The CRC-32C of a block with its word 1 taken as zero. -/
def blockCrc (ws : List Word) : Word := crc32c (wordBytes (ws.set 1 0#32))

/-- Checks 3 and 4. -/
def checkSums (k : Compute) : Option Fault290 :=
  firstBad 0 0x0103 [(1, blockCrc k.step != wd (k.s 1))] <|>
  firstBad 1 0x0104 [(0, k.h 0 != 0x314E584A || pairAt k.step 2 % 4096 != 0), (1, blockCrc k.header != wd (k.h 1))]

/-- The bits of s32 to s39 that a kind uses (R283). -/
def kindBits (kind : Nat) : List Nat :=
  let m := 0xFFFFFFFF
  let h := 0xFFFFF
  match kind with
  | 0x20 => [0x7FFFFFF, 0xFFFFFF, 0xFFFFFF, m, 0xFFF]
  | 0x21 => [0x7FFFFFF, 0xFFFFFF, 0xFFFFFF, m, 0xFFF, 0xFFF, m, h]
  | 0x22 => [0x7FFFFFF, 0xFFFFFF, 0, 0, 0xFFF, 0x1FF, m, h]
  | 0x24 => [0x7FF00FF, 0, 0, 0, 0xF00, 0xFF]
  | 0x25 => [0x7FF00FF, 0, 0, 0, 0xF00, 0xFF, m, h]
  | 0x10 => [0, 0, 0, 0, 0xF00, 0, m, h]
  | 0x11 => [1, 0, 0, 0, 0xFFF]
  | 0x14 => [0x7000000, 0xFFFFFF, 0, 0, 0x1F00]
  | _ => [0, 0, 0, 0, 0xF00]

def outside (w mask : Nat) : Bool := w &&& (0xFFFFFFFF ^^^ mask) != 0

/-- A positive finite FP32 value (R167). -/
def positiveFinite (w : Nat) : Bool := !bit w 31 && w != 0 && fld w 30 23 != 255

/-- A chain format with a tensor's (R106): legal where the tensor is absent. -/
def pairWith (fmt : Nat) (r : TRef) : Bool := r.addr == 0 || pairOk fmt r.fmt

/-- The legal ranges of the kind words (R167, R192, R196, R213, R225, R229, R267). -/
def kindWords (c : Cmd) (k : Compute) : List (Nat × Bool) :=
  let narrow (f : Nat) : Bool := f ≤ 2
  let window : Nat × Bool := (33, k.windowOf == 0)
  let attn : Nat × Bool := (32, !([1, 2, 4, 8, 16].contains k.gqa) || k.heads == 0 || k.heads % k.gqa != 0 || !([32, 64, 96, 128].contains k.dim))
  let scan : Nat × Bool := (32, k.heads == 0 || !([64, 128].contains k.dim) || k.mask % 4 != 0)
  match stepKind c with
  | 0x20 => [attn, window, (35, !positiveFinite (k.s 35)),
      (36, !narrow k.pFmt || (!c.coilReader && !pairWith k.pFmt (c.ref 8)))]
  | 0x21 => [attn, window, (35, !positiveFinite (k.s 35)), (36, !narrow k.pFmt || !pairWith k.pFmt (c.ref 10)),
      (37, !narrow k.dsFmt || !pairWith k.dsFmt (c.ref 4) || !pairWith k.dsFmt (c.ref 6)), (38, k.scratch % 64 != 0)]
  | 0x22 => [attn, (32, bit k.mask 2), window, (36, !narrow k.pFmt), (37, k.splitMin < 256 || 65536 < k.splitMin)]
  | 0x24 => [scan, (36, !narrow k.pFmt || !pairWith k.pFmt (c.ref 4))]
  | 0x25 => [scan, (36, !narrow k.pFmt || !pairWith k.pFmt (c.ref 4) || !pairWith k.pFmt (c.ref 10)), (38, k.scratch % 64 != 0)]
  | 0x11 => [(36, !narrow k.pFmt || !pairWith k.pFmt (c.ref 8))]
  | 0x14 => [(32, bit k.mask 2), window, (36, !narrow k.pFmt || (bit (k.s 36) 12 && ((c.ref 6).slot != 0 || (c.ref 8).addr == 0)))]
  | _ => []

/-- Check 5: the header's fields, then the step's. -/
def checkWords (c : Cmd) (k : Compute) : Option Fault290 :=
  firstBad 1 0x0105 ([(2, fld (k.h 2) 15 0 == 0), (3, outside (k.h 3) 0xFF01), (4, k.h 4 % 4096 != 0), (5, outside (k.h 5) 0xFFFFF),
    (6, k.h 6 % 64 != 0 || 2 ^ 22 < k.h 6), (7, k.h 7 % 4096 != 0), (8, outside (k.h 8) 0xFFFFF), (9, k.h 9 % 64 != 0 || 2 ^ 30 < k.h 9)] ++
    (List.range 16).map (fun i => (10 + i, outside (k.h (10 + i)) 0x3FFF)) ++ (List.range 38).map (fun i => (26 + i, k.h (26 + i) != 0))) <|>
  firstBad 0 0x0105 ([(0, outside (k.s 0) 0xFFFF), (3, outside (k.s 3) 0xFFFFF), (4, outside (k.s 4) 0xFFFF), (5, outside (k.s 5) 0xFFFFF),
    (6, k.s 6 != 0), (7, k.s 7 != 0)] ++
    (List.range 16).map (fun i => (32 + i, outside (k.s (32 + i)) ((kindBits (stepKind c)).getD i 0))) ++
    [(50, outside (k.s 50) (if stepKind c = 0x20 then 0xFFFF else 0)), (51, outside (k.s 51) 0xFFFFFF)] ++
    (List.range 8).map (fun i => (56 + i, k.s (56 + i) != 0)) ++ kindWords c k)

/-- Check 6. -/
def checkFamilies (c : Cmd) (k : Compute) : Option Fault290 :=
  firstBad 0 0x0106 ([(4, k.famCount == 0 || 8 < k.famCount || k.famCount ≤ k.pinFamily)] ++
    (List.range (min 8 k.famCount)).map (fun i => (8 + i, !famLegal c k (famOf (k.s (8 + i))))))

/-- Check 7 (R282). A tensor that is not present has no stride to check. -/
def checkStrides (c : Cmd) (k : Compute) : Option Fault290 :=
  firstBad 0 0x0107 (((stridedOf c k).map (fun p =>
    let t := p.2
    let zrow := stepKind c == Op.gemm && p.1 == 3
    let zout := stepKind c == Op.gemm && (p.1 == 1 || p.1 == 3)
    if !t.present then [] else
    [(16 + 2 * p.1, t.stride % 64 != 0 || (t.stride == 0 && !zrow) || (t.stride != 0 && t.stride < t.rowBytes)),
     (17 + 2 * p.1, t.ostride == 0 && !zout)])).flatten)

/-- Bank ranges that share a bank. -/
def banksMeet (a b : Nat) : Bool := partFirst a < partFirst b + partCount b && partFirst b < partFirst a + partCount a

/-- Check 8. -/
def checkPartitions (s : State) (c : Cmd) (k : Compute) : Option Fault290 :=
  let ps := (List.range 16).filter (fun i => partValid (k.partition i))
  let op := k.partition k.opPart
  let rib := k.partition k.ribPart
  firstBad 1 0x0108 ([(10 + k.opPart, !partValid op || partUse op != 0), (10 + k.ribPart, !partValid rib || partUse rib != 1)] ++
    ps.map (fun i => (10 + i, partCount (k.partition i) == 0 || 36 < partFirst (k.partition i) + partCount (k.partition i))) ++
    ps.map (fun i => (10 + i, partUse (k.partition i) == 0 &&
      ps.any (fun j => partUse (k.partition j) == 1 && banksMeet (k.partition i) (k.partition j)))) ++
    [(10 + k.opPart, (stepKind c == 0x21 || stepKind c == 0x25) && (partCount op % 8 != 0 || partCount op < 16))]) <|>
  firstBad 0 0x0108 ((List.range k.fams.length).map (fun i => (8 + i, !ringsFit s c k (k.fams.getD i {}))))

/-- Rib store lines that a step's pool and vectors take. -/
def fixedLines (k : Compute) : Nat :=
  b2n (fld (k.s 51) 23 0 != 0) + sumNat ((List.range 4).map (fun i => if (k.aux i).present then (k.aux i).bytes / 1024 else 0))

def ribFirst (k : Compute) : Nat := fld (k.s 5) 9 0
def ribLines (k : Compute) : Nat := fld (k.s 5) 19 10

/-- The beats of a tile that a program at a point runs over. -/
def pointBeats (f : Fam) (point : Nat) : Nat :=
  let beats (rows cols : Nat) : Nat := cdiv (rows * cdiv cols 128) 2
  match point with
  | 0 => beats f.m (32 * f.kslice)
  | 1 => beats (32 * f.kslice) f.n
  | _ => cdiv (f.m * formParts f.form) 2

def maxBeats (k : Compute) (point : Nat) : Nat := k.fams.foldl (fun n f => max n (pointBeats f point)) 1

/-- Check 9. -/
def checkStore (k : Compute) (ims : List (Nat × Image)) : Option Fault290 :=
  firstBad 0 0x0109 [(5, 896 < ribFirst k + ribLines k || ribLines k < fixedLines k)] <|>
  (ims.findSome? (fun p => (p.2.passes.map passOf).findSome? (passOutside (ribFirst k) (ribLines k) (maxBeats k p.1) p.2))).map
    (fun i => ⟨2, i, 0x0109⟩)

/-- Check 10, but for the instructions: offsets inside their areas. -/
def checkOffsets (k : Compute) : Option Fault290 :=
  firstBad 2 0x010A (k.points.map (fun p => (0, k.h 6 < 64 * k.progOff p + 64))) <|>
  firstBad 3 0x010A ([(0, fld (k.s 51) 23 0 != 0 && k.h 9 < 64 * fld (k.s 51) 23 0 + 256)] ++
    (List.range 4).map (fun i => (i, (k.aux i).present &&
      k.h 9 < (k.aux i).offset + (k.aux i).bytes)))

/-- Check 10: the instructions, and each image inside the program area. -/
def checkImages (k : Compute) (ims : List (Nat × Image)) : Option Fault290 :=
  (ims.findSome? (fun p =>
    match imageIllegal p.2 with
    | some i => some ⟨2, i, 0x010A⟩
    | none => if k.h 6 < 64 * k.progOff p.1 + 8 * (p.2.passes.length + p.2.code.length) then some ⟨2, 0, 0x010A⟩ else none))

/-- Check 11. -/
def checkLimits (k : Compute) (ims : List (Nat × Image)) : Option Fault290 := (stepOver k ims).map (fun p => ⟨p.1, p.2, 0x010B⟩)

/-- The step has a row state of its own (R174, R264); programs see it as an auxiliary vector that the step does not name. -/
def ownState (c : Cmd) (k : Compute) : Bool :=
  stepKind c == 0x14 || stepKind c == 0x20 || stepKind c == 0x21 || stepKind c == 0x22 || (stepKind c == 0x11 && bit (k.s 32) 0)

/-- The point of a fused chain's row epilogue, which runs on divided rows (R177, R281). -/
def rowPoint (c : Cmd) : Option Nat := match stepKind c with | 0x20 => some 4 | 0x11 | 0x22 => some 3 | _ => none

/-- An instruction takes its operand from the step's own row state: ROWFIN, WLOG, ROWV or COLV. -/
def readsOwn (c : Cmd) (k : Compute) (w : BitVec 64) : Bool :=
  let i := instOf w
  ownState c k && ([0x43, 0x3A, 0x06, 0x07] : List Nat).contains i.1 && !(k.aux (i.2.imm.toNat % 4)).present

/-- Check 12 (R178, R266). -/
def checkStatistics (c : Cmd) (k : Compute) (ims : List (Nat × Image)) : Option Fault290 :=
  ims.findSome? (fun p => (p.2.code.findIdx? (fun w =>
    (some p.1 != rowPoint c && readsOwn c k w) ||
    ((instOf w).1 == 0x43 && (stepKind c == 0x24 || stepKind c == 0x25 || 2 < k.pFmt)))).map (fun i => ⟨2, i, 0x010C⟩))

/-- Check 13. -/
def checkHeld (s : State) (c : Cmd) (k : Compute) : Option Fault290 :=
  if k.fams.any (fun f => holders s c k f != 0) then none else some ⟨0, 8, 0x010D⟩

/-- Check 14 (R181). -/
def docBad (docs : List Nat) : Option Fault290 :=
  (List.range docs.length).findSome? (fun i =>
    if (i == 0 && docs.getD 0 0 != 0) || (i != 0 && docs.getD i 0 ≤ docs.getD (i - 1) 0) then some ⟨3, i, 0x010E⟩ else none)

/-- Checks 3 to 8. -/
def stepChecks (s : State) (c : Cmd) (k : Compute) : Option Fault290 :=
  checkSums k <|> checkWords c k <|> checkFamilies c k <|> checkStrides c k <|> checkPartitions s c k

/-! ### The choice of a shape (R296 to R299) -/

/-- R297: products per cell per ACLK, times four, by format and form (R135). -/
def rate4 (f : Format) (form : Nat) : Nat :=
  match f with
  | .fp32 => [4, 2, 1].getD form 4
  | .bf16 => [4, 4, 2].getD form 4
  | _ => [8, 8, 4].getD form 8

/-- The shape of a family with a given largest split (R299, and the last steps of R297). -/
def shapeOf (c : Cmd) (i : Nat) (f : Fam) (s : Nat) : Shape :=
  let ks := 32 * cdiv c.gk (32 * s)
  ⟨i, f.m, f.n, f.form, 32 * f.kslice, ks, if c.opcode = Op.gemm then cdiv c.gk ks else 1⟩

/-- R297: a family's shape and four times its estimate, as a fraction's numerator over 1. -/
def estimate (s : State) (c : Cmd) (i : Nat) (f : Fam) : Shape × Nat :=
  let n := presenting s f
  let cols := if c.opcode = Op.gemm then cdiv c.gn f.n else cdiv c.gn 128
  let tiles := c.batch * cdiv c.gm f.m * cols
  let sp := if c.opcode = Op.gemm then min (min f.split (cdiv c.gk (32 * f.kslice))) (max 1 (n / tiles)) else 1
  let sh := shapeOf c i f sp
  (sh, cdiv (tiles * sh.split) n * (4 * 256 * sh.ks + f.m * f.n * rate4 (fmtOf (c.ref 4).fmt) f.form) / rate4 (fmtOf (c.ref 4).fmt) f.form)

/-- The smallest estimate, the lower index on a tie. -/
def smallest : List (Shape × Nat) → Option Shape
  | [] => none
  | (sh, e) :: t =>
    match smallest t, t.foldl (fun m p => min m p.2) e with
    | none, _ => some sh
    | some r, m => if e ≤ m then some sh else some r

/-- R298: the declared family of a kind that an online array holds. -/
def firstHeld (s : State) (c : Cmd) (k : Compute) (l : List (Nat × Fam)) : Option (Nat × Fam) :=
  let held := l.filter (fun p => holders s c k p.2 != 0)
  if stepKind c = 0x20 then
    let best := held.foldl (fun n p => max n p.2.n) 0
    held.find? (fun p => p.2.n == best)
  else held.head?

/-- R293, cause 6: M or N beyond the form. -/
def oversize (f : Fam) : Bool := 3 ≤ f.form || formDepth f.form < f.m || 128 * formParts f.form < f.n

/-- The shape of a command, or the index of a pinned family that no online array holds (R292, R299). -/
def chooseShape (s : State) (c : Cmd) (k : Compute) : Except Nat Shape :=
  let fs := k.fams.map (rowFam s c k)
  let l := (List.range fs.length).zip fs
  if burnoeg s c || k.pinned then
    let i := if burnoeg s c then 0 else k.pinFamily
    let f := fs.getD i {}
    if i < k.fams.length && (holders s c k f != 0 || (burnoeg s c && oversize f)) then .ok (shapeOf c i f f.split) else .error i
  else if c.opcode = Op.gemm || c.opcode = Op.gemm2 then
    match smallest ((l.filter (fun p => holders s c k p.2 != 0)).map (fun p => estimate s c p.1 p.2)) with
    | some sh => .ok sh
    | none => .error 0
  else
    match firstHeld s c k l with
    | some p => .ok (shapeOf c p.1 p.2 1)
    | none => .error 0

/-! ### Items (R301) -/

/-- The row tiles of one sequence and group (R227). -/
def rowTiles (c : Cmd) (k : Compute) : Nat := cdiv (k.gqa * c.queries) k.shape.m

/-- A decode work item: the place of its sequence in the list, its group, row tile and split. -/
structure DecodeItem where
  seq : Nat := 0
  group : Nat := 0
  tile : Nat := 0
  split : Nat := 0
  deriving DecidableEq, Repr

/-- The decode items in their order. -/
def decodeItems (c : Cmd) (k : Compute) : List DecodeItem :=
  ((List.range k.snaps.length).map (fun n =>
    let len := (k.snaps.getD n {}).length
    ((List.range k.groups).map (fun g => ((List.range (rowTiles c k)).map (fun t =>
      (List.range (max 1 (cdiv len (splitLen k len)))).map (fun sp => (⟨n, g, t, sp⟩ : DecodeItem)))).flatten)).flatten)).flatten

def itemCount (c : Cmd) (k : Compute) : Nat :=
  match stepKind c with
  | 0x10 => tilesOut c k.shape * k.shape.split
  | 0x11 => c.batch * cdiv c.gm 128 * cdiv c.gn2 128
  | 0x12 | 0x13 | 0x14 => cdiv c.rows 128
  | 0x20 => cdiv c.queries 128 * k.heads
  | 0x21 => k.groups * cdiv c.keysIn 512
  | 0x22 => (decodeItems c k).length
  | _ => k.heads

/-! ### The start of a command that names a step -/

/-- R294: a command in flight of another plan whose partitions meet this step's, and which of this step's partitions. A plan is the
header's address in its context. -/
def partitionClash (s : State) (c : Cmd) (k : Compute) : Option Nat :=
  let others := s.cp.table.filterMap (fun x => if x.id = c.id then none else
    match computeOf x.run with
    | some y => if (pairAt y.step 2 = pairAt k.step 2 && ctxOf s x = ctxOf s c) || y.step = [] then none else some y
    | none => none)
  let clash (p : Nat) : Bool := others.any (fun y => banksMeet p (y.partition y.opPart) || banksMeet p (y.partition y.ribPart))
  if clash (k.partition k.opPart) then some k.opPart
  else if clash (k.partition k.ribPart) then some (16 + k.ribPart) else none

/-- R125: the scales that a command uses, read at its start. -/
def readScales (s : State) (c : Cmd) (k : Compute) : List (Nat × Word) :=
  let refs := (refsOf c).map (fun r => (c.ref r.1).slot) ++ (if c.hasArgs then ([0, 5, 8, 10, 12, 14].map (fun i => (k.argRef i).slot)) else [])
  (distinct (refs ++ [k.midSlot, k.sideSlot, 0])).map (fun n => (n, (s.slot n).scale))

def Compute.scale (k : Compute) (slot : Nat) : Word := tget 0x3F800000#32 k.scales slot

/-- The extents to probe (R291). -/
def extents (c : Cmd) (k : Compute) (lens : List Nat) : List (Nat × Nat × Nat) :=
  (((stridedOf c k).map (·.2) ++ denseOf c k).filter (fun t => t.present && t.rows != 0)).map (fun t => (t.word, t.ref.addr, t.extent)) ++
  (scratchArea c k lens).map (fun p => (2, p.1, p.2))

/-- The probes of a list of addresses. -/
def probeAll (s : State) (c : Cmd) : List (Nat × Nat) → State × Bool
  | [] => (s, true)
  | (w, va) :: t =>
    match translate s (ctxOf s c) { plaitAccess c w va false with probe := true } with
    | (s, .at _) => probeAll s c t
    | (s, _) => (s, false)

/-- R288: a key of the verification cache moves to its front; the least recently used of 512 goes. -/
def cachePut (l : List VerKey) (k : VerKey) : List VerKey := (k :: l.filter (· != k)).take 512

def verKey (c : Cmd) (k : Compute) : VerKey := ⟨c.addr 2, k.s 1, k.h 1⟩

/-- Check 1 to 12: the step and the header as Plait read them. A hit in the cache and Burnoeg mode skip the checks after 2. -/
def verify (s : State) (c : Cmd) (k : Compute) : State × Bool :=
  let bad (s : State) (f : Fault290) : State × Bool := (verReject s c.id f.area f.index f.detail, false)
  if !burnoeg s c && s.cp.cache.contains (verKey c k) then (s, true) else
  match checkVersion k with
  | some f => bad s f
  | none =>
  if burnoeg s c then (s, true) else
  match stepChecks s c k with
  | some f => bad s f
  | none =>
  match readImages s c k (k.points.filter (fun p => 64 * k.progOff p + 64 ≤ k.h 6)) with
  | (s, none) => (s, false)
  | (s, some ims) =>
    match checkStore k ims <|> checkOffsets k <|> checkImages k ims <|> checkLimits k ims <|> checkStatistics c k ims with
    | some f => bad s f
    | none => (s, true)

/-- R78: the bits of words a0 to a15 that a kind uses. -/
def argBits (kind : Nat) : List Nat :=
  let m := 0xFFFFFFFF
  let h := 0xFFFFF
  match kind with
  | 0x20 => [m, m, m, h, 0xFFFF, m, m]
  | 0x21 => [m, m, m, h, 0xFFFF, m, m, 0, m, m, m, m, m, m, m, m]
  | 0x22 => [m, m]
  | 0x24 => [m, m, m, h, 0xFFFF, 0, 0, 0, m, m, m, m]
  | 0x25 => [m, m, m, h, 0xFFFF, m, m, 0, m, m, m, m, m, m, m, m]
  | _ => []

/-- R61, R78: the tensor references of an argument block: first word, place, and whether "not present" is allowed. -/
def argRefs (kind : Nat) : List (Nat × Place × Bool) :=
  match kind with
  | 0x20 | 0x22 => [(0, .statistic, true)]
  | 0x21 => [(0, .statistic, false), (8, .input, false), (10, .output, false), (12, .output, false), (14, .output, false)]
  | 0x24 => [(0, .statistic, false), (8, .statistic, true), (10, .statistic, true)]
  | 0x25 => [(0, .statistic, false), (5, .statistic, false), (8, .statistic, true), (10, .output, false), (12, .output, false),
      (14, .output, false)]
  | _ => []

/-- A word of the argument block that counts: a2 to a4 only with a document table (R181). -/
def Compute.arg (k : Compute) (i : Nat) : Nat := if 2 ≤ i && i ≤ 4 && !bit k.mask 2 && fld (k.s 0) 7 0 != 0x22 then 0 else tw k.args i

/-- R60, R61, R78, R567: what is wrong with an argument block, in the order and with the details of R86 (log 128). -/
def argsBad (c : Cmd) (k : Compute) : Option Nat :=
  let kind := stepKind c
  let rs := argRefs kind
  if !c.hasArgs then none
  else if (List.range 16).any (fun i => outside (k.arg i) ((argBits kind).getD i 0)) ||
      rs.any (fun r => (k.argRef r.1).addr == 0 && tw k.args (r.1 + 1) != 0) then some 0x0002
  else if rs.any (fun r => (k.argRef r.1).addr != 0 && !r.2.1.legal 0 (k.argRef r.1).fmt) then some 0x0003
  else if rs.any (fun r => (k.argRef r.1).addr % 64 != 0 || ((k.argRef r.1).addr == 0 && !r.2.2)) then some 0x0005
  else none

/-- The argument block, where a command has one (R78). -/
def readArgs (s : State) (c : Cmd) : State × Option (List Word) :=
  if !c.hasArgs then (s, some []) else
  match plaitRead s c 12 (c.addr 12) 64 with
  | (s, some bs) => (s, some (wordsOf bs))
  | (s, none) => (s, none)

/-- Check 14: the document table, read where the document bit is set (R181). -/
def readDocs (s : State) (c : Cmd) (k : Compute) : State × Option (List Nat) :=
  let n := fld (tw k.args 4) 15 0
  if !(c.hasArgs && bit k.mask 2) then (s, some [])
  else if pairAt k.args 2 = 0 || n = 0 then (verReject s c.id 3 0 0x010E, none)
  else
    match plaitRead s c 12 (pairAt k.args 2) (4 * n) with
    | (s, none) => (s, none)
    | (s, some bs) =>
      let docs := (wordsOf bs).map (·.toNat)
      match docBad docs with
      | some f => (verReject s c.id f.area f.index f.detail, none)
      | none => (s, some docs)

/-- The sequences that a reader names (R335). -/
def readerSeqs (s : State) (c : Cmd) : State × Option (List Nat) :=
  if c.opcode = Op.attnDecode then
    match plaitRead s c 6 (c.addr 6) (4 * c.keysIn) with
    | (s, some bs) => (s, some ((wordsOf bs).map (·.toNat)))
    | (s, none) => (s, none)
  else if c.coilReader then (s, some [fld (c.word 6) 19 0]) else (s, some [])

/-- The start itself, once nothing holds it: its items are counted, its scales read, and `fin` does what its operation does. -/
def planEnter (fin : State → Cmd → Compute → State) (s : State) (c : Cmd) (k : Compute) (snaps : List Snapshot) : State :=
  let k := { k with snaps := snaps }
  let k := { k with items := itemCount c k, scales := readScales s c k }
  let s := s.mapCmd c.id (·.startedAt s.cp.time)
  let s := if burnoeg s c then s else { s with cp := { s.cp with cache := cachePut s.cp.cache (verKey c k) } }
  fin (loseRingArea s (k.partition k.opPart)) c k

/-- What may hold a start once its checks have passed: a partition (R294), then the commands of Coil on its sequences (R335). -/
def planHolds (s : State) (c : Cmd) (k : Compute) (seqs : List Nat) (fin : State → Cmd → Compute → State) : State :=
  match partitionClash s c k with
  | some p => if burnoeg s c then stopCommand s c.id St.hazard (0x2000 + p) else hold_ s c
  | none =>
    if !c.coilReader then planEnter fin s c k []
    else if readerBlocked s seqs then hold_ s c
    else match readerStart s c seqs ⟨k.groups, k.dim, (c.ref 4).fmt, k.pFmt⟩ with
      | (s, none) => s
      | (s, some snaps) => planEnter fin s c k snaps

/-- What is left of a start after the checks of its plan: the choice of a shape, the probes (check 15), the checks `more` that the operation
adds, and what may hold it. -/
def planRest (s : State) (c : Cmd) (k : Compute) (seqs : List Nat) (more : State → Cmd → Compute → Option Nat)
    (fin : State → Cmd → Compute → State) : State :=
  match chooseShape s c k with
  | .error i => tileIllegal s c.id 1 i
  | .ok sh =>
    let k := { k with shape := sh }
    let lens := seqs.map (fun n => (s.desc n).length)
    match probeAll s c (((extents c k lens).filter (fun e => e.2.2 != 0)).map
        (fun e => [(e.1, e.2.1), (e.1, e.2.1 + e.2.2 - 1)])).flatten with
    | (s, false) => wait_ s c
    | (s, true) =>
      match more s c k with
      | some d => reject s c d
      | none => planHolds s c k seqs fin

/-- R287: words of the plan that Plait copied already, or copies now. -/
def copied (s : State) (c : Cmd) (have_ : List Word) (va : Nat) (keep : List Word → Cmd → Cmd) : State × Option (List Word) :=
  if !have_.isEmpty then (s, some have_) else
  match plaitRead s c 2 va 256 with
  | (s, some bs) => (s.mapCmd c.id (keep (wordsOf bs)), some (wordsOf bs))
  | (s, none) => (s, none)

/-- R287, R290: a command that names a step starts, or waits for a translation, a partition (R294) or Coil. `args` reads its argument
block. -/
def planWith (args : State → Cmd → State × Option (List Word)) (more : State → Cmd → Compute → Option Nat)
    (fin : State → Cmd → Compute → State) (s : State) (c : Cmd) : State :=
  match copied s c c.stepCopy (c.addr 2) (fun ws c => { c with stepCopy := ws }) with
  | (s, none) => wait_ s c
  | (s, some step) =>
    let k : Compute := { step := step }
    if fld (k.s 0) 7 0 != stepKind c then verReject s c.id 0 0 0x0101 else
    match copied s c c.headerCopy (pairAt k.step 2) (fun ws c => { c with headerCopy := ws }) with
    | (s, none) => wait_ s c
    | (s, some header) =>
      match args s c with
      | (s, none) => wait_ s c
      | (s, some args) =>
        let k := { k with header := header, args := args }
        match argsBad c k with
        | some d => reject s c d
        | none =>
        match verify s c k with
        | (s, false) => wait_ s c
        | (s, true) =>
          match checkHeld s c k with
          | some f => verReject s c.id f.area f.index f.detail
          | none =>
          match readDocs s c k with
          | (s, none) => wait_ s c
          | (s, some docs) =>
            match readerSeqs s c with
            | (s, none) => wait_ s c
            | (s, some seqs) => planRest s c { k with docs := docs } seqs more fin

def planGo (fin : State → Cmd → Compute → State) : State → Cmd → State := planWith readArgs (fun _ _ _ => none) fin

/-- A started command that carries work. -/
def setCompute (s : State) (c : Cmd) (k : Compute) : State := s.mapCmd c.id (fun c => { c with run := .compute k })

end Sys2Proof.Machine
end

