-- ==== Sys2Proof/Machine/Operands.lean ====
section
/-! DEFINITION. The operand forms of products and rib tiles: reading a tensor's tile from memory or from Coil, the prologues, the array path
over a tile, the beats of a tile, and the output stage that converts, gathers and writes. -/

namespace Sys2Proof.Machine

/-! ### Accesses that may wait -/

/-- An access may answer nothing (it waits, or its command has ended); what follows runs only on an answer. -/
def andThen {α β : Type} (r : State × Option α) (f : State → α → State × Option β) : State × Option β :=
  match r with
  | (s, some x) => f s x
  | (s, none) => (s, none)

/-- The same over a list, collecting the answers. -/
def collect {α β : Type} (s : State) (f : State → α → State × Option β) : List α → State × Option (List β)
  | [] => (s, some [])
  | x :: xs => andThen (f s x) (fun s y => andThen (collect s f xs) (fun s ys => (s, some (y :: ys))))

/-- The same, all asked for at once: one that has to wait does not keep back the others. -/
def collectAll {α β : Type} (s : State) (f : State → α → State × Option β) : List α → State × Option (List β)
  | [] => (s, some [])
  | x :: xs =>
    let y := f s x
    let ys := collectAll y.1 f xs
    (ys.1, match y.2, ys.2 with | some y, some ys => some (y :: ys) | _, _ => none)

/-- The streamer that serves an array: one of the four of its die (R365). -/
def agentOf (a : Nat) : Nat := 4 * (a / 2) + 2 * (a % 2)

/-- A streamer's access for a command (R404). -/
def slotAccess (c : Cmd) (agent word : Nat) (write : Bool) : Waiter := { plaitAccess c word 0 write with agent := agent }

/-- Bytes read at translated places; a failing line ends the command (R379). -/
def readPlaces (s : State) (c : Cmd) (ps : List (Nat × Nat)) : State × Option (List Byte) :=
  match readMeets s ps with
  | (s, some pa) => (eccEnd s c.id pa, none)
  | (s, none) => (s, some (readPieces s.mem ps))

/-! ### Channels for a rib (R22 to R24, R366) -/

/-- The streamers that may serve an array: those of its die first. -/
def streamersOf (agent : Nat) : List Nat := (List.range 4).map (· + agent / 4 * 4)

/-- A channel of a command with a property, opened where there is none: its streamer and number. -/
def channelFor (s : State) (agent : Nat) (c : Channel) (good : Channel → Bool) : State × Option (Nat × Nat) :=
  match findChannel s (streamersOf agent ++ List.range 64) good with
  | some p => (s, some p)
  | none =>
    match fewestOf s (streamersOf agent) <|> fewestOf s (List.range 64) with
    | some n => (openChannel s n c, some (n, (s.streamer n).channels.length))
    | none => (s, none)

/-- The channel that empties a rib's slots for a command. -/
def outChannel (s : State) (id agent : Nat) : State × Option (Nat × Nat) :=
  channelFor s agent { cmd := id } (fun c => c.cmd == id && c.ring.isNone && c.cursor.isNone)

/-- Transfers out of a rib's slots are queued. -/
def queueOut (s : State) (c : Cmd) (agent : Nat) (ts : List Transfer) : State × Option Unit :=
  if ts.isEmpty then (s, some ()) else andThen (outChannel s c.id agent) (fun s p => (queueOn s p ts, some ()))

/-- The ring of a command that brings what the rib of an array asks for. -/
def fetchRing (s : State) (id agent number : Nat) : Nat :=
  ((s.rings.find? (fun p => p.2.cmd == id && p.2.number == number && p.2.members == [(agent / 2, 0)])).map (·.1)).getD 0

/-- The slot that brings a range. -/
def SlotRing.bringing (x : SlotRing) (src : Loc) (n : Nat) : Option Nat :=
  (List.range x.plan.length).find? (fun i => (x.planOf i).src == some src && (x.planOf i).bytes == n)

/-- What a rib asked for is no longer wanted. -/
def dropFetched (s : State) (id agent : Nat) : State :=
  (s.rings.filter (fun p => p.2.cmd == id && ringFetch ≤ p.2.number && p.2.members == [(agent / 2, 0)])).foldl
    (fun s p => dropIdle (closeFill { s with rings := tdel s.rings p.1 } p.1)) s

/-- What follows an event that has all it needs: the slots that brought it are free (R364). -/
def fetchDone {α : Type} (id agent : Nat) (r : State × Option α) : State × Option α :=
  match r with
  | (s, some x) => (dropFetched s id agent, some x)
  | (s, none) => (s, none)

/-- The rib of another array is changing a range (log 50). -/
def takenElsewhere (s : State) (id agent : Nat) (src : Loc) (n : Nat) : Bool :=
  s.rings.any (fun p => p.2.cmd == id && p.2.number == ringTaken && p.2.members != [(agent / 2, 0)] &&
    p.2.plan.any (fun x => match x.src with | some l => l.meets x.bytes src n | none => false))

/-- A streamer is asked for a range: a slot more in the rib's ring, and a transfer that fills it. -/
def askFor (s : State) (c : Cmd) (agent word number : Nat) (src : Loc) (n : Nat) : State :=
  let old := fetchRing s c.id agent number
  let id := if old = 0 then freshRing s else old
  let x := if old = 0 then
      { cmd := c.id, number := number, members := [(agent / 2, 0)], homes := ringHomes [agent / 2], partition := (workOf c).partition (workOf c).ribPart }
    else s.ringAt old
  let p : SlotPlan := { bytes := n, src := some src, view := { rows := 1, cols := n, rowsIn := 1, colsIn := n, fmt := .e4m3 } }
  let t : Transfer := { src := src, dst := .slot id x.plan.length 0, bytes := n, word := word }
  match channelFor s agent { cmd := c.id, ring := some id } (fun k => k.ring == some id) with
  | (s, some k) => queueOn (s.setRing id { x with plan := x.plan ++ [p], depth := x.depth + 1 }) k [t]
  | (s, none) => s

/-- What a rib needs from outside stake comes by a streamer into a slot (R23, R24, R366): none until it is there. What is still being written,
or, to be changed, is being changed elsewhere, is waited for. -/
def fetch (s : State) (c : Cmd) (agent word number : Nat) (src : Loc) (n : Nat) : State × Option (List Byte) :=
  let x := s.ringAt (fetchRing s c.id agent number)
  match x.bringing src n with
  | some i =>
    if (x.slot i).got != n then (s, none) else
    match readMeets s (x.linesAt s (agent / 2) i) with
    | (s, some pa) => (eccEnd s c.id pa, none)
    | (s, none) => (s, some ((x.slot i).bytesAt 0 n))
  | none =>
    if (s.cmd? c.id).all (fun c => c.status.isSome) || writesPending s c.id src n || (number == ringTaken && takenElsewhere s c.id agent src n) then (s, none)
    else (askFor s c agent word number src n, none)

/-- R366: an end of a transfer, as translated pieces; a slot has none. -/
def placePieces (s : State) (w : Waiter) (n : Nat) : Loc → State × Option (List (Nat × Nat)) × Xlate
  | .phys pa => (s, some (pagesOf pa n), .at pa)
  | .virt ctx va => translateRange s ctx { w with va := va } va n
  | .slot .. => (s, some [], .at 0)

/-- Pieces that a rib, or Plait or Hoop in its own accesses, reaches itself. -/
def reaches (agent : Nat) (ps : List (Nat × Nat)) : Bool := 64 ≤ agent || ps.all (fun p => regionOf p.1 == .stake)

/-- Bytes at a place, read by the rib itself in stake, and from elsewhere through a slot of the ring `number` (R23, R24). -/
def readBy (s : State) (c : Cmd) (agent word number : Nat) (src : Loc) (n : Nat) : State × Option (List Byte) :=
  match placePieces s (slotAccess c agent word false) n src with
  | (s, some ps, _) => if reaches agent ps then readPlaces s c ps else fetch s c agent word number src n
  | (s, none, _) => (s, none)

/-- Bytes that are only read. -/
def readAt (s : State) (c : Cmd) (agent word : Nat) (src : Loc) (n : Nat) : State × Option (List Byte) := readBy s c agent word ringFetch src n

/-- Bytes that the event goes on to change: no other rib changes them meanwhile (R354, log 50). -/
def takeAt (s : State) (c : Cmd) (agent word : Nat) (src : Loc) (n : Nat) : State × Option (List Byte) := readBy s c agent word ringTaken src n

def readVa (s : State) (c : Cmd) (agent word va n : Nat) : State × Option (List Byte) := readAt s c agent word (.virt (ctxOf s c) va) n

/-! ### Writes -/

/-- A place of a write, with its translated pieces. -/
abbrev Spot := Loc × List (Nat × Nat)

/-- The places of a list of writes: all are translated, and a channel is there for those that need one, before any is made. -/
def placeAt (s : State) (c : Cmd) (agent word : Nat) (ws : List (Loc × Nat)) : State × Option (List Spot) :=
  andThen (collect s (fun s (w : Loc × Nat) =>
    match placePieces s (slotAccess c agent word true) w.2 w.1 with
    | (s, some ps, _) => (s, some (w.1, ps))
    | (s, none, _) => (s, none)) ws) (fun s l =>
  if l.all (fun x => reaches agent x.2) then (s, some l) else andThen (outChannel s c.id agent) (fun s _ => (s, some l)))

def placeAll (s : State) (c : Cmd) (agent word : Nat) (ws : List (Nat × Nat)) : State × Option (List Spot) :=
  placeAt s c agent word (ws.map (fun w => (.virt (ctxOf s c) w.1, w.2)))

/-- The writes themselves; a partial line whose stored word fails ends the command, the other lines are made (R380). -/
def makeAll (s : State) (c : Cmd) (places : List (List (Nat × Nat))) (data : List (List Byte)) : State × Option Unit :=
  match (places.zip data).foldl (fun (t : State × Option Nat) w => let x := writeMeets t.1 w.1 w.2; (x.1, t.2 <|> x.2)) (s, none) with
  | (s, none) => (s, some ())
  | (s, some pa) => (eccWriteEnd s c.id pa, none)

/-- The pieces of a place, each with its offset. -/
def offsets (off : Nat) : List (Nat × Nat) → List ((Nat × Nat) × Nat)
  | [] => []
  | p :: ps => (p, off) :: offsets (off + p.2) ps

/-- Where the rows of an output begin in its slot: each takes whole lines (R363). -/
def rowStarts (off : Nat) : List (List Byte) → List Nat
  | [] => []
  | d :: ds => off :: rowStarts (off + cdiv d.length 64 * 64) ds

/-- Writes at their places: a rib writes stake itself (R23); what lies elsewhere goes by a streamer from a slot of the rib (R24), each row
from its lines (R363). `keep` of an output, which an error of the command undoes (R92). -/
def makeAt (s : State) (c : Cmd) (agent word : Nat) (keep : Bool) (places : List Spot) (data : List (List Byte)) : State × Option Unit :=
  let rows := ((places.zip data).zip (rowStarts 0 data)).map (fun w => (offsets 0 w.1.1.2).map (fun p =>
    (p.1, w.1.1.1.plus p.2, (w.1.2.drop p.2).take p.1.2, w.2 + p.2)))
  let here := rows.flatten.filter (fun p => reaches agent [p.1])
  let away := rows.flatten.filter (fun p => !reaches agent [p.1])
  andThen (queueOut s c agent (away.map (fun p =>
      { src := .slot 0 0 p.2.2.2, dst := p.2.1, bytes := p.1.2, word := word, data := some p.2.2.1 }))) (fun s _ =>
    makeAll (if keep then keepOld s c.id (here.map (·.1)) else s) c (here.map (fun p => [p.1])) (here.map (·.2.2.1)))

/-- The writes of a command's output. -/
def makeOut (s : State) (c : Cmd) (agent word : Nat) (places : List Spot) (data : List (List Byte)) : State × Option Unit :=
  makeAt s c agent word true places data

/-- Writes to a scratch or state area. -/
def writeAt (s : State) (c : Cmd) (agent word : Nat) (ws : List (Loc × List Byte)) : State × Option Unit :=
  andThen (placeAt s c agent word (ws.map (fun w => (w.1, w.2.length)))) (fun s ps => makeAt s c agent word false ps (ws.map (·.2)))

def writeVa (s : State) (c : Cmd) (agent word : Nat) (ws : List (Nat × List Byte)) : State × Option Unit :=
  writeAt s c agent word (ws.map (fun w => (.virt (ctxOf s c) w.1, w.2)))

/-! ### Tensors -/

/-- The codes of bytes in a format; an INT4 byte row is read by `nibble`. -/
def codesOf (f : Format) (bs : List Byte) : List Nat := (chunksOf f.bytes bs).map Memory.ofBytes
def nibble (high : Bool) (bs : List Byte) : List Nat := bs.map (fun b => if high then b.toNat / 16 else b.toNat % 16)
def codeBytes (f : Format) (codes : List Nat) : List Byte := (codes.map (Memory.leBytes f.bytes)).flatten

/-- In-bounds elements only are read (R152): `nc` codes of row `r` from column `c0`. -/
def readRow (s : State) (c : Cmd) (agent : Nat) (t : Ten) (o c0 nc r : Nat) : State × Option (List Nat) :=
  if t.fmt = .int4 then andThen (readVa s c agent t.word (t.at o (r / 2) c0) nc) (fun s bs => (s, some (nibble (r % 2 == 1) bs)))
  else andThen (readVa s c agent t.word (t.at o r c0) (nc * t.fmt.bytes)) (fun s bs => (s, some (codesOf t.fmt bs)))

/-- A run of indices cut at an extent. -/
def within (lo n extent : Nat) : Nat := min n (extent - lo)

def upTo (lo n : Nat) : List Nat := (List.range n).map (· + lo)

def padTo' {α : Type} (n : Nat) (z : α) (l : List α) : List α := (l ++ List.replicate (n - l.length) z).take n

/-- The columns of a matrix. -/
def transpose {α : Type} (n : Nat) (z : α) (m : List (List α)) : List (List α) := (List.range n).map (fun j => m.map (·.getD j z))

/-! ### The array path over a tile -/

/-- The elements of a tile at the array edge: their pieces, with the flags of their reading. -/
def edgeTile (f : Format) (prec : Nat) (m : List (List Nat)) : List (List (List Fp × Sticky)) := m.map (fun r => r.map (edge f prec))

/-- The flags of the first rows and columns. -/
def cellFlags (rows cols : Nat) (m : List (List (α × Sticky))) : Sticky := joinS (((m.take rows).map (fun r => (r.take cols).map (·.2))).flatten)

/-- R112 for every cell of a tile: `a` by rows, `b` by columns, both over the same positions; the accumulators and the flags of in-bounds
cells (R132). -/
def tileProduct (prec : Nat) (fa fb : Format) (a b : List (List Nat)) (acc : List (List Word)) (rin cin : Nat) : List (List Word) × Sticky :=
  let ea := edgeTile fa prec a
  let eb := edgeTile fb prec b
  let cells := (ea.zip acc).map (fun r => (eb.zip r.2).map (fun q => dotCell prec (r.1.map (·.1)) (q.1.map (·.1)) q.2))
  (cells.map (fun r => r.map (·.1)),
   (cellFlags rin cin cells).or ((cellFlags rin (a.headD []).length ea).or (cellFlags cin (b.headD []).length eb)))

def zeroTile (rows cols : Nat) : List (List Word) := List.replicate rows (List.replicate cols 0#32)

/-- A factor applied to every value of a tile as it drains (R126), with the flags of in-bounds cells. -/
def drainTile (f : Word) (rin cin : Nat) (m : List (List Word)) : List (List Word) × Sticky :=
  let r := m.map (fun x => x.map (fun w => arrayMul w f))
  (r.map (fun x => x.map (·.1)), cellFlags rin cin r)

/-! ### Drain factors (R126, R172, R207) -/

/-- One step of a factor: a product or a quotient. -/
def factorOp (t : Word × Sticky) (q : Bool × Word) : Word × Sticky :=
  let x := fpVal t.1
  let y := fpVal q.2
  if q.1 then
    let d := quotBits x.m.natAbs x.e y.m.natAbs y.e
    let r := factorStep d.1 d.2.1 d.2.2
    (r.1, t.2.or r.2)
  else
    let p := x.mul y
    let r := factorStep p.m.natAbs p.e false
    (r.1, t.2.or r.2)

/-- A factor evaluated left to right: (true, y) divides by y, (false, y) multiplies. -/
def factorOf (x : Word) (steps : List (Bool × Word)) : Word × Sticky := steps.foldl factorOp (x, .none)

/-! ### Beats (R140, R234, R238) -/

/-- Beats in the tile. -/
def Geom.beats (g : Geom) : Nat := cdiv (g.rows * g.parts) 2

/-- The registers' coordinates of beat `b`. -/
def Geom.regs (g : Geom) (b : Nat) : BeatRegs :=
  { index := b, rows := [2 * b / g.parts, (2 * b + 1) / g.parts],
    cols := [2 * b % g.parts * g.width, (2 * b + 1) % g.parts * g.width], rowBase := g.rowBase, colBase := g.colBase, keyPos := g.keyPos,
    queryPos := g.queryPos, rowsIn := g.rowsIn, colsIn := g.colsIn, width := g.width, turned := g.turned, head := g.head,
    skip := g.skip }

/-- The values of beat `b`: up to 128 columns of each segment. -/
def Geom.beat (g : Geom) (m : List (List Word)) (b : Nat) : List Word :=
  let x := g.regs b
  laneList.map (fun l => if l % 128 < g.width then (m.getD (x.row l) []).getD (x.col l) 0#32 else 0#32)

/-- A tile rebuilt from its beats. -/
def Geom.unbeat (g : Geom) (beats : List (Nat × List Word)) (m : List (List Word)) : List (List Word) :=
  (List.range g.rows).map (fun r => (List.range g.cols).map (fun c =>
    let q := r * g.parts + c / g.width
    match beats.find? (fun p => p.1 == q / 2) with
    | some p => p.2.getD (q % 2 * 128 + c % g.width) 0#32
    | none => (m.getD r []).getD c 0#32))

/-- A beat of the stake operand slot: as it came, or as a pass before has rewritten it. -/
def Rib.slotBeat (x : Rib) (b : Nat) (tile : List Word) : List Word := ((x.rewritten.find? (fun q => q.1 == b)).map (·.2)).getD tile

/-- The source of a pass (R240): what v0 holds. -/
def passSource (x : Rib) (rib : Nat) (p : Pass) (b : Nat) (tile : List Word) : List Word :=
  match p.source with
  | 0 => tile
  | 1 => x.line rib (p.line + b)
  | 2 => x.slotBeat b tile
  | _ => zeroLanes

/-- Sink 2 (R240): a beat's in-bounds values go over the stake operand slot, converted to its format, with the flags of that (R104). -/
def Rib.rewrite (x : Rib) (e : RibEnv) (b : Nat) (tile v : List Word) : Rib × Sticky :=
  let y := v.map (slotValue e)
  let new := under (x.insideMask (List.replicate lanes true)) (y.map (·.1)) (x.slotBeat b tile)
  ({ x with rewritten := (b, new) :: x.rewritten.filter (fun q => q.1 != b) }, joinS (x.insideOf (y.map (·.2))))

/-- One beat through one pass: the rib after it, what v0 holds at the end, and the flags. A rib store sink writes its line, in bounds (R234),
and an operand slot sink its slot. -/
def passBeat (e : RibEnv) (im : Image) (p : Pass) (x : Rib) (b : BeatRegs) (tile : List Word) : Rib × List Word × Sticky :=
  let r := runChain e (im.body p) (beginBeat x b (passSource x e.rib p b.index tile))
  let v := r.1.reg 0
  if p.sink = 1 then (r.1.putLine (r.1.insideMask (List.replicate lanes true)) (p.line + b.index) v, v, r.2)
  else if p.sink = 2 then let y := r.1.rewrite e b.index tile v; (y.1, v, r.2.or y.2)
  else (r.1, v, r.2)

/-- The sink whose values a point takes (R240, R248; log 117): a prologue's go to the operand slot, a score program's to the built-in
chain, an epilogue's to the output stage. -/
def pointSink (point : Nat) : Nat := if point ≤ 1 then 2 else if point = 2 then 5 else 0

/-- What a program has made of a tile so far: the rib, the beats handed on to sink `out` and to the fill path, and the flags. -/
structure Passed where
  rib : Rib := {}
  out : List (Nat × List Word) := []
  fill : List (Nat × List Word) := []
  flags : Sticky := .none
  deriving DecidableEq, Repr

/-- A beat of a tile takes the place of an older one. -/
def newBeat (l : List (Nat × List Word)) (b : Nat) (v : List Word) : List (Nat × List Word) := l.filter (fun q => q.1 != b) ++ [(b, v)]

/-- All beats of a tile through one pass; the values of sink `out` are handed on. -/
def passTile (e : RibEnv) (im : Image) (p : Pass) (out : Nat) (g : Geom) (m : List (List Word)) (t : Passed) : Passed :=
  (List.range g.beats).foldl (fun (t : Passed) b =>
    let r := passBeat e im p t.rib (g.regs b) (g.beat m b)
    { rib := r.1, out := if p.sink = out then newBeat t.out b r.2.1 else t.out,
      fill := if p.sink = 3 then newBeat t.fill b r.2.1 else t.fill, flags := t.flags.or r.2.2 }) t

/-- A tile through a whole program; what it hands on to an operand slot is what the slot then holds. -/
def runTile (e : RibEnv) (im : Image) (x : Rib) (out : Nat) (g : Geom) (m : List (List Word)) : Passed × List (List Word) :=
  let r := (im.passes.map passOf).foldl (fun t p => passTile e im p out g m t) { rib := { x with rewritten := [] } }
  (r, g.unbeat (if out = 2 then r.rib.rewritten else r.out) m)

/-- Sink 3 (R143, R240): beats enter the accumulator tile of the work that the array has in hand for a command, by the fill path, each value in
the cell of its row and column; out-of-bounds lanes enter nothing (R234). -/
def fillPath (s : State) (id a : Nat) (g : Geom) (beats : List (Nat × List Word)) : State :=
  let x := s.array a
  match x.work with
  | none => s
  | some w =>
    if w.cmd != id || beats.isEmpty then s else
    let enter (t : Tile) : Tile :=
      { t with vals := (upTo 0 t.vals.length).zip t.vals |>.map (fun p =>
          let r := p.1 / t.cols
          let c := p.1 % t.cols
          let q := r * g.parts + c / g.width
          match beats.find? (fun b => b.1 == q / 2) with
          | some b => if r < g.rows && c < g.cols && (g.regs b.1).inside (q % 2 * 128 + c % g.width) then b.2.getD (q % 2 * 128 + c % g.width) 0#32 else p.2
          | none => p.2) }
    s.setArray a (if w.acc = 0 then { x with acc0 := x.acc0.map enter } else { x with acc1 := x.acc1.map enter })

/-- The image of a command at a point, where its step names one and the rib has loaded it. -/
def imageAt (s : State) (a id point : Nat) : Option Image :=
  (((s.ribOf a).bankOf id).images.find? (fun p => p.1 == point)).map (·.2)

/-- R245, R289, R293: why a program may not run over a tile: cause 4, an illegal instruction or pass, or, in Burnoeg mode, cause 3, a rib
store line outside the allocation. -/
def programFault (s : State) (c : Cmd) (im : Image) (g : Geom) : Option Nat :=
  let k := workOf c
  if (imageIllegal im).isSome then some 4
  else if burnoeg s c && !(im.passes.map passOf).all (passInside (ribFirst k) (ribLines k) g.beats im) then some 3
  else none

/-- A tile through the program of a point on a rib, its flags in a slot; unchanged where there is none. A program that may not run ends the
command. `env` completes what the program sees. -/
def throughWith (env : RibEnv → RibEnv) (s : State) (c : Cmd) (a point slot : Nat) (g : Geom) (m : List (List Word)) :
    State × Option (List (List Word)) :=
  match imageAt s a c.id point with
  | none => (s, some m)
  | some im =>
    match programFault s c im g with
    | some cause => (tileIllegal s c.id cause a, none)
    | none =>
      let x := s.ribOf a
      let r := runTile (env (envFor s c a (x.bankOf c.id) slot)) im x (pointSink point) g m
      let s := s.setRib a { r.1.rib with regs := x.regs, rewritten := x.rewritten }
      (noteEvent (raiseSlotFlags (fillPath s c.id a g r.1.fill) slot r.1.flags) 0x06 a (im.passes.length * g.beats), some r.2)

def throughProgram (s : State) (c : Cmd) (a point slot : Nat) (g : Geom) (m : List (List Word)) : State × Option (List (List Word)) :=
  throughWith id s c a point slot g m

/-- R104, R105: an FP32 value in an output format, rounded to nearest even. -/
def outCode (s : State) (c : Cmd) (f : Format) (w : Word) : Nat × Sticky :=
  let r := convertCode .fp32 f .rne (nanOnOverflow s c) (Fmt.binary32.decode w.toNat)
  (r.1, r.2.1)

/-- R102: what a prologue leaves an INT4 operand in. -/
def prologueFormat (f : Format) : Format := if f = .int4 then .e4m3 else f

/-- R248: a prologue rewrites an operand tile in its slot, in the operand's format: its sink has converted what it wrote. -/
def prologue (s : State) (c : Cmd) (a point : Nat) (f : Format) (g : Geom) (m : List (List Nat)) : State × Option (List (List Nat)) :=
  andThen (throughWith (fun e => { e with slotFmt := prologueFormat f }) s c a point 0 g (m.map (fun x => x.map (widenTo32 f)))) (fun s r =>
    (s, some (r.map (fun x => x.map (fun w => (outCode s c (prologueFormat f) w).1)))))

/-! ### The output stage (R139, R468 to R470) -/

/-- The in-bounds part of a tile. -/
def crop {α : Type} (rin cin : Nat) (m : List (List α)) : List (List α) := (m.take rin).map (·.take cin)

/-- Where rows of a tensor lie, from column `c0`: addresses and lengths. -/
def rowPlaces (t : Ten) (places : List (Nat × Nat)) (c0 nc : Nat) : List (Nat × Nat) :=
  places.map (fun p => (t.at p.1 p.2 c0, nc * t.fmt.bytes))

/-- Codes written at translated places, and gathered into the tensor's slot with the flags of their conversion. -/
def commitCodes (s : State) (c : Cmd) (agent : Nat) (t : Ten) (places : List Spot) (codes : List (List (Nat × Sticky))) :
    State × Option Unit :=
  andThen (makeOut s c agent t.word places (codes.map (fun r => codeBytes t.fmt (r.map (·.1))))) (fun s _ =>
    let vals := ((codes.map (fun r => r.map (fun x => widenTo32 t.fmt x.1))).flatten)
    (gather s c.id t.ref.slot ((workOf c).scale t.ref.slot) t.ref.fmt t.fmt.is8 vals (joinS ((codes.map (fun r => r.map (·.2))).flatten)),
     some ()))

/-- Rows of FP32 values as codes of a tensor (R103, R104). -/
def outRows (s : State) (c : Cmd) (t : Ten) (m : List (List Word)) : List (List (Nat × Sticky)) := m.map (fun r => r.map (outCode s c t.fmt))

/-- In-bounds rows of a tile converted into a tensor, written at (outer, row, column), and gathered into its slot. -/
def writeTile (s : State) (c : Cmd) (agent : Nat) (t : Ten) (o r0 c0 rin cin : Nat) (m : List (List Word)) : State × Option Unit :=
  andThen (placeAll s c agent t.word (rowPlaces t ((upTo r0 rin).map (fun r => (o, r))) c0 cin))
    (fun s ps => commitCodes s c agent t ps (outRows s c t (crop rin cin m)))

/-- FP32 values written as they are, each at its index, and gathered. -/
def commitDense (s : State) (c : Cmd) (agent : Nat) (t : Ten) (places : List Spot) (ws : List Word) : State × Option Unit :=
  andThen (makeOut s c agent t.word places (ws.map (fun w => wordBytes [w]))) (fun s _ =>
    (gather s c.id t.ref.slot ((workOf c).scale t.ref.slot) 3 false ws .none, some ()))

def densePlaces (t : Ten) (is : List Nat) : List (Nat × Nat) := is.map (fun i => (t.ref.addr + 4 * i, 4))

/-! ### Bookkeeping of a command's work -/

/-- Changes the work of a command. -/
def mapWork (s : State) (id : Nat) (f : Compute → Compute) : State :=
  s.mapCmd id (fun c => { c with
    run := (match c.run with
      | .compute k => .compute (f k)
      | .ring r => .ring { r with work := f r.work }
      | r => r) })

/-- An item is complete on an array or rib, with the tiles that it counts (R305, R480). -/
def itemDone (s : State) (id item tiles a : Nat) : State :=
  let s := noteEvent s 0x12 a tiles
  let s := mapWork s id (fun k => { k with assigned := k.assigned.filter (· != item), done := item :: k.done, tiles := k.tiles + tiles })
  s.mapCmd id (fun c => { c with tLast := s.cp.time })

/-- Every item is complete, and nothing is left to finish. -/
def Compute.finished (k : Compute) : Bool := k.items ≤ k.done.length && k.finish.isEmpty

/-- R90, R184: a command's work has ended: RANGE_EXCEEDED with the rows set to NaN, or OK with its tiles. The readers that it took are given
back at its retirement, and here where it ends with an error (R335). -/
def decideWork (s : State) (c : Cmd) (k : Compute) : State :=
  if k.nanRows.isEmpty then decideStatus (stopWork s c.id) c.id St.ok 0 k.tiles
  else
    let first := k.firstBad.getD (k.nanRows.foldl min (k.nanRows.headD 0))
    decideStatus (stopWork (releaseReaders s c) c.id) c.id St.rangeExceeded (first % 2 ^ 16) k.nanRows.length

/-- R71, R372: a command of its own work ends when nothing of it is left and its transfers are complete. -/
def endWork (s : State) (id : Nat) : State :=
  match s.cmd? id with
  | none => s
  | some c =>
    if c.stop.isSome then settle s id else
    match c.run with
    | .compute k =>
      if k.finished && !hasChannels s id then decideWork s c k else s
    | _ => s

/-- A command that names a step has started; one without a work item ends at once. -/
def startWork (s : State) (c : Cmd) (k : Compute) : State := endWork (setCompute s c k) c.id

/-- A row that starts a plan step command, or looks again at one that waits. -/
def planRow (q op : Nat) (s : State) : Out := startOrPoll s q op (planGo startWork)

end Sys2Proof.Machine
end

