-- ==== Sys2Proof/Machine/Rings.lean ====
section
/-! DEFINITION. Operand tiles in slot rings (R134, R152, R153, R359 to R364): where the rows of a tile lie in memory, the opening of a ring
with the channel that fills it, a slot that becomes ready, and a slot that an array reads. -/

namespace Sys2Proof.Machine

/-! ### Operand tiles in memory -/

/-- A tensor, a sequence of Coil, or dense rows at a device-physical place. -/
inductive Src where
  | ten (t : Ten) (o : Nat)
  | coil (seq group : Nat) (values : Bool) (f : Format) (dim snapshot : Nat)
  | raw (pa : Nat) (f : Format) (dim rows : Nat)
  deriving DecidableEq, Repr

def Src.fmt : Src → Format
  | .ten t _ => t.fmt
  | .coil _ _ _ f _ _ => f
  | .raw _ f _ _ => f

/-- An operand tile that a slot is to hold: its block, how it stands in the slot, its coordinates, its rows in memory as (row of lines,
place, bytes), and the packet word of the reference. -/
structure OpTile where
  block : Nat := 0
  view : SlotView := {}
  geom : Geom := {}
  rows : List (Nat × Loc × Nat) := []
  word : Nat := 2
  deriving DecidableEq, Repr

/-- Rows of a tensor at (outer, row) places, `nc` columns from `c0`: in-bounds elements only (R152). An INT4 line row holds two rows. -/
def tenTile (ctx : Nat) (t : Ten) (places : List (Nat × Nat)) (nr c0 nc : Nat) : OpTile :=
  let int4 := t.fmt == .int4
  let cin := within c0 nc t.cols
  let lines := if int4 then distinct (places.map (fun p => (p.1, p.2 / 2))) else places
  { view := { rows := nr, cols := nc, rowsIn := places.length, colsIn := cin, fmt := t.fmt,
              upper := int4 && (places.headD (0, 0)).2 % 2 == 1 },
    rows := (lines.zip (upTo 0 lines.length)).map (fun p => (p.2, .virt ctx (t.at p.1.1 p.1.2 c0), cin * t.fmt.bytes)), word := t.word }

/-- `nr` rows of a source from row `r0`, `nc` columns from `c0`. The rows of a sequence come by its page cursor. -/
def srcTile (ctx : Nat) (src : Src) (r0 nr c0 nc : Nat) : OpTile :=
  match src with
  | .ten t o => tenTile ctx t ((upTo r0 (within r0 nr t.rows)).map (fun r => (o, r))) nr c0 nc
  | .coil _ _ _ f dim snap => { view := { rows := nr, cols := nc, rowsIn := within r0 nr snap, colsIn := dim, fmt := f } }
  | .raw pa f dim rows =>
    let n := within r0 nr rows
    { view := { rows := nr, cols := nc, rowsIn := n, colsIn := dim, fmt := f },
      rows := (upTo 0 n).map (fun i => (i, .phys (pa + (r0 + i) * dim * f.bytes), dim * f.bytes)) }

def OpTile.at_ (x : OpTile) (block : Nat) (g : Geom) : OpTile :=
  { x with block := block, geom := { g with rowsIn := x.view.rowsIn, colsIn := x.view.colsIn } }

/-- R201, R363: the slewed layout. -/
def OpTile.slew (x : OpTile) : OpTile := { x with view := { x.view with slewed := true } }

/-- The bytes that fill the slot. -/
def OpTile.bytes (x : OpTile) : Nat :=
  if x.rows.isEmpty then x.view.rowsIn * x.view.colsIn * x.view.fmt.bytes else sumNat (x.rows.map (fun r => r.2.2))

def OpTile.plan (x : OpTile) : SlotPlan := { block := x.block, view := x.view, bytes := x.bytes, geom := x.geom }

/-- The transfers that fill slot `n` of a ring. -/
def OpTile.fill (x : OpTile) (id n : Nat) : List Transfer :=
  x.rows.map (fun r => { src := r.2.1, dst := .slot id n (r.1 * (64 * x.view.lines)), bytes := r.2.2, word := x.word })

/-! ### Opening a ring (R153, R360, R361, R366) -/

/-- A ring to be opened: its number, its members, its depth, the prologue of its slots and what they are to hold. -/
structure RingSpec where
  number : Nat := 0
  members : List Nat := []
  depth : Nat := 8
  point : Option Nat := none
  tiles : List OpTile := []
  deriving DecidableEq, Repr

/-- The first bank row that no ring of the same halves uses (log 116). -/
def firstRowFor (s : State) (partition : Nat) (homes : List Nat) : Nat :=
  s.rings.foldl (fun n p => if p.2.partition = partition && p.2.homes.any homes.contains then max n (p.2.firstRow + p.2.depth * p.2.slotRows) else n) 0

/-- The slots of a ring queued on a channel of a streamer; a ring that a rib or a page cursor fills has none of its own. -/
def queueFill (s : State) (c : Cmd) (id : Nat) (r : RingSpec) : State × Option Unit :=
  let ts := ((r.tiles.zip (upTo 0 r.tiles.length)).map (fun p => p.1.fill id p.2)).flatten
  if ts.isEmpty then (s, some ()) else
  match fewestOf s (streamersOf (agentOf (r.members.headD 0))) <|> fewestOf s (List.range 64) with
  | some n => (openChannel s n { cmd := c.id, ring := some id, queued := ts }, some ())
  | none => (s, none)

/-- A ring opens, empty: its key; none while every streamer is full. -/
def openRing (s : State) (c : Cmd) (k : Compute) (r : RingSpec) : State × Option Nat :=
  let id := freshRing s
  let homes := ringHomes r.members
  let p := k.partition k.opPart
  let x : SlotRing :=
    { cmd := c.id, number := r.number, depth := r.depth, members := r.members.map (fun a => (a, 0)), point := r.point,
      plan := r.tiles.map OpTile.plan, partition := p, homes := homes, firstRow := firstRowFor s p homes }
  andThen (queueFill (s.setRing id x) c id r) (fun s _ => (s, some id))

/-- The rings of an assignment, each with its number; none opens unless all do. -/
def openRings (s : State) (c : Cmd) (k : Compute) (rs : List RingSpec) : State × Option (List (RingSpec × Nat)) :=
  match collect s (fun s r => andThen (openRing s c k r) (fun s id => (s, some (r, id)))) rs with
  | (_, none) => (s, none)
  | (s, some l) => (s, some l)

/-- The rings of one member. -/
def ringsOf (a : Nat) (l : List (RingSpec × Nat)) : List (Nat × Nat) :=
  (l.filter (fun p => p.1.members.contains a)).foldl (fun t p => tput t p.1.number p.2) []

/-! ### A slot becomes ready (R248, R364) -/

/-- The codes of an operand tile from the lines of its slot, zero beyond the in-bounds extent (R152). -/
def slotTile (v : SlotView) (y : RingSlot) : List (List Nat) :=
  let row (r : Nat) : List Nat :=
    let q := r + b2n v.upper
    if v.fmt = .int4 then nibble (q % 2 == 1) (y.bytesAt (q / 2 * (64 * v.lines)) v.colsIn)
    else codesOf v.fmt (y.bytesAt (r * (64 * v.lines)) (v.colsIn * v.fmt.bytes))
  padTo' v.rows (List.replicate v.cols 0) ((upTo 0 v.rowsIn).map (fun r => padTo' v.cols 0 (row r)))

/-- What a read meets (R377, R379): corrected words are counted; a line that fails ends the command. -/
def meetFinding (s : State) (c : Cmd) (pa : Nat) (f : Finding) (ps : List (Nat × Nat)) : State × Option Unit :=
  match readMeets (meetAt s pa f) ((pa, 1) :: ps) with
  | (s, some pa) => (eccEnd s c.id pa, none)
  | (s, none) => (s, some ())

/-- A member reads slot `n` of a ring; a finding lies in line `place`. -/
def readLines (s : State) (c : Cmd) (a id n : Nat) (f : Finding) : State × Option Unit :=
  let x := s.ringAt id
  meetFinding s c (x.linePlace s (x.homeOf a) n f.place) f (x.linesAt s a n)

/-- The rib that runs a ring's prologue: that of its lowest-numbered member (R248). -/
def SlotRing.lead (x : SlotRing) : Nat := (x.members.map (·.1)).foldl min ((x.members.headD (0, 0)).1)

/-- The tile of a slot, through the prologue of its ring, with what the slot's lines and the rib's memories meet. -/
def slotCodes (s : State) (c : Cmd) (id n : Nat) (f g : Finding) : State × Option (Format × List (List Nat)) :=
  let x := s.ringAt id
  let p := x.planOf n
  let m := slotTile p.view (x.slot n)
  match x.point with
  | none => (s, some (p.view.fmt, m))
  | some q =>
    if (imageAt s x.lead c.id q).isNone then (s, some (p.view.fmt, m)) else
    andThen (readLines s c x.lead id n f) (fun s _ =>
    andThen (ribFinding s x.lead c g) (fun s _ =>
    andThen (prologue s c x.lead q p.view.fmt p.geom m) (fun s m => (s, some (prologueFormat p.view.fmt, m)))))

/-- R364: the slot at the tail becomes ready once every line of it is written. -/
def fillSlot (s : State) (id : Nat) (f g : Finding) : State :=
  let x := s.ringAt id
  let n := x.tail
  if !(n < x.plan.length && x.free n && (x.slot n).got == (x.planOf n).bytes) then s else
  match s.cmd? x.cmd with
  | none => s
  | some c =>
    match slotCodes s c id n f g with
    | (s, some (fmt, m)) =>
      let x := s.ringAt id
      s.setRing id { (x.setSlot n { x.slot n with parts := [], codes := m, fmt := fmt }) with tail := n + 1 }
    | (s, none) => s

/-- The rib may write the slot at the tail of a ring. -/
def SlotRing.open_ (x : SlotRing) : Bool := x.free x.tail && (x.slot x.tail).got == 0

/-- The rib writes the slot at the tail of a ring. -/
def ribWrites (s : State) (id : Nat) (f : Format) (m : List (List Nat)) : State :=
  let x := s.ringAt id
  s.setRing id (x.setSlot x.tail { got := m.length, codes := m, fmt := f })

/-! ### An array reads a slot (R134) -/

/-- The next slot of a member, once it is ready: its plan and its content. -/
def nextSlot (s : State) (c : Cmd) (a id : Nat) (f : Finding) : State × Option (SlotPlan × RingSlot) :=
  let x := s.ringAt id
  if !x.nextReady a then (s, none) else
  andThen (readLines s c a id (x.reads a) f) (fun s _ => (s, some (x.planOf (x.reads a), x.slot (x.reads a))))

/-- The lines of the next slot of a member. -/
def nextLines (s : State) (a id : Nat) : Nat :=
  let x := s.ringAt id
  let v := (x.planOf (x.reads a)).view
  v.lineRows * v.lines

def readSlots (s : State) (c : Cmd) (a : Nat) (f : Finding) : List Nat → State × Option (List RingSlot)
  | [] => (s, some [])
  | id :: ids =>
    let n := nextLines s a id
    andThen (nextSlot s c a id (if f.place < n then f else {})) (fun s x =>
    andThen (readSlots s c a (if f.place < n then {} else { f with place := f.place - n }) ids) (fun s xs => (s, some (x.2 :: xs))))

/-- The next slots of several rings, once all of them are ready (R134). The line of a finding counts through them in turn. -/
def nextSlots (s : State) (c : Cmd) (a : Nat) (f : Finding) (ids : List Nat) : State × Option (List RingSlot) :=
  if ids.all (fun id => (s.ringAt id).nextReady a) then readSlots s c a f ids else (s, none)

/-- A member has read its next slot. -/
def markRead (s : State) (a id : Nat) : State := s.setRing id ((s.ringAt id).readBy a)

def markAll (s : State) (a : Nat) (ids : List Nat) : State := ids.foldl (fun s id => markRead s a id) s

/-- SLOT_FREE on an operand ring (R153, R154, R364). -/
def releaseSlot (s : State) (id : Nat) : State := s.setRing id (s.ringAt id).release

end Sys2Proof.Machine
end

