-- ==== Sys2Proof/Machine/Chains.lean ====
section
/-! DEFINITION. The fused chains (chapter 05, R192, R227 to R229, R446): what one work item computes, its operands, the score tiles, the row
steps of R175, the second product, and the finish of rows. -/

namespace Sys2Proof.Machine

/-! ### Roles of a tile -/

/-- An output of a product: R126, and the epilogue. -/
abbrev roleOut : Nat := 0
/-- A split partial (R306). -/
abbrev rolePartial : Nat := 1
/-- A score tile of a fused chain. -/
abbrev roleScore : Nat := 2
/-- The O tile of a softmax chain. -/
abbrev roleFinal : Nat := 3
/-- The state or gradient tile of a scan or a key band, whose item's results are written as it drains. -/
abbrev roleHeld : Nat := 4
/-- Stake operands of a rib that works alone (source 2 of R240). -/
abbrev roleStake : Nat := 5
/-- The Sᵀ or dPᵀ tile of a key band. -/
abbrev roleBand : Nat := 6
/-- The dQ tile of a band period. -/
abbrev roleDq : Nat := 7

/-- A tile's values by row. -/
def Tile.matrix (t : Tile) : List (List Word) := chunksOf t.cols t.vals
def Tile.ofMatrix (t : Tile) (m : List (List Word)) : Tile := { t with vals := m.flatten }

/-! ### Rings: positions and shards (R441 to R445) -/

def ringOf (c : Cmd) : Option Ring := match c.run with | .ring r => some r | _ => none

/-- R441: the positions of the tokens of an owner. -/
def ringRamp (e : List Word) (owner : Nat) : Ramp :=
  let t := tw e 5
  if bit (tw e 0) 1 then
    { base := owner * (t / 2), cut := t / 2, tail := ((2 * ringMembers e - 1 - owner) * (t / 2) : Nat) - (t / 2 : Nat) }
  else { base := owner * t }

def ringPosition (e : List Word) : Nat := fld (tw e 1) 15 0
/-- R442: the last step. -/
def ringLast (e : List Word) : Nat := ringMembers e / 2

/-- R442: the directions whose shards a step uses: 0 clockwise, 1 anticlockwise. -/
def shardDirs (e : List Word) (step : Nat) : List Nat :=
  if step = 0 || 2 * step = ringMembers e then [0] else [0, 1]

/-- R442: the owner of a shard. -/
def shardOwner (e : List Word) (dir step : Nat) : Nat :=
  let n := ringMembers e
  if dir = 0 then (ringPosition e + n - step % n) % n else (ringPosition e + step) % n

/-- R445: the bytes of K of a shard, and of a whole shard buffer. -/
def shardKBytes (c : Cmd) (k : Compute) : Nat := c.keysIn * k.groups * k.dim * (fmtOf (c.ref 6).fmt).bytes
def shardVBytes (c : Cmd) (k : Compute) : Nat := c.keysIn * k.groups * k.dim * (fmtOf (c.ref 8).fmt).bytes
def partialWords (c : Cmd) (k : Compute) : Nat := c.keysIn * k.groups * k.dim
def shardBytes (c : Cmd) (k : Compute) (bwd : Bool) : Nat :=
  shardKBytes c k + shardVBytes c k + (if bwd then 8 * partialWords c k else 0)

def shardArea (e : List Word) : Nat := pairAt e 6
def stateArea (e : List Word) : Nat := pairAt e 8

/-- R445: where the shard used in a step lies: three buffers in turn for each direction. -/
def shardBuffer (e : List Word) (c : Cmd) (k : Compute) (bwd : Bool) (dir step : Nat) : Nat :=
  shardArea e + (3 * dir + (step + 2) % 3) * shardBytes c k bwd

/-- Bytes that Hoop reads at a device-physical place for a command (R24); a failing line ends it. -/
def readPhys (s : State) (c : Cmd) (pa n : Nat) : State × Option (List Byte) :=
  match readMeets s [(pa, n)] with
  | (s, some pa) => (eccEnd s c.id pa, none)
  | (s, none) => (s, some (s.mem.readBytes pa n))

/-! ### Work items of fused chains -/

/-- What one work item computes: the tile shape and reduction lengths, its rows (of which row `r` is row `row0 + r` of its outer index, or
of the heads from it on in turn where `period` is not 0), its keys, their positions, its sources and outputs. -/
structure Job where
  m : Nat := 128
  n : Nat := 128
  d : Nat := 128
  dv : Nat := 128
  rin : Nat := 0
  row0 : Nat := 0
  outer : Nat := 0
  period : Nat := 0
  head : Nat := 0
  lo : Nat := 0
  hi : Nat := 0
  form : Nat := 0
  prec : Nat := 0
  qPos : Ramp := {}
  kPos : Ramp := {}
  softmax : Bool := true
  masked : Bool := true
  left : Ten := {}
  right : Src := .raw 0 .e4m3 0 0
  /-- The right operand is stored by reduction position (GEMM2's B). -/
  byDepth : Bool := false
  value : Src := .raw 0 .e4m3 0 0
  /-- The first column of the second product. -/
  col0 : Nat := 0
  out : Ten := {}
  fS : Word := 0x3F800000#32
  fO : Word := 0x3F800000#32
  keep : Word := 0x3F800000#32
  deriving DecidableEq, Repr

/-- The outer index and row of tile row `r`. -/
def Job.place (j : Job) (r : Nat) : Nat × Nat :=
  if j.period = 0 then (j.outer, j.row0 + r) else (j.outer + (j.row0 + r) / j.period, (j.row0 + r) % j.period)
def Job.places (j : Job) : List (Nat × Nat) := (List.range j.rin).map j.place
/-- The O tile's width: d rounded up to 32, 64 or 128 (R170). -/
def Job.wide (j : Job) : Nat := if j.dv ≤ 32 then 32 else if j.dv ≤ 64 then 64 else 128

def one32 : Word := 0x3F800000#32

/-- f_S of R172 and f_O, from the scales of Q, K and V. -/
def chainFactors (c : Cmd) (k : Compute) (out : Nat) : Word × Word :=
  let coil := c.coilReader
  let sk := if coil then one32 else k.scale (c.ref 6).slot
  let sv := if coil then one32 else k.scale (c.ref 8).slot
  ((factorOf (k.scale (c.ref 4).slot) [(false, sk), (true, k.scale k.midSlot)]).1, (factorOf one32 [(false, sv), (true, k.scale out)]).1)

/-- R166: keep is keep_scale when dropout is on. -/
def keepOf (c : Cmd) (k : Compute) : Word := if dropThreshold c = 0 then one32 else k.keep

/-- The forward job of a head and query tile against keys from sources, with positions. -/
def forwardJob (c : Cmd) (k : Compute) (head tile keys : Nat) (q kp : Ramp) (right value : Src) : Job :=
  let f := chainFactors c k (c.ref 10).slot
  { m := 128, n := k.shape.n, d := k.dim, dv := k.dim, rin := within (128 * tile) 128 c.queries, row0 := 128 * tile, outer := head,
    head := head, hi := keys, form := k.shape.form, qPos := { q with off := q.off + 128 * tile }, kPos := kp, left := tQ c k,
    right := right, value := value, out := tO c k,
    fS := f.1, fO := f.2, keep := keepOf c k }

/-- ATTN_FWD (R168, R301): query tiles descending, then heads ascending. -/
def attnJob (c : Cmd) (k : Compute) (item : Nat) : Job :=
  let head := item % k.heads
  let tile := cdiv c.queries 128 - 1 - item / k.heads
  let g := head / k.gqa
  let snap := k.snaps.headD {}
  let keys := if c.coilReader then snap.length else c.keysIn
  let f := fmtOf snap.desc.format
  let src (values : Bool) (t : Ten) : Src := if c.coilReader then .coil snap.seq g values f k.dim snap.length else .ten t g
  forwardJob c k head tile keys { base := (keys : Int) - c.queries } {} (src false (tK c k)) (src true (tV c k))

/-- Sweeps of one shard of a ring step. -/
def sweepsPer (c : Cmd) (k : Compute) : Nat := cdiv c.queries 128 * k.heads

/-- The direction of the shard that a work item of a ring step takes. -/
def itemDir (e : List Word) (step per item : Nat) : Nat := (shardDirs e step).getD (item / per) 0

/-- RING_SWEEP forward (R441 to R446): the items of the step in hand, the clockwise shard first. -/
def ringJob (s : State) (c : Cmd) (k : Compute) (r : Ring) (item : Nat) : Job :=
  let e := ringEntry s r.ring
  let per := sweepsPer c k
  let dir := itemDir e r.step per item
  let it := item % per
  let head := it % k.heads
  let tile := cdiv c.queries 128 - 1 - it / k.heads
  let g := head / k.gqa
  let base := shardBuffer e c k r.bwd dir r.step
  let fk := fmtOf (c.ref 6).fmt
  let fv := fmtOf (c.ref 8).fmt
  let kSrc : Src := if r.step = 0 then .ten (tK c k) g else .raw (base + g * c.keysIn * k.dim * fk.bytes) fk k.dim c.keysIn
  let vSrc : Src := if r.step = 0 then .ten (tV c k) g
    else .raw (base + shardKBytes c k + g * c.keysIn * k.dim * fv.bytes) fv k.dim c.keysIn
  forwardJob c k head tile c.keysIn (ringRamp e (ringPosition e)) (ringRamp e (shardOwner e dir r.step)) kSrc vSrc

/-- ATTN_DECODE (R225 to R229). -/
def decodeJob (c : Cmd) (k : Compute) (item : Nat) : Job :=
  let d := (decodeItems c k).getD item {}
  let snap := k.snaps.getD d.seq {}
  let f := fmtOf snap.desc.format
  let fs := chainFactors c k (c.ref 10).slot
  let sl := splitLen k snap.length
  { m := k.shape.m, n := if k.shape.form = 1 then k.shape.n else min k.shape.n 128, d := k.dim, dv := k.dim,
    rin := within (d.tile * k.shape.m) k.shape.m (k.gqa * c.queries), row0 := d.tile * k.shape.m,
    outer := d.seq * k.heads + d.group * k.gqa, period := c.queries, head := d.group * k.gqa,
    lo := d.split * sl, hi := min snap.length ((d.split + 1) * sl), form := k.shape.form,
    qPos := { base := (snap.length : Int) - c.queries, off := d.tile * k.shape.m, period := c.queries },
    left := tQ c k, right := .coil snap.seq d.group false f k.dim snap.length, value := .coil snap.seq d.group true f k.dim snap.length,
    out := tO c k, fS := fs.1, fO := fs.2 }

/-- GEMM2 (R192, R193): a row tile and a column block of E. -/
def gemm2Job (c : Cmd) (k : Compute) (item : Nat) : Job :=
  let blocks := cdiv c.gn2 128
  let cb := item % blocks
  let rt := item / blocks % cdiv c.gm 128
  let b := item / blocks / cdiv c.gm 128
  let soft := bit (k.s 32) 0
  let sm := k.scale k.midSlot
  let sd := k.scale (c.ref 8).slot
  let se := k.scale (c.ref 12).slot
  { m := 128, n := k.shape.n, d := c.gk, dv := within (128 * cb) 128 c.gn2, rin := within (128 * rt) 128 c.gm, row0 := 128 * rt, outer := b,
    hi := c.gn, form := k.shape.form, prec := c.prec, softmax := soft, masked := false, left := tA c k, right := .ten (tB c k) b,
    byDepth := true, value := .ten (tD2 c k) b, col0 := 128 * cb, out := tE2 c k,
    fS := (factorOf (k.scale (c.ref 4).slot) [(false, k.scale (c.ref 6).slot), (true, sm)]).1,
    fO := (if soft then factorOf one32 [(false, sd), (true, se)] else factorOf sm [(false, sd), (true, se)]).1 }

/-- The job of a work item. -/
def jobIn (s : State) (c : Cmd) (k : Compute) (item : Nat) : Job :=
  match ringOf c with
  | some r => ringJob s c k r item
  | none => if c.opcode = Op.gemm2 then gemm2Job c k item else if c.opcode = Op.attnDecode then decodeJob c k item else attnJob c k item

/-- The shape that an array computes in service mode (R151): M and N rounded up to 32, within the form. -/
def up32 (most n : Nat) : Nat := min most (32 * cdiv n 32)

/-- The job of a work item on an array, its rows rounded up (R151): one whose presented width in form 1 is below 256 takes score tiles of 128 keys (R227). -/
def jobOf (s : State) (a : Nat) (c : Cmd) (k : Compute) (item : Nat) : Job :=
  let j := jobIn s c k item
  let j := { j with m := up32 (formDepth j.form) j.m }
  if j.form = 1 && (s.array a).width 1 < j.n then { j with n := 128 } else j

/-! ### Masks (R180 to R182) -/

/-- The document of a position: how many start at or below it; R180 gives a negative position none, and the model one of its own that
matches no key (log 120). -/
def docOf (docs : List Nat) (x : Int) : Nat := (docs.filter (fun (n : Nat) => (n : Int) ≤ x)).length

/-- R180, for a row and a key in bounds. -/
def unmaskedAt (k : Compute) (pq pk : Int) : Bool :=
  let causal := bit k.mask 0
  let w : Int := k.windowOf
  (!causal || pk ≤ pq) && (!bit k.mask 1 || (pq - pk < w && (causal || pk - pq < w))) &&
  (!bit k.mask 2 || docOf k.docs pq == docOf k.docs pk)

/-- Element (tile row, key) is unmasked. -/
def Job.sees (j : Job) (k : Compute) (r key : Nat) : Bool :=
  r < j.rin && j.lo ≤ key && key < j.hi && (!j.masked || unmaskedAt k (j.qPos.at r) (j.kPos.at key))

/-- R182: the key blocks with an unmasked element. -/
def Job.blocks (j : Job) (k : Compute) : List Nat :=
  (List.range (cdiv (j.hi - j.lo) j.n)).filter (fun b =>
    (List.range j.rin).any (fun r => (List.range j.n).any (fun i => j.sees k r (j.lo + b * j.n + i))))

/-! ### Operands -/

def leftGeom (j : Job) : Geom :=
  { rows := j.m, cols := j.d, parts := cdiv j.d 128, rowBase := j.row0, queryPos := j.qPos, head := j.head }

def Ramp.from_ (r : Ramp) (n : Nat) : Ramp := { r with off := r.off + n }

def rightGeom (j : Job) (b : Nat) : Geom :=
  let k0 := j.lo + b * j.n
  if j.byDepth then { rows := j.d, cols := j.n, parts := cdiv j.n 128, colBase := k0 }
  else { rows := j.n, cols := j.d, parts := cdiv j.d 128, rowBase := k0, keyPos := j.kPos.from_ k0, turned := true, head := j.head }

/-- The keys of a block in bounds. -/
def Job.inside (j : Job) (b : Nat) : Nat := within (j.lo + b * j.n) j.n j.hi

/-- A source cut at the end of the job's keys. -/
def Job.cut (j : Job) (x : OpTile) (b : Nat) : OpTile :=
  if x.rows.isEmpty then { x with view := { x.view with rowsIn := min x.view.rowsIn (j.inside b) } } else x

/-- R170, R192: the row operand, whole for the job. -/
def leftTile (ctx : Nat) (j : Job) : OpTile := (tenTile ctx j.left j.places j.m 0 j.d).at_ 0 (leftGeom j)

/-- The rows of a key block, or, of GEMM2, the reduction positions of B by its columns. -/
def rightTile (ctx : Nat) (j : Job) (b : Nat) : OpTile :=
  let k0 := j.lo + b * j.n
  (j.cut (if j.byDepth then srcTile ctx j.right 0 j.d k0 j.n else srcTile ctx j.right k0 j.n 0 j.d) b).at_ b (rightGeom j b)

/-- The rows of the second product's right operand. -/
def valueTile (ctx : Nat) (j : Job) (b : Nat) : OpTile :=
  (j.cut (srcTile ctx j.value (j.lo + b * j.n) j.n j.col0 j.dv) b).at_ b {}

/-- The columns of a score tile of a job as computed. -/
def Job.tileCols (j : Job) (width : Nat) : Nat := max j.n (up32 width j.n)

/-- A matrix of codes with rows and columns of zeros added. -/
def padCodes (rows cols : Nat) (m : List (List Nat)) : List (List Nat) := padTo' rows (List.replicate cols 0) (m.map (padTo' cols 0))

/-- The value block by column, zero beyond its extent. -/
def valueCols (j : Job) (m : List (List Nat)) : List (List Nat) := transpose j.wide 0 (padCodes j.n j.wide m)

/-- A score tile: Q·Kᵀ, or A·B (R170, R192), from the slots of its operands. -/
def scoreTile (j : Job) (width b : Nat) (q k : RingSlot) : List (List Word) × Sticky :=
  let n := j.tileCols width
  let cols := if j.byDepth then transpose n 0 (padCodes j.d n k.codes) else padCodes n j.d k.codes
  tileProduct j.prec q.fmt k.fmt q.codes cols (zeroTile j.m n) j.rin (j.inside b)

/-! ### The row steps (R175, R184) -/

/-- What the chain makes of one row of a score tile. -/
structure RowOut where
  state : RowState := {}
  codes : List Nat := []
  dec : List Nat := []
  scores : List Word := []
  flags : Sticky := .none
  deriving DecidableEq, Repr

/-- Steps 1 to 6 of R175 on a run of up to 128 keys (R228), given as (key, value). -/
def runStep (seeds : Seeds) (c : Cmd) (s : State) (j : Job) (k : Compute) (r : Nat) (t : RowOut) (run : List (Nat × Word)) : RowOut :=
  let seen := run.map (fun p => j.sees k r p.1)
  let terms := (run.zip seen).map (fun p => if p.2 then wexp seeds p.1.2 else 0)
  let x := rowTerms t.state terms
  let f := fmtOf k.pFmt
  let codes := (run.zip terms).map (fun p =>
    if dropThreshold c != 0 && dropped (dropSeed c) (dropSeq s c) j.head (dropThreshold c) (j.qPos.at r) (j.kPos.at p.1.1) then 0
    else rowP x.1.m f p.2)
  { state := x.1, codes := t.codes ++ codes, dec := t.dec ++ [x.2],
    flags := t.flags.or (if terms.any (fun w => wexpOf w == 0xFFF) then .ofRange else .none) }

/-- The built-in chain on one row of a score tile (R175), with the rib store's copy of the document table (R181), or the conversion of GEMM2's
elementwise kind (R192). `got` is the row as the rib received it, whose unmasked scores in range are gathered (R179, R469). -/
def rowStep (s : State) (c : Cmd) (a : Nat) (j : Job) (k : Compute) (b r : Nat) (st : RowState) (vals got : List Word) : RowOut :=
  let k0 := j.lo + b * j.n
  let k := { k with docs := (s.ribOf a).docs }
  let vals := vals.take j.n
  if j.softmax then
    let run := (upTo k0 vals.length).zip vals
    let x := (chunksOf 128 run).foldl (runStep (s.ribOf a).seeds c s j k r) { state := st }
    { x with scores := ((run.zip got).filter (fun p => j.sees k r p.1.1 && inRange p.1.2)).map (·.2) }
  else
    let x := vals.map (outCode s c (fmtOf k.pFmt))
    let inb := within k0 j.n j.hi
    { state := st, codes := x.zip (upTo 0 j.n) |>.map (fun p => if r < j.rin && p.2 < inb then p.1.1 else 0),
      flags := if r < j.rin then joinS ((x.take inb).map (·.2)) else .none }

/-! ### The second product (R176, R228) -/

/-- R145 on every row of the O tile. -/
def decrementRows (rin cin : Nat) (ds : List Nat) (m : List (List Word)) : List (List Word) × Sticky :=
  let x := (m.zip (padTo' m.length 0 ds)).map (fun p => p.1.map (fun w => decrement w p.2))
  (x.map (fun r => r.map (·.1)), cellFlags rin cin x)

/-- The O tile after a P slot: for each run of 128 keys its decrement, then its products. -/
def secondProduct (j : Job) (pf vf : Format) (p : PSlot) (v : List (List Nat)) (acc : List (List Word)) : List (List Word) × Sticky :=
  (List.range (cdiv j.n 128)).foldl (fun (t : List (List Word) × Sticky) i =>
    let part (m : List (List Nat)) : List (List Nat) := m.map (fun x => (x.drop (128 * i)).take 128)
    let d := decrementRows j.rin j.dv (p.dec.map (·.getD i 0)) t.1
    let r := tileProduct 0 pf vf (part p.p) (part v) d.1 j.rin j.dv
    (r.1, (t.2.or d.2).or r.2)) (acc, .none)

/-- The row exponent decrements that the array takes for a P slot: one for each run of 128 keys in which a row's is not zero (R176). -/
def decrements (j : Job) (p : PSlot) : Nat :=
  ((List.range (cdiv j.n 128)).filter (fun i => p.dec.any (fun d => d.getD i 0 != 0))).length

/-! ### The finish of rows (R177) -/

/-- The rib's environment for a row epilogue: a vector that the step does not name holds the row's own state. -/
def withStates (e : RibEnv) (row0 : Nat) (sts : List RowState) : RibEnv :=
  let own := List.replicate (2 * row0) 0#32 ++ (sts.map (fun x => [x.words.1, x.words.2])).flatten
  { e with aux := e.aux.map (fun v => if v.2.isEmpty then (true, own) else v) }

/-- A tile of finished rows through a program at a point. -/
def finishProgram (s : State) (c : Cmd) (a point slot : Nat) (g : Geom) (sts : List RowState) (m : List (List Word)) :
    State × Option (List (List Word)) :=
  throughWith (fun e => withStates e g.rowBase sts) s c a point slot g m

/-- The geometry of the O tile, in the presented parts of a row (R140). -/
def finalGeom (x : Arr) (j : Job) : Geom :=
  { rows := j.m, cols := j.wide, parts := formParts j.form, width := x.width j.form / formParts j.form, rowBase := j.row0, colBase := j.col0, queryPos := j.qPos, rowsIn := j.rin,
    colsIn := j.dv, head := j.head }

/-- R177: the division of every row, with the flags of in-bounds elements. -/
def divideRows (s : State) (a : Nat) (k : Compute) (j : Job) (sts : List RowState) (m : List (List Word)) : List (List Word) × Sticky :=
  let seeds := (s.ribOf a).seeds
  let x := (m.zip (padTo' m.length {} sts)).map (fun p => p.1.map (rowFinish seeds p.2 j.keep (fmtOf k.pFmt)))
  (x.map (fun r => r.map (·.1)), cellFlags j.rin j.dv x)

/-- Whether a command writes L, and the index of a row in it (R179, R225). -/
def writesL (c : Cmd) (k : Compute) : Bool := c.hasArgs && (k.argRef 0).addr != 0
def Job.lIndex (j : Job) (c : Cmd) (r : Nat) : Nat := (j.place r).1 * c.queries + (j.place r).2

/-- The rows that are not divided: those out of range and those without a term (R177). -/
def undivided (sts : List RowState) : List Nat := (List.range sts.length).filter (fun r => let x := sts.getD r {}; x.bad || x.m.isNone)

/-- R177: the division of the rows and the program after it, which runs on divided rows alone. -/
def finishDivided (s : State) (c : Cmd) (k : Compute) (a point slot : Nat) (j : Job) (sts : List RowState) (m : List (List Word)) :
    State × Option (List (List Word)) :=
  let d := divideRows s a k j sts m
  let skip := undivided sts
  andThen (finishProgram (raiseSlotFlags s slot d.2) c a point slot { finalGeom (s.array a) j with skip := skip } sts d.1) (fun s y =>
    (s, some ((y.zip (upTo 0 y.length)).map (fun r => if skip.contains r.2 then d.1.getD r.2 [] else r.1))))

/-- R177: the rows of a softmax chain finish: the division and the epilogue after it, the conversion and the writes of O and L. ATTN_FWD's
epilogue after the division is its row epilogue (R281), and its other one runs on the drained tile (R248). The places are translated before
anything else happens. -/
def finishRows (s : State) (c : Cmd) (k : Compute) (a : Nat) (j : Job) (sts : List RowState) (m : List (List Word)) : State × Option Unit :=
  let agent := agentOf a
  let ls := if writesL c k then (List.range j.rin).map (j.lIndex c) else []
  andThen (placeAll s c agent j.out.word (rowPlaces j.out j.places j.col0 j.dv)) (fun s ps =>
  andThen (placeAll s c agent 12 (densePlaces (tL c k) ls)) (fun s pl =>
    let slot := j.out.ref.slot
    let before := stepKind c == Op.attnFwd
    andThen (if before then finishProgram s c a 3 slot (finalGeom (s.array a) j) sts m else (s, some m)) (fun s m =>
    andThen (finishDivided s c k a (if before then 4 else 3) slot j sts m) (fun s m =>
    andThen (commitCodes s c agent j.out ps (outRows s c j.out (crop j.rin j.dv m))) (fun s _ =>
      if ls.isEmpty then (s, some ()) else
      commitDense s c agent (tL c k) pl ((sts.take j.rin).map (wlogOp (s.ribOf a).seeds)))))))

/-- The numbers of the rows that finish as NaN (R184). -/
def Job.nanRows (j : Job) (c : Cmd) (sts : List RowState) : List Nat :=
  ((List.range j.rin).filter (fun r => (sts.getD r {}).bad)).map (j.lIndex c)

end Sys2Proof.Machine
end

