-- ==== Sys2Proof/Machine/Gemm.lean ====
section
/-! DEFINITION. GEMM: its work items, the product with its preload, the combine of split reductions (R300, R306 to R310) and the finish of
an output tile. -/

namespace Sys2Proof.Machine

/-- A GEMM work item (R301). -/
structure GemmItem where
  batch : Nat := 0
  row : Nat := 0
  col : Nat := 0
  split : Nat := 0
  deriving DecidableEq, Repr

def gemmItem (c : Cmd) (k : Compute) (item : Nat) : GemmItem :=
  let t := item / k.shape.split
  let nc := cdiv c.gn k.shape.n
  let nr := cdiv c.gm k.shape.m
  ⟨t / nc / nr, t / nc % nr, t % nc, item % k.shape.split⟩

def GemmItem.r0 (g : GemmItem) (k : Compute) : Nat := g.row * k.shape.m
def GemmItem.c0 (g : GemmItem) (k : Compute) : Nat := g.col * k.shape.n
def GemmItem.rin (g : GemmItem) (c : Cmd) (k : Compute) : Nat := within (g.r0 k) k.shape.m c.gm
def GemmItem.cin (g : GemmItem) (c : Cmd) (k : Compute) : Nat := within (g.c0 k) k.shape.n c.gn

/-- The factor f of R126, with the flags of its steps. -/
def gemmFactor (c : Cmd) (k : Compute) : Word × Sticky :=
  drainFactor (k.scale (c.ref 4).slot) (k.scale (c.ref 6).slot) (k.scale (c.ref 8).slot)

/-- The tile that an array computes for a family (R151): M and N rounded up to 32, or to the depth or the presented width. -/
def gemmRows (k : Compute) : Nat := up32 (formDepth k.shape.form) k.shape.m
def gemmCols (x : Arr) (k : Compute) : Nat := up32 (x.width k.shape.form) k.shape.n

/-- The segments of a work item's reduction in ascending position (R142, R300): position and length. -/
def gemmSegments (c : Cmd) (k : Compute) (g : GemmItem) : List (Nat × Nat) :=
  let lo := g.split * k.shape.ks
  let hi := min c.gk (lo + k.shape.ks)
  (List.range (cdiv (hi - lo) k.shape.kf)).map (fun i => (lo + i * k.shape.kf, within (lo + i * k.shape.kf) k.shape.kf hi))

/-- The preload tile of split 0 (R124, R306). -/
def gemmPreload (ctx : Nat) (c : Cmd) (k : Compute) (g : GemmItem) : List OpTile :=
  if g.split != 0 || !(tPre c k).present then [] else [srcTile ctx (.ten (tPre c k) g.batch) (g.r0 k) k.shape.m (g.c0 k) k.shape.n]

/-- The row and the column operand of a segment. -/
def gemmLeft (ctx : Nat) (c : Cmd) (k : Compute) (g : GemmItem) (x : Nat × Nat) : OpTile :=
  (srcTile ctx (.ten (tA c k) g.batch) (g.r0 k) k.shape.m x.1 x.2).at_ x.1
    { rows := k.shape.m, cols := x.2, parts := cdiv x.2 128, rowBase := g.r0 k, colBase := x.1 }
def gemmRight (ctx : Nat) (c : Cmd) (k : Compute) (g : GemmItem) (x : Nat × Nat) : OpTile :=
  (srcTile ctx (.ten (tB c k) g.batch) x.1 x.2 (g.c0 k) k.shape.n).at_ x.1
    { rows := x.2, cols := k.shape.n, parts := cdiv k.shape.n 128, rowBase := x.1, colBase := g.c0 k }

/-- The rings of a work item: its operands, and its preload. -/
def gemmRings (s : State) (c : Cmd) (k : Compute) (a : Nat) (g : GemmItem) : List RingSpec :=
  let ctx := ctxOf s c
  let segs := gemmSegments c k g
  let depth := ringDepth s c k (famIn s c k)
  let pre := gemmPreload ctx c k g
  [{ number := ringLeft, members := [a], depth := depth, point := some 0, tiles := segs.map (gemmLeft ctx c k g) },
   { number := ringRight, members := [a], depth := depth, point := some 1, tiles := segs.map (gemmRight ctx c k g) }] ++
  (if pre.isEmpty then [] else [{ number := ringPre, members := [a], depth := depth, tiles := pre }])

/-- R142, R144: a work item starts in accumulator tile `n`, at +0, with its operands on their way. -/
def startGemm (s : State) (c : Cmd) (k : Compute) (a n item : Nat) : State × Option Unit :=
  let g := gemmItem c k item
  andThen (openRings s c k (gemmRings s c k a g)) (fun s rs =>
    let x := s.array a
    let rows := gemmRows k
    let cols := gemmCols x k
    let t : Tile := { cmd := c.id, item := item, role := if k.shape.split = 1 then roleOut else rolePartial, rows := rows,
                      cols := cols, rowsIn := g.rin c k, colsIn := g.cin c k, slot := (c.ref 8).slot }
    let t := t.ofMatrix (zeroTile rows cols)
    let w : Work := { cmd := c.id, item := item, rings := ringsOf a rs, acc := n, filled := (gemmPreload (ctxOf s c) c k g).isEmpty }
    (s.setArray a { (if n = 0 then { x with acc0 := some t } else { x with acc1 := some t }) with work := some w }, some ()))

/-- The accumulator tile of a product, and its new value. -/
def Arr.acc (x : Arr) (n : Nat) : Option Tile := if n = 0 then x.acc0 else x.acc1
def Arr.setAcc (x : Arr) (n : Nat) (t : Option Tile) : Arr := if n = 0 then { x with acc0 := t } else { x with acc1 := t }

/-- R143: the preload enters the tile by the fill path. -/
def fillTile (s : State) (c : Cmd) (k : Compute) (a : Nat) (w : Work) (t : Tile) (f : Finding) : State :=
  match nextSlot s c a (w.ring ringPre) f with
  | (s, none) => s
  | (s, some (_, y)) =>
    let ref := (tPre c k).ref
    let g := preloadFactor (k.scale ref.slot) (k.scale (c.ref 4).slot) (k.scale (c.ref 6).slot)
    let x := (padCodes t.rows t.cols y.codes).map (fun r => r.map (preloadCell y.fmt g))
    let s := raiseSlotFlags (markRead s a (w.ring ringPre)) t.slot (cellFlags t.rowsIn t.colsIn x)
    s.setArray a { (s.array a).setAcc w.acc (some (t.ofMatrix (x.map (fun r => r.map (·.1))))) with work := some { w with filled := true } }

/-- Whether a member has read every slot of a ring. -/
def readAll (s : State) (a id : Nat) : Bool := (s.ringAt id).plan.length ≤ (s.ringAt id).reads a

/-- One segment (R112, R142): the whole array holds until both of its slots are ready. After the last one the operation is complete. -/
def productStep (s : State) (c : Cmd) (a : Nat) (w : Work) (t : Tile) (f : Finding) : State :=
  let l := w.ring ringLeft
  let r := w.ring ringRight
  match nextSlots s c a f [l, r] with
  | (s, some [x, y]) =>
    let p := tileProduct c.prec x.fmt y.fmt (padTo' t.rows [] x.codes) (transpose t.cols 0 y.codes) t.matrix t.rowsIn t.colsIn
    let s := raiseSlotFlags (markAll s a [l, r]) t.slot p.2
    let x := (s.array a).setAcc w.acc (some (t.ofMatrix p.1))
    if readAll s a l then leaveRings (s.setArray a { x with work := none }) a w else s.setArray a x
  | (s, _) => s

/-- An array goes on with a product. -/
def continueGemm (s : State) (c : Cmd) (a : Nat) (w : Work) (f : Finding) : State :=
  match (s.array a).acc w.acc with
  | none => s
  | some t => if w.filled then productStep s c a w t f else fillTile s c (workOf c) a w t f

/-! ### Output tiles -/

/-- An output tile of GEMM, or of GEMM2's elementwise kind: the tensor, its outer index, row and column, and the in-bounds extent. -/
structure OutAt where
  ten : Ten := {}
  outer : Nat := 0
  row : Nat := 0
  col : Nat := 0
  rin : Nat := 0
  cin : Nat := 0
  deriving DecidableEq, Repr

def outAt (s : State) (a : Nat) (c : Cmd) (k : Compute) (item : Nat) : OutAt :=
  if c.opcode = Op.gemm then
    let g := gemmItem c k item
    ⟨tC c k, g.batch, g.r0 k, g.c0 k, g.rin c k, g.cin c k⟩
  else
    let j := jobOf s a c k item
    ⟨j.out, j.outer, j.row0, j.col0, j.rin, j.dv⟩

/-- The factor of an output tile. -/
def outFactor (s : State) (a : Nat) (c : Cmd) (k : Compute) (item : Nat) : Word :=
  if c.opcode = Op.gemm then (gemmFactor c k).1 else (jobOf s a c k item).fO

def writeOut (s : State) (c : Cmd) (a : Nat) (o : OutAt) (m : List (List Word)) : State × Option Unit :=
  writeTile s c (agentOf a) o.ten o.outer o.row o.col o.rin o.cin m

/-- The geometry of a drained tile on the rib of an array (R140). -/
def drainGeom (x : Arr) (form rows cols : Nat) (o : OutAt) : Geom :=
  { rows := rows, cols := cols, parts := formParts form, width := x.width form / formParts form, rowBase := o.row, colBase := o.col,
    rowsIn := o.rin, colsIn := o.cin }

/-! ### The combine of split partials (R306 to R310) -/

/-- The entry of an output tile in the combine area. -/
def entryAddr (c : Cmd) (k : Compute) (tile : Nat) : Nat := k.scratch + tile * entryBytes c k.shape

/-- R307: every header is zeroed when the command starts. -/
def zeroHeaders (s : State) (c : Cmd) (k : Compute) : State × Option Unit :=
  if k.shape.split = 1 then (s, some ()) else
  writeVa s c 64 2 ((List.range (tilesOut c k.shape)).map (fun t => (entryAddr c k t, List.replicate 64 0#8)))

/-- R306: the completed FP32 rows of an output tile from row `part`: the factor, the epilogue, the conversion and the write. -/
def finishTile (s : State) (c : Cmd) (k : Compute) (a tile part rows : Nat) (m : List (List Word)) : State × Option Unit :=
  let g := gemmItem c k (tile * k.shape.split)
  let o : OutAt := ⟨tC c k, g.batch, g.r0 k + part, g.c0 k, within part rows (g.rin c k), g.cin c k⟩
  andThen (placeAll s c (agentOf a) o.ten.word (rowPlaces o.ten ((upTo o.row o.rin).map (fun r => (o.outer, r))) o.col o.cin)) (fun s ps =>
    let d := drainTile (gemmFactor c k).1 o.rin o.cin m
    andThen (throughProgram (raiseSlotFlags s o.ten.ref.slot d.2) c a 3 o.ten.ref.slot
      (drainGeom (s.array a) k.shape.form rows k.shape.n o) d.1) (fun s y =>
    commitCodes s c (agentOf a) o.ten ps (outRows s c o.ten (crop o.rin o.cin y))))

/-- The header after a partial's claim: the count, in deterministic mode the lowest split that is not in yet, and the claims. -/
def claimed (determ : Bool) (splits split : Nat) (h : List Word) : List Word :=
  let claims := tw h 2 ||| 2 ^ split
  let next := ((List.range splits).find? (fun i => !bit claims i)).getD splits
  ((h.set 0 (wd (tw h 0 + 1))).set 1 (if determ then wd next else h.getD 1 0#32)).set 2 (wd claims)

/-- A landed tile leaves the rib. -/
def dropLanding (s : State) (a : Nat) : State :=
  let x := s.ribOf a
  s.setRib a { x with landing := x.landing.drop 1, pass := none, nextPass := 0, beat := 0, out := [], rewritten := [], chain := false, compat := false }

/-- The finish items of an output tile (R309). -/
def finishItems (k : Compute) (tile : Nat) : List (Nat × Nat) := (List.range (cdiv k.shape.m 8)).map (fun i => (tile, i))

/-- What the last partial of an output tile leads to. -/
def lastPartial (s : State) (c : Cmd) (k : Compute) (a tile : Nat) (m : List (List Word)) : State × Option Unit :=
  if c.determ then (mapWork s c.id (fun k => { k with finish := finishItems k tile ++ k.finish }), some ())
  else finishTile s c k a tile 0 k.shape.m m

/-- A landed partial is claimed and stored, or added: nothing where it was claimed before (R308 to R310). The last one finishes its tile. -/
def addPartial (s : State) (c : Cmd) (k : Compute) (a : Nat) (t : Tile) : State × Option Unit :=
  let sh := k.shape
  let tile := t.item / sh.split
  let split := t.item % sh.split
  let agent := agentOf a
  let n := 4 * sh.m * sh.n
  let head : Loc := .virt (ctxOf s c) (entryAddr c k tile)
  let dat := head.plus (64 + (if c.determ then split * n else 0))
  andThen (placeAt s c agent 2 [(head, 64), (dat, n)]) (fun s ps =>
  andThen (takeAt s c agent 2 head 64) (fun s hb =>
    let h := wordsOf hb
    if bit (tw h 2) split then (s, some ()) else
    andThen (if c.determ || tw h 0 = 0 then (s, some []) else takeAt s c agent 2 dat n) (fun s old =>
      let own := (crop sh.m sh.n t.matrix).flatten
      let sum := if old.isEmpty then own.map (fun v => (v, Sticky.none)) else ((wordsOf old).zip own).map (fun p => arrayAdd p.1 p.2)
      let vals := sum.map (·.1)
      andThen (if tw h 0 + 1 == sh.split then lastPartial s c k a tile (chunksOf sh.n vals) else (s, some ())) (fun s _ =>
      andThen (makeAt s c agent 2 false ps [wordBytes (claimed c.determ sh.split split h), wordBytes vals]) (fun s _ =>
        let g := gemmItem c k t.item
        (raiseSlotFlags s t.slot (cellFlags (g.rin c k) (g.cin c k) (chunksOf sh.n sum)), some ()))))))

/-- PARTIAL_COMBINE on a landed partial. The claim and the addition are one event; where the finish of the tile waits, nothing has been
claimed yet. -/
def combinePartial (s : State) (c : Cmd) (k : Compute) (a : Nat) (t : Tile) : State :=
  match fetchDone c.id (agentOf a) (addPartial s c k a t) with
  | (s, none) => s
  | (s, some ()) => endWork (itemDone (dropLanding s a) c.id t.item 1 a) c.id

/-- The landed tile at the head of a rib, with its command and work. -/
def landed (s : State) (a : Nat) : Option (Tile × Cmd × Compute) :=
  match (s.ribOf a).landing.head? with
  | some t => (s.cmd? t.cmd).map (fun c => (t, c, workOf c))
  | none => none

/-- PARTIAL_COMBINE (R306, R308, R310); a finding lies in what the rib reads of its own (R237). -/
def execPartialCombine (a : Nat) (f : Finding) (s : State) : Out :=
  match landed s a with
  | some (t, c, k) => .next (if ribOn s a && t.role == rolePartial then ribDoes s a c f (fun s => combinePartial s c k a t) else s)
  | none => .next s

/-- R309: the sum of one row's slots by a pairwise tree over the split index, element by element. -/
def slotTree (n : Nat) (slots : List (List Word)) : List (Word × Sticky) :=
  (List.range n).map (fun i =>
    (tree (fun (x y : Word × Sticky) => let r := arrayAdd x.1 y.1; (r.1, (x.2.or y.2).or r.2)) 5
      (slots.map (fun w => (w.getD i 0#32, Sticky.none)))).headD (0#32, Sticky.none))

/-- The rows of a finish item: the tree over their slots, and their finish. -/
def finishSlots (s : State) (c : Cmd) (k : Compute) (a tile part : Nat) : State × Option Unit :=
  let sh := k.shape
  let rows := within (8 * part) 8 sh.m
  let at_ (split : Nat) : Nat := entryAddr c k tile + 64 + split * (4 * sh.m * sh.n) + 8 * part * sh.n * 4
  andThen (collectAll s (fun s i => readVa s c (agentOf a) 2 (at_ i) (4 * rows * sh.n)) (List.range sh.split)) (fun s slots =>
    let sums := chunksOf sh.n (slotTree (rows * sh.n) (slots.map wordsOf))
    let g := gemmItem c k (tile * sh.split)
    let f := cellFlags (within (8 * part) 8 (g.rin c k)) (g.cin c k) sums
    andThen (finishTile s c k a tile (8 * part) rows (sums.map (fun r => r.map (·.1)))) (fun s _ =>
      (raiseSlotFlags s (c.ref 8).slot f, some ())))

/-- A finish item: 8 rows of an output tile. -/
def finishPart (s : State) (c : Cmd) (k : Compute) (a tile part : Nat) : State :=
  match fetchDone c.id (agentOf a) (finishSlots s c k a tile part) with
  | (s, none) => s
  | (s, some ()) => endWork (mapWork s c.id (fun k => { k with finish := k.finish.filter (· != (tile, part)) })) c.id

/-- Whether a rib can work for a command: it is free, and holds the step's programs where the step has any. -/
def ribReady (s : State) (a : Nat) (c : Cmd) (k : Compute) : Bool :=
  let x := s.ribOf a
  ribOn s a && (s.array a).online && x.landing.isEmpty && x.work.isNone && (k.points.isEmpty || x.hasBank c.id)

/-- FINISH_ITEM (R309): a free rib of a command takes the next finish item. -/
def execFinishItem (a : Nat) (f : Finding) (s : State) : Out :=
  match s.cp.table.find? (fun c => c.opcode == Op.gemm && c.status.isNone && c.stop.isNone && !(workOf c).finish.isEmpty && ribReady s a c (workOf c)) with
  | none => .next s
  | some c =>
    match (workOf c).finish with
    | (tile, part) :: _ => .next (ribDoes s a c f (fun s => finishPart s c (workOf c) a tile part))
    | [] => .next s

/-- What a GEMM does as it starts: its factor's flags (R126), and its headers. -/
def gemmStart (s : State) (c : Cmd) (k : Compute) : State :=
  match zeroHeaders s c k with
  | (s, none) => wait_ s c
  | (s, some ()) => startWork (raiseSlotFlags s (c.ref 8).slot (gemmFactor c k).2) c k

/-- GEMM (R75). -/
def execGemm (q : Nat) (s : State) : Out := startOrPoll s q Op.gemm (planGo gemmStart)

end Sys2Proof.Machine
end

