-- ==== Sys2Proof/Machine/RibKinds.lean ====
section
/-! DEFINITION. The commands that run on ribs alone (R262 to R264, R267, R268): CONVERT, ROWSTAT and SOFTMAX, by tiles of 128 rows. -/

namespace Sys2Proof.Machine

/-- The rows of a work item: the first, and how many are in bounds. -/
def stripRow (item : Nat) : Nat := 128 * item
def stripRows (c : Cmd) (item : Nat) : Nat := within (stripRow item) 128 c.rows

/-- A program of the step, at whichever point it stands (one of these kinds has one tile, so one program). -/
def stripPoint (c : Cmd) (k : Compute) : Nat := if c.opcode = Op.softmax then 2 else k.points.headD 3

/-- The geometry of a strip: 128 columns to a segment, ascending. -/
def stripGeom (c : Cmd) (item : Nat) : Geom :=
  { rows := 128, cols := c.cols, parts := cdiv c.cols 128, rowBase := stripRow item, queryPos := { base := (c.cols : Int) - c.rows + stripRow item },
    rowsIn := stripRows c item, colsIn := c.cols }

/-- The rows of a strip reach the rib through a ring of its own, a slot to each row. -/
def stripRings (s : State) (c : Cmd) (k : Compute) (a item : Nat) : List RingSpec :=
  [{ number := ringLeft, members := [a],
     tiles := (upTo (stripRow item) (stripRows c item)).map (fun r => (srcTile (ctxOf s c) (.ten (tSrc c k) 0) r 1 0 c.cols).at_ r {}) }]

/-! ### CONVERT (R268) -/

/-- g = fl(s_src / s_dst). -/
def convertFactor (c : Cmd) (k : Compute) : Word :=
  wd (fDiv .binary32 .rne (k.scale (c.ref 4).slot).toNat (k.scale (c.ref 6).slot).toNat).1

def convertMode (c : Cmd) : RMode := if fld (c.word 11) 17 16 = 1 then .rtz else .rne

/-- The value of a source code as FP32: an FP64 source rounds first, where a program follows. -/
def sourceWord (f : Format) (r : RMode) (code : Nat) : Word × FFlags :=
  if f = .fp64 then let x := fConvert .fp64 .fp32 r code; (wd x.1, x.2) else (widenTo32 f code, {})

/-- fl(x × g), with the multiplication skipped when g is 1.0. -/
def scaled32 (g w : Word) : Word × FFlags := if g = one32 then (w, {}) else let x := fMul .binary32 .rne w.toNat g.toNat; (wd x.1, x.2)

/-- One value converted with no program. A NaN sets nan_seen and no other sticky flag (R104), also where it is multiplied first. -/
def convertOne (src dst : Format) (r : RMode) (ovf : Bool) (g : Word) (code : Nat) : Nat × Sticky × FFlags :=
  let nanIn := if src = .fp64 then (Fmt.binary64.decode code).isNan else nanWord? (widenTo32 src code)
  let mul (f : Fmt) (x : Nat × FFlags) (from_ : Format) : Nat × Sticky × FFlags :=
    let y := convertCode from_ dst r ovf (f.decode x.1)
    let fl := x.2.sticky (f.decode x.1).isNan
    (y.1, y.2.1.or (if nanIn then { fl with invalid := false } else fl), y.2.2.or x.2)
  if g = one32 then
    if src = .fp64 then convertCode .fp64 dst r ovf (Fmt.binary64.decode code)
    else convertCode .fp32 dst r ovf (Fmt.binary32.decode (widenTo32 src code).toNat)
  else if src = .fp64 || dst = .fp64 then
    let v := if src = .fp64 then code else (fConvert .fp32 .fp64 .rne (widenTo32 src code).toNat).1
    mul .binary64 (fMul .binary64 .rne v (fConvert .fp32 .fp64 .rne g.toNat).1) .fp64
  else mul .binary32 (fMul .binary32 .rne (widenTo32 src code).toNat g.toNat) .fp32

/-- The FP32 value that a program, or the row functions of ROWSTAT and SOFTMAX, start from, with its flags (R104, R268, R273; log 122). -/
def stripValue (c : Cmd) (k : Compute) (x : Nat) : Word × FFlags × Sticky :=
  let f := (tSrc c k).fmt
  let v := sourceWord f (convertMode c) x
  let y := if c.opcode = Op.convert then let y := scaled32 (convertFactor c k) v.1; (y.1, v.2.or y.2) else v
  let nanIn := if f = .fp64 then (Fmt.binary64.decode x).isNan else nanWord? (widenTo32 f x)
  let fl := y.2.sticky (nanWord? y.1)
  (y.1, y.2, if nanIn then { fl with invalid := false } else fl)

/-- RB_FPSTAT gathers flags. -/
def ribFlags (s : State) (a : Nat) (f : FFlags) : State := s.setRib a { s.ribOf a with fpstat := (s.ribOf a).fpstat.or f }

/-- Rows of CONVERT's destination, converted and written. -/
def writeConverted (s : State) (c : Cmd) (k : Compute) (a row : Nat) (x : List (List (Nat × Sticky × FFlags))) : State × Option Unit :=
  let t := tDst c k
  andThen (placeAll s c (agentOf a) t.word (rowPlaces t ((upTo row x.length).map (fun r => (0, r))) 0 c.cols)) (fun s ps =>
  andThen (commitCodes s c (agentOf a) t ps (x.map (fun r => r.map (fun y => (y.1, y.2.1))))) (fun s _ =>
    (ribFlags s a (joinF ((x.map (fun r => r.map (·.2.2))).flatten)), some ())))

/-- A row of CONVERT without a program, which needs no lanes (R236). -/
def convertRow (s : State) (c : Cmd) (k : Compute) (a row : Nat) (codes : List Nat) : State × Option Unit :=
  writeConverted s c k a row
    [codes.map (convertOne (tSrc c k).fmt (tDst c k).fmt (convertMode c) (nanOnOverflow s c) (convertFactor c k))]

/-- The end of a strip of CONVERT with a program. -/
def convertFinish (s : State) (c : Cmd) (k : Compute) (a item : Nat) (m : List (List Word)) : State × Option Unit :=
  writeConverted s c k a (stripRow item) ((crop (stripRows c item) c.cols m).map (fun r => r.map (fun w =>
    convertCode .fp32 (tDst c k).fmt (convertMode c) (nanOnOverflow s c) (Fmt.binary32.decode w.toNat))))

/-! ### ROWSTAT (R261 to R264) -/

/-- A value with its IEEE 754 and Tally flags. -/
structure Flagged where
  w : Word := 0
  ieee : FFlags := {}
  flags : Sticky := .none
  deriving DecidableEq, Repr

def Flagged.step (f : Flagged) (r : Nat × FFlags) : Flagged :=
  ⟨wd r.1, f.ieee.or r.2, f.flags.or (r.2.sticky (nanWord? (wd r.1)))⟩

/-- Σx and Σ fl(x × x) of a row (R261): segments of 128 by the pairwise tree, added in ascending column order. -/
def rowSums (row : List Word) : Flagged × Flagged :=
  let acc (seg : List Word) (t : Flagged) : Flagged :=
    let x := segTree (fAdd .binary32 .rne) (padTo' 128 0#32 seg)
    { t with ieee := t.ieee.or x.2, flags := t.flags.or (x.2.sticky (nanWord? x.1)) }.step (fAdd .binary32 .rne t.w.toNat x.1.toNat)
  let sq := row.map (fun w => fMul .binary32 .rne w.toNat w.toNat)
  let f := joinF (sq.map (·.2))
  let g := joinS (sq.map (fun r => r.2.sticky (nanWord? (wd r.1))))
  ((chunksOf 128 row).foldl (fun t seg => acc seg t) {},
   (chunksOf 128 (sq.map (fun r => wd r.1))).foldl (fun t seg => acc seg t) ⟨0, f, g⟩)

/-- R263: μ and the variance, with var_clamp. -/
def rowVariance (n : Nat) (x : Flagged × Flagged) : Flagged × Flagged × Bool :=
  let cnt := (fl32 (Dy.ofInt n)).toNat
  let mu := x.1.step (fDiv .binary32 .rne x.1.w.toNat cnt)
  let c := x.2.step (fFma .binary32 .rne (x.1.w ^^^ 0x80000000#32).toNat mu.w.toNat x.2.w.toNat)
  let v := c.step (fDiv .binary32 .rne c.w.toNat cnt)
  let d := Fmt.binary32.decode v.w.toNat
  if d.isNan then (mu, v, false)
  else if d.isZero then (mu, { v with w := 0 }, false)
  else if d.neg? then (mu, { v with w := 0 }, true)
  else (mu, v, false)

/-- Steps 1 to 4 of R175 over a row, in runs of 128 columns, for the columns that `sees` admits. -/
def rowStateOf (seeds : Seeds) (sees : Nat → Bool) (row : List Word) : RowState :=
  (chunksOf 128 ((upTo 0 row.length).zip row)).foldl
    (fun st run => (rowTerms st (run.map (fun p => if sees p.1 then wexp seeds p.2 else 0))).1) {}

/-- The two values of a row of statistics, their flags, and whether the variance was clamped or the row was out of range. -/
structure StatRow where
  vals : List Word := []
  ieee : FFlags := {}
  flags : Sticky := .none
  clamp : Bool := false
  bad : Bool := false
  deriving DecidableEq, Repr

def statRow (seeds : Seeds) (kind : Nat) (row : List Word) : StatRow :=
  match kind with
  | 0 =>
    let x := rowSums row
    { vals := [x.1.w, x.2.w], ieee := x.1.ieee.or x.2.ieee, flags := x.1.flags.or x.2.flags }
  | 1 =>
    let v := rowVariance row.length (rowSums row)
    { vals := [v.1.w, v.2.1.w], ieee := v.1.ieee.or v.2.1.ieee, flags := (v.1.flags.or v.2.1.flags).or { varClamp := v.2.2 }, clamp := v.2.2 }
  | _ =>
    let st := rowStateOf seeds (fun _ => true) row
    let m : Word := match st.m with | none => fp32Inf true | some m => fl32 (Dy.ofInt m)
    { vals := if st.bad then [nanWord, nanWord] else [m, wlogOp seeds st], flags := if st.bad then .ofRange else .none, bad := st.bad }

/-- R467: clamps counted in a slot. -/
def countClamps (s : State) (slot n : Nat) : State :=
  if slot = 0 || n = 0 then s else s.setSlot slot { s.slot slot with varClamp := satAdd 0xFFFFFFFF (s.slot slot).varClamp n }

def noteNan (s : State) (id : Nat) (rows : List Nat) : State := mapWork s id (fun k => { k with nanRows := k.nanRows ++ rows })

/-- The end of a strip of ROWSTAT. -/
def statFinish (s : State) (c : Cmd) (a item : Nat) (m : List (List Word)) : State × Option Unit :=
  let rin := stripRows c item
  let t := tStat c
  let rows := (crop rin c.cols m).map (statRow (s.ribOf a).seeds (fld (c.word 11) 17 16))
  let is := ((upTo (stripRow item) rin).map (fun r => [2 * r, 2 * r + 1])).flatten
  andThen (placeAll s c (agentOf a) t.word (densePlaces t is)) (fun s ps =>
  andThen (commitDense s c (agentOf a) t ps ((rows.map (·.vals)).flatten)) (fun s _ =>
    let s := ribFlags s a (joinF (rows.map (·.ieee)))
    let s := raiseSlotFlags s t.ref.slot (joinS (rows.map (·.flags)))
    let s := countClamps s t.ref.slot (rows.filter (·.clamp)).length
    (noteNan s c.id (((upTo (stripRow item) rin).zip rows).filter (·.2.bad) |>.map (·.1)), some ())))

/-! ### SOFTMAX (R267) -/

/-- p_mode 1, chain. -/
def chainMode (k : Compute) : Bool := bit (k.s 36) 12

/-- A column of a row is unmasked. -/
def softSees (c : Cmd) (k : Compute) (row col : Nat) : Bool :=
  row < c.rows && col < c.cols && unmaskedAt k ((c.cols : Int) - c.rows + row) col

/-- One P of a row in its final state. -/
def softP (s : State) (c : Cmd) (k : Compute) (st : RowState) (factor h : Word) (w : Nat) : Nat × Sticky :=
  let f := (tDst c k).fmt
  let pf := fmtOf k.pFmt
  if st.bad then (f.nanCode, .none)
  else if !wNonzero w then (0, .none)
  else
    let v := (wVal w).scale (tP pf - st.m.getD 0)
    if chainMode k then ((narrowFinite f .rne false false v.m.natAbs v.e).1, .none)
    else
      let x := (fMul .binary32 .rne (fl32 v).toNat factor.toNat).1
      let y := if h = one32 then x else (fMul .binary32 .rne x h.toNat).1
      outCode s c f (wd y)

/-- What SOFTMAX makes of one row: its state, its P codes, and the scores that it gathers. -/
structure SoftRow where
  state : RowState := {}
  codes : List (Nat × Sticky) := []
  scores : List Word := []
  deriving DecidableEq, Repr

/-- One row, as the score program leaves it and as the rib received it; the scores gathered are the received ones (R469). -/
def softRow (s : State) (c : Cmd) (k : Compute) (a row : Nat) (vals got : List Word) : SoftRow :=
  let seeds := (s.ribOf a).seeds
  let st := rowStateOf seeds (softSees c k row) vals
  let cols := (upTo 0 vals.length).zip vals
  let h := wd (fDiv .binary32 .rne one32.toNat (k.scale (c.ref 6).slot).toNat).1
  let g := (rowFactor seeds st one32 (fmtOf k.pFmt)).1
  { state := st,
    codes := cols.map (fun p => softP s c k st g h (if softSees c k row p.1 then wexp seeds p.2 else 0)),
    scores := ((cols.zip got).filter (fun p => softSees c k row p.1.1 && inRange p.1.2)).map (·.2) }

/-- The end of a strip of SOFTMAX: P, and in words 8 and 9 L or the row states. -/
def softFinish (s : State) (c : Cmd) (k : Compute) (a item : Nat) (m got : List (List Word)) : State × Option Unit :=
  let rin := stripRows c item
  let t := tDst c k
  let r0 := stripRow item
  let rows := ((upTo r0 rin).zip ((crop rin c.cols m).zip (crop rin c.cols got))).map (fun p => softRow s c k a p.1 p.2.1 p.2.2)
  let out := tRowOut c k
  let is := if !out.present then [] else if chainMode k then ((upTo r0 rin).map (fun r => [2 * r, 2 * r + 1])).flatten else upTo r0 rin
  andThen (placeAll s c (agentOf a) t.word (rowPlaces t ((upTo r0 rin).map (fun r => (0, r))) 0 c.cols)) (fun s ps =>
  andThen (placeAll s c (agentOf a) out.word (densePlaces out is)) (fun s pl =>
  andThen (commitCodes s c (agentOf a) t ps (rows.map (·.codes))) (fun s _ =>
  andThen (if is.isEmpty then (s, some ())
      else if chainMode k then
        makeOut s c (agentOf a) out.word pl ((rows.map (fun r => [wordBytes [r.state.words.1], wordBytes [r.state.words.2]])).flatten)
      else commitDense s c (agentOf a) out pl (rows.map (fun r => wlogOp (s.ribOf a).seeds r.state))) (fun s _ =>
    let src := (c.ref 4)
    let s := gather s c.id src.slot (k.scale src.slot) 3 false ((rows.map (·.scores)).flatten)
      (if rows.any (·.state.bad) then .ofRange else .none)
    (noteNan s c.id (((upTo r0 rin).zip rows).filter (·.2.state.bad) |>.map (·.1)), some ())))))

/-- The end of a strip: what its passes made of it, and what the rib received. -/
def stripFinish (s : State) (c : Cmd) (k : Compute) (a item : Nat) (m got : List (List Word)) : State × Option Unit :=
  if c.opcode = Op.convert then convertFinish s c k a item m
  else if c.opcode = Op.rowstat then statFinish s c a item m
  else softFinish s c k a item m got

/-! ### The rows of a strip arrive -/

/-- CONVERT without a program: its rows are converted as they arrive. -/
def stripDirect (c : Cmd) (k : Compute) : Bool := c.opcode == Op.convert && k.points.isEmpty

/-- A tile whose values are all there. -/
def Tile.whole (t : Tile) : Bool := t.vals.length == t.rows * t.cols

/-- A tile reaches a rib (R241): it stands behind those that are whole. -/
def Rib.land (x : Rib) (t : Tile) : Rib := { x with landing := x.landing.filter Tile.whole ++ t :: x.landing.filter (fun y => !y.whole) }

/-- The strip that a rib gathers. -/
def Rib.mapStrip (x : Rib) (w : Work) (f : Tile → Tile) : Rib :=
  { x with landing := x.landing.map (fun t => if t.role == roleStake && t.cmd == w.cmd && t.item == w.item then f t else t) }

/-- A rib takes a strip: the stake operand of its passes, whose rows are on their way. -/
def assignStrip (s : State) (c : Cmd) (k : Compute) (a item : Nat) : State × Option Unit :=
  andThen (openRings s c k (stripRings s c k a item)) (fun s rs =>
    let x := s.ribOf a
    let t : Tile := { cmd := c.id, item := item, role := roleStake, rows := 128, cols := c.cols, rowsIn := stripRows c item,
                      colsIn := c.cols, slot := (c.ref 6).slot }
    let x := { x with work := some { cmd := c.id, item := item, rings := ringsOf a rs } }
    (s.setRib a (if stripDirect c k then x else x.land t), some ()))

/-- A row of a strip is converted, or joins the operand of the strip's passes. -/
def takeRow (s : State) (c : Cmd) (k : Compute) (a : Nat) (w : Work) (row : Nat) (codes : List Nat) : State × Option Unit :=
  if stripDirect c k then convertRow s c k a row codes else
  let v := codes.map (stripValue c k)
  let s := raiseSlotFlags (ribFlags s a (joinF (v.map (·.2.1)))) (c.ref 6).slot (joinS (v.map (·.2.2)))
  (s.setRib a ((s.ribOf a).mapStrip w (fun t => { t with vals := t.vals ++ v.map (·.1) })), some ())

/-- The last row of a strip is there: a conversion is complete, a strip of passes has its rows beyond the tensor at +0 (R152). -/
def rowsDone (s : State) (c : Cmd) (k : Compute) (a : Nat) (w : Work) : State :=
  let s := leaveRing a s (w.ring ringLeft)
  if stripDirect c k then endWork (itemDone (s.setRib a { s.ribOf a with work := none }) c.id w.item 1 a) c.id
  else s.setRib a ((s.ribOf a).mapStrip w (fun t => { t with vals := padTo' (t.rows * t.cols) 0#32 t.vals }))

/-- A rib goes on with its strip: the next row, once its slot is ready. -/
def continueStrip (s : State) (c : Cmd) (a : Nat) (w : Work) (f : Finding) : State :=
  let k := workOf c
  let id := w.ring ringLeft
  match nextSlot s c a id f with
  | (s, none) => s
  | (s, some (p, y)) =>
    match takeRow s c k a w p.block (y.codes.headD []) with
    | (s, none) => s
    | (s, some ()) =>
      let s := markRead s a id
      if readAll s a id then rowsDone s c k a w else s

/-- CONVERT (R75, R268). -/
def execConvert (q : Nat) (s : State) : Out := planRow q Op.convert s
/-- ROWSTAT (R75, R262). -/
def execRowstat (q : Nat) (s : State) : Out := planRow q Op.rowstat s
/-- SOFTMAX (R75, R267). -/
def execSoftmax (q : Nat) (s : State) : Out := planRow q Op.softmax s

end Sys2Proof.Machine
end

