-- ==== Sys2Proof/Machine/Scan.lean ====
section
/-! DEFINITION. The gated scans (R212 to R224): the gates of a chunk, and the steps of a head on its array, forward and backward. The
products of a step enter tile 0, the state tile 1; what a tile gives is stored as it drains. -/

namespace Sys2Proof.Machine

/-! ### Gates (R214, R215) -/

def log2e : Word := 0x3FB8AA3B#32
def f32Add (x y : Word) : Word := wd (fAdd .binary32 .rne x.toNat y.toNat).1
def f32Sub (x y : Word) : Word := wd (fSub .binary32 .rne x.toNat y.toNat).1
def f32Mul (x y : Word) : Word := wd (fMul .binary32 .rne x.toNat y.toNat).1
def f32Div (x y : Word) : Word := wd (fDiv .binary32 .rne x.toNat y.toNat).1
def f32Fma (x y z : Word) : Word := wd (fFma .binary32 .rne x.toNat y.toNat z.toNat).1
def f32Neg (x : Word) : Word := x ^^^ 0x80000000#32

/-- e^x by EXP2 of fl(x × log2 e) (R215). -/
def gateExp (seeds : Seeds) (x : Word) : Word := (exp2Op seeds (f32Mul x log2e)).1

/-- R214. -/
def legalGate (g : Word) : Bool :=
  match Fmt.binary32.decode g.toNat with
  | .nan .. => false
  | .inf s => s
  | .fin s m _ => s || m == 0

/-- A token where nothing of the earlier state remains: the first of a document, or one whose gate is -infinity. -/
def gateCut (k : Compute) (t : Nat) (g : Word) : Bool := (bit k.mask 2 && k.docs.contains t) || g == fp32Inf true

/-- The gates of a chunk: by in-bounds token the cumulative log-gate b and the number of cuts up to it, and B. -/
structure Gates where
  b : List Word := []
  seg : List Nat := []
  deriving DecidableEq, Repr

def Gates.bAt (x : Gates) (t : Nat) : Word := x.b.getD t 0
def Gates.segAt (x : Gates) (t : Nat) : Nat := x.seg.getD t 0
def Gates.count (x : Gates) : Nat := x.b.length
def Gates.last (x : Gates) : Nat := x.b.length - 1
def Gates.total (x : Gates) : Word := x.bAt x.last
def Gates.cut (x : Gates) : Bool := x.segAt x.last != 0
/-- Tokens t and u share a segment. -/
def Gates.same (x : Gates) (t u : Nat) : Bool := t < x.count && u < x.count && x.segAt t == x.segAt u

def gatesOf (k : Compute) (t0 : Nat) (gs : List Word) : Gates :=
  (gs.zip (upTo t0 gs.length)).foldl (fun (x : Gates) p =>
    if gateCut k p.2 p.1 then
      { b := x.b ++ [if p.1 == fp32Inf true then 0 else p.1], seg := x.seg ++ [(x.seg.getLast?.getD 0) + 1] }
    else
      { b := x.b ++ [match x.b.getLast? with | some y => f32Add y p.1 | none => p.1], seg := x.seg ++ [x.seg.getLast?.getD 0] }) {}

/-- D_tu (R215). -/
def Gates.decay (x : Gates) (seeds : Seeds) (t u : Nat) : Word := gateExp seeds (f32Sub (x.bAt t) (x.bAt u))

/-- The decrement and the new factor of a chunk (R215, R216). -/
def chunkDecay (seeds : Seeds) (x : Gates) (f : Word) : Nat × Word :=
  let y := f32Add (f32Mul x.total log2e) (log2Op seeds f).1
  match Fmt.binary32.decode y.toNat with
  | .fin s m e =>
    let n := ((Fp.fin s m e).val.neg).floor
    if x.cut || 255 ≤ n then (255, one32) else (n.toNat, (exp2Op seeds (f32Add y (fl32 (Dy.ofInt n)))).1)
  | _ => (255, one32)

/-- e^(b_t) times a factor, for tokens before every cut of the chunk. -/
def Gates.fromStart (x : Gates) (seeds : Seeds) (f : Word) (t : Nat) : Word :=
  if t < x.count && x.segAt t == 0 then f32Mul (gateExp seeds (x.bAt t)) f else 0

/-- e^(B - b_u), for tokens after every cut. -/
def Gates.toEnd (x : Gates) (seeds : Seeds) (u : Nat) : Word :=
  if x.same u x.last then gateExp seeds (f32Sub x.total (x.bAt u)) else 0

/-! ### Operands of a chunk -/

/-- A converted matrix, and the flags of the conversion. -/
def toCodes (s : State) (c : Cmd) (f : Format) (m : List (List Word)) : List (List Nat) × Sticky :=
  let x := m.map (fun r => r.map (outCode s c f))
  (x.map (fun r => r.map (·.1)), joinS ((x.map (fun r => r.map (·.2))).flatten))

/-- Operand rows multiplied by a factor each and converted back to their format. -/
def scaleRows (s : State) (c : Cmd) (f : Format) (fs : List Word) (m : List (List Nat)) : List (List Nat) × Sticky :=
  toCodes s c f ((m.zip fs).map (fun p => p.1.map (fun x => f32Mul (widenTo32 f x) p.2)))

/-- The scales and formats of a scan. -/
structure ScanEnv where
  seeds : Seeds := []
  d : Nat := 64
  fq : Format := .e4m3
  fk : Format := .e4m3
  fv : Format := .e4m3
  fo : Format := .e4m3
  fs : Format := .e4m3
  sq : Word := 0x3F800000#32
  sk : Word := 0x3F800000#32
  sv : Word := 0x3F800000#32
  so : Word := 0x3F800000#32
  sa : Word := 0x3F800000#32
  deriving DecidableEq, Repr

def scanEnv (s : State) (c : Cmd) (k : Compute) (a : Nat) : ScanEnv :=
  { seeds := (s.ribOf a).seeds, d := k.dim, fq := fmtOf (c.ref 4).fmt, fk := fmtOf (c.ref 6).fmt, fv := fmtOf (c.ref 8).fmt,
    fo := fmtOf (c.ref 10).fmt, fs := fmtOf k.pFmt, sq := k.scale (c.ref 4).slot, sk := k.scale (c.ref 6).slot,
    sv := k.scale (c.ref 8).slot, so := k.scale (c.ref 10).slot, sa := k.scale k.sideSlot }

/-- s_Q × s_K / s_A: what puts a snapshot in the units of P′ (R216). -/
def ScanEnv.snap (e : ScanEnv) : Word := (factorOf e.sq [(false, e.sk), (true, e.sa)]).1

/-- P′ or dA: scores of a chunk masked and decayed (R215), zero elsewhere. -/
def decayed (e : ScanEnv) (g : Gates) (m : List (List Word)) : List (List Word) :=
  (m.zip (upTo 0 m.length)).map (fun r => (r.1.zip (upTo 0 r.1.length)).map (fun x =>
    if x.2 ≤ r.2 && g.same r.2 x.2 then f32Mul x.1 (g.decay e.seeds r.2 x.2) else 0))

/-- Values divided by a scale. -/
def overScale (x : Word) (m : List (List Word)) : List (List Word) := m.map (fun r => r.map (fun w => f32Div w x))

/-- A tile 1 in state_format, with a factor (R216). -/
def snapshot (s : State) (c : Cmd) (e : ScanEnv) (m : List (List Word)) : List (List Nat) × Sticky :=
  let x := drainTile e.snap e.d e.d m
  let y := toCodes s c e.fs x.1
  (y.1, x.2.or y.2)

/-- The scale of the stored dA: the one for which one snapshot factor serves every product. -/
def ScanEnv.sda (e : ScanEnv) : Word := (factorOf e.sa [(false, e.so), (false, e.sv), (true, e.sq), (true, e.sk)]).1

/-- R217: an element of an initial state over fl(s_K × s_V), by the rules of the fill path (R116 to R118, R120). -/
def fillOver (y w : Word) : Word × Sticky :=
  match arrayIn w, Fmt.binary32.decode y.toNat with
  | (.nan .., f), _ => (arrayNan, f.or .ofNan)
  | (.inf s, f), _ => (fp32Inf s, f)
  | (.fin s m e, f), .fin _ m2 e2 =>
    if m2 = 0 then (if m = 0 then (arrayNan, f.or .ofInvalid) else (fp32Inf s, f.or .ofOvf))
    else let q := quotBits m e m2 e2; let r := storeFp32 s q.1 q.2.1 q.2.2; (r.1, f.or r.2)
  | (.fin s _ _, f), _ => (fp32Zero s, f)

/-- The first illegal gate of a head (R218). -/
def badGate (gs : List Word) : Option Nat := (List.range gs.length).find? (fun t => !legalGate (gs.getD t 0))

/-- A row from the chunk of the bad gate onward. -/
def afterBad (bad : Option Nat) (t : Nat) : Bool := match bad with | some b => b / 128 * 128 ≤ t | none => false

/-- R218: the rows of a head with a bad gate that are set to NaN. -/
def badRows (c : Cmd) (head : Nat) (bad : Option Nat) : List Nat :=
  ((List.range c.queries).filter (afterBad bad)).map (fun t => head * c.queries + t)

/-- The first of two illegal gates (R218). -/
def firstOf (a b : Option Nat) : Option Nat :=
  match a, b with
  | some x, some y => some (min x y)
  | some x, none => some x
  | none, y => y

/-! ### Slewed tiles outside a ring (R363) -/

/-- Where line `j` of row `r` of a slewed tile lies, in lines from its start; `g` lines to a row. -/
def slewLine (g r j : Nat) : Nat := r * g + (j + r) % g

/-- A slewed tile of rows of bytes from an address: its lines. -/
def slewedWrites (va rowBytes : Nat) (rows : List (List Byte)) : List (Nat × List Byte) :=
  let g := cdiv rowBytes 64
  ((rows.zip (upTo 0 rows.length)).map (fun r => (List.range g).map (fun j =>
    (va + 64 * slewLine g r.2 j, (r.1.drop (64 * j)).take 64)))).flatten

/-! ### The steps of a head -/

/-- The steps of a chunk: the tiles of P′ and dA, the copy of tile 1, the tiles of O, dQ, dK and dV, the update of tile 1, and its
fill. -/
abbrev scanP : Nat := 0
abbrev scanA : Nat := 1
abbrev scanCopy : Nat := 2
abbrev scanO : Nat := 3
abbrev scanDq : Nat := 4
abbrev scanDk : Nat := 5
abbrev scanDv : Nat := 6
abbrev scanState : Nat := 7
abbrev scanFill : Nat := 8

/-- The stage before a step, and while its tile is on its way out of the array. -/
def due (step : Nat) : Nat := 2 * step
def leaving (step : Nat) : Nat := 2 * step + 1

def isBwd (c : Cmd) : Bool := c.opcode == Op.scanBwd

/-- The scan of an array, with its command. -/
def scanOf (s : State) (a : Nat) : Option (Cmd × Work × ScanRun) :=
  match (s.array a).work with
  | some w =>
    match w.scan, s.cmd? w.cmd with
    | some r, some c => some (c, w, r)
    | _, _ => none
  | none => none

def setScan (s : State) (a : Nat) (w : Work) (r : ScanRun) : State :=
  s.setArray a { s.array a with work := some { w with scan := some r } }

/-- The gates of the chunk in hand. -/
def ScanRun.now (r : ScanRun) (k : Compute) : Gates := gatesOf k (128 * r.chunk) ((r.gates.drop (128 * r.chunk)).take 128)

/-- A tile of a scan. -/
def scanTile (c : Cmd) (item step slot rows cols rin cin : Nat) (m : List (List Word)) : Tile :=
  let t : Tile := { cmd := c.id, item := item, role := roleHeld, block := step, rows := rows, cols := cols, rowsIn := rin, colsIn := cin, slot := slot }
  t.ofMatrix m

def stateTile (c : Cmd) (item d : Nat) (m : List (List Word)) : Tile := scanTile c item scanCopy 0 d d d d m

/-! ### A head is assigned -/

/-- The rows of a tensor of a chunk. -/
def chunkTile (ctx : Nat) (t : Ten) (head d : Nat) (g : Geom) (i : Nat) : OpTile :=
  (srcTile ctx (.ten t head) (128 * i) 128 0 d).at_ i { g with rows := 128, cols := d, parts := cdiv d 128, rowBase := 128 * i }

/-- The rings of a head: Q, K, V and, of SCAN_BWD, dO; the order of its chunks is that in which its phases use them. -/
def scanRings (s : State) (c : Cmd) (k : Compute) (a head : Nat) : List RingSpec :=
  let up := List.range (chunkCount c)
  let down := up.reverse
  let kv := if isBwd c then up ++ down else up
  let qo := if isBwd c then down else up
  let ctx := ctxOf s c
  let depth := ringDepth s c k (famIn s c k)
  let ring (n : Nat) (point : Option Nat) (t : Ten) (g : Nat → Geom) (is : List Nat) : RingSpec :=
    { number := n, members := [a], depth := depth, point := point, tiles := is.map (fun i => (chunkTile ctx t head k.dim (g i) i).slew) }
  [ring ringLeft (some 0) (tQ c k) (fun i => { queryPos := { base := 128 * i } }) qo,
   ring ringRight (some 1) (tK c k) (fun i => { keyPos := { base := 128 * i }, turned := true }) kv,
   ring ringValue none (tV c k) (fun _ => {}) kv] ++
  (if isBwd c then [ring ringDo none (tO c k) (fun _ => {}) qo] else [])

/-- A slot that the rib of a scan fills: a d × d or a 128 × 128 matrix, slewed (R222, R363). -/
def scanSlot (f : Format) (n i : Nat) : OpTile :=
  { block := i, view := { rows := n, cols := n, rowsIn := n, colsIn := n, fmt := f, slewed := true } }

/-- The rings of a head that its rib writes, of three slots as the P ring has (log 79): P′, dA and the snapshots of tile 1; and those of the
stored snapshots and of the initial state, which a streamer fills (R22). -/
def scanOwnRings (s : State) (c : Cmd) (k : Compute) (a head : Nat) : List RingSpec :=
  let e := scanEnv s c k a
  let is := if isBwd c then (List.range (chunkCount c)).reverse else List.range (chunkCount c)
  let made (n : Nat) (f : Format) (m : Nat) : RingSpec := { number := n, members := [a], depth := 3, tiles := is.map (scanSlot f m) }
  let s0 := (k.argRef 8).addr
  [made ringP e.fv 128, made ringPPlain e.fs e.d] ++ (if isBwd c then [made ringDs e.fk 128, made ringPre e.fs e.d] else []) ++
  (if s0 = 0 then [] else [{ number := ringState, members := [a], depth := 1, tiles := [
    { view := { rows := e.d, cols := e.d, rowsIn := e.d, colsIn := e.d, fmt := .fp32 },
      rows := (upTo 0 e.d).map (fun i => (i, .virt (ctxOf s c) (s0 + 4 * e.d * (e.d * head + i)), 4 * e.d)), word := 12 }] }])

/-- The first stage of a head: the fill of its state, or what follows with the state at +0 (R212, R144). -/
def firstStage (c : Cmd) (k : Compute) : Nat := due (if (k.argRef 8).addr != 0 then scanFill else if isBwd c then scanCopy else scanP)

/-- A head is assigned to an array (R214, R221): its log-gates are read, and its state starts at +0, which is its first snapshot where none is
given. -/
def assignScan (s : State) (c : Cmd) (k : Compute) (a head : Nat) : State × Option Unit :=
  fetchDone c.id (agentOf a) (andThen (readVa s c (agentOf a) 12 ((k.argRef 0).addr + 4 * head * c.queries) (4 * c.queries)) (fun s gb =>
  andThen (openRings s c k (scanRings s c k a head ++ scanOwnRings s c k a head)) (fun s rs =>
    let gs := wordsOf gb
    let d := k.dim
    let r : ScanRun := { stage := firstStage c k, ready := (k.argRef 8).addr == 0, gates := gs }
    let ks := ringsOf a rs
    let s := if r.ready && !isBwd c then ribWrites s (tget 0 ks ringPPlain) (fmtOf k.pFmt) (List.replicate d (List.replicate d 0)) else s
    let s := raiseSlotFlags s (if isBwd c then 0 else (c.ref 10).slot) (if (badGate gs).isSome then .ofRange else .none)
    (s.setArray a { s.array a with
      acc1 := some (stateTile c head d (zeroTile d d)), work := some { cmd := c.id, item := head, rings := ks, scan := some r } },
     some ()))))

/-! ### The array's part of a step -/

/-- A product's tile enters tile 0, and goes out from there. -/
def enterTile (s : State) (a : Nat) (w : Work) (r : ScanRun) (t : Tile) (f : Sticky) : State :=
  let s := raiseSlotFlags s t.slot f
  setScan (s.setArray a { s.array a with acc0 := some t }) a w { r with stage := leaving t.block }

/-- Scores of a chunk: Q·Kᵀ or dO·Vᵀ. -/
def scanScore (s : State) (c : Cmd) (a : Nat) (w : Work) (r : ScanRun) (step slot n : Nat) (x y : RingSlot) : State :=
  let p := tileProduct 0 x.fmt y.fmt x.codes y.codes (zeroTile 128 128) n n
  enterTile s a w r (scanTile c w.item step slot 128 128 n n p.1) p.2

/-- A tile of two segments (R215, R222): `x` by the columns of `y`, then rows of `u` times a factor each by the rows of `v`. -/
def scanPair (s : State) (c : Cmd) (a d : Nat) (w : Work) (r : ScanRun) (step slot n : Nat) (fx fy : Format) (x y : List (List Nat))
    (u : RingSlot) (fs : List Word) (fv : Format) (v : List (List Nat)) : State :=
  let t := scaleRows s c u.fmt fs u.codes
  let p := tileProduct 0 fx fy x (transpose d 0 y) (zeroTile 128 d) n d
  let q := tileProduct 0 u.fmt fv t.1 v p.1 n d
  enterTile s a w r (scanTile c w.item step slot 128 d n d q.1) ((t.2.or p.2).or q.2)

/-- Tile 1: the decrement, then its product (R215, R222): rows of `x` times a factor each, turned, by `y`. -/
def updateState (s : State) (c : Cmd) (a d n : Nat) (w : Work) (r : ScanRun) (x : RingSlot) (fs : List Word) (y : RingSlot) : State :=
  match (s.array a).acc1 with
  | none => s
  | some t =>
    let m := scaleRows s c x.fmt fs x.codes
    let z := decrementRows d d (List.replicate d n) t.matrix
    let p := tileProduct 0 x.fmt y.fmt (transpose d 0 m.1) (transpose d 0 y.codes) z.1 d d
    let s := noteEvent s 0x05 a 1
    raiseFlags (setScan (s.setArray a { s.array a with acc1 := some (t.ofMatrix p.1) }) a w r) ((m.2.or z.2).or p.2)

/-- The initial state enters tile 1 by the fill path (R143, R217), from its slot. -/
def fillState (s : State) (c : Cmd) (a : Nat) (w : Work) (r : ScanRun) (e : ScanEnv) (f : Finding) : State :=
  match nextSlot s c a (w.ring ringState) f with
  | (s, none) => s
  | (s, some (_, y)) =>
    let s := markRead s a (w.ring ringState)
    let x := (y.codes.flatten.map wd).map (fillOver (f32Mul e.sk e.sv))
    raiseFlags (setScan (s.setArray a { s.array a with acc1 := some (stateTile c w.item e.d (chunksOf e.d (x.map (·.1)))) }) a w
      { r with stage := due scanCopy }) (joinS (x.map (·.2)))

/-- Where the snapshot before a chunk lies in scan_scratch. -/
def snapAt (c : Cmd) (k : Compute) (e : ScanEnv) (head chunk : Nat) : Nat :=
  k.scratch + (head * chunkCount c + chunk) * e.d * (e.d * e.fs.bytes)

/-- The transfers of the stored snapshots of a head into their slots, the last chunk first, line by line from their slewed places (R363). -/
def snapFills (ctx : Nat) (c : Cmd) (k : Compute) (e : ScanEnv) (head id : Nat) : List Transfer :=
  let g := cdiv (e.d * e.fs.bytes) 64
  ((List.range (chunkCount c)).map (fun n => ((List.range e.d).map (fun r => (List.range g).map (fun j =>
    ({ src := .virt ctx (snapAt c k e head (chunkCount c - 1 - n) + 64 * slewLine g r j), dst := .slot id n (64 * (g * r + j)), bytes := 64 } : Transfer)))).flatten)).flatten

/-- The second phase of SCAN_BWD may begin: the snapshots are all stored, and a channel brings them back (R221, R366, R372). -/
def beginBack (s : State) (c : Cmd) (k : Compute) (a : Nat) (w : Work) (e : ScanEnv) : State × Option Unit :=
  let ctx := ctxOf s c
  let id := w.ring ringPre
  if writesPending s c.id (.virt ctx (snapAt c k e w.item 0)) (chunkCount c * (e.d * (e.d * e.fs.bytes))) then (s, none) else
  andThen (channelFor s (agentOf a) { cmd := c.id, ring := some id } (fun x => x.ring == some id)) (fun s p =>
    (queueOn s p (snapFills ctx c k e w.item id), some ()))

/-- The factors e^(b_t) × F of the tokens before every cut, and e^(B − b_u) × F of those after. -/
def headFactors (e : ScanEnv) (g : Gates) (f : Word) : List Word := (List.range 128).map (g.fromStart e.seeds f)
def tailFactors (e : ScanEnv) (g : Gates) (f : Word) : List Word := (List.range 128).map (fun u => f32Mul (g.toEnd e.seeds u) f)

/-- The rings whose slots a chunk uses up, in a phase. -/
def scanUses (c : Cmd) (w : Work) (r : ScanRun) : List Nat :=
  if r.back then [w.ring ringLeft, w.ring ringRight, w.ring ringValue, w.ring ringDo]
  else if isBwd c then [w.ring ringRight, w.ring ringValue]
  else [w.ring ringLeft, w.ring ringRight, w.ring ringValue]

/-- After the update of the state in the first phase of SCAN_BWD: the next chunk, or the second phase, with H at zero (R221). -/
def afterState (c : Cmd) (r : ScanRun) : ScanRun :=
  if !isBwd c then { r with stage := due scanCopy }
  else if r.chunk + 1 < chunkCount c then { r with chunk := r.chunk + 1, stage := due scanCopy }
  else { r with back := true, stage := due scanP, f := one32 }

/-- The update of S (R215) once its slots are ready. -/
def stateStep (s : State) (c : Cmd) (k : Compute) (a : Nat) (w : Work) (r : ScanRun) (e : ScanEnv) (f : Finding) : State :=
  match andThen (nextSlots s c a f [w.ring ringRight, w.ring ringValue]) (fun s x =>
      andThen (if (afterState c r).back then beginBack s c k a w e else (s, some ())) (fun s _ => (s, some x))) with
  | (s, some [x, y]) =>
    let g := r.now k
    let n := chunkDecay e.seeds g r.f
    let fs := (List.range 128).map (fun u => f32Div (g.toEnd e.seeds u) n.2)
    let r' := afterState c { r with f := n.2 }
    let s := markAll (updateState s c a e.d n.1 w r' x fs y) a (scanUses c w r)
    if r'.back then s.setArray a { s.array a with acc1 := some (stateTile c w.item e.d (zeroTile e.d e.d)) } else s
  | (s, _) => s

/-- The update of H to that of the previous chunk (R222). -/
def gradStep (s : State) (c : Cmd) (k : Compute) (a : Nat) (w : Work) (r : ScanRun) (e : ScanEnv) (f : Finding) : State :=
  match nextSlots s c a f [w.ring ringLeft, w.ring ringDo] with
  | (s, some [x, y]) =>
    let g := r.now k
    let n := chunkDecay e.seeds g r.f
    let fs := (List.range 128).map (fun i => f32Div (g.fromStart e.seeds one32 i) n.2)
    markAll (updateState s c a e.d n.1 w { r with chunk := r.chunk - 1, stage := due scanP, f := n.2 } x fs y) a (scanUses c w r)
  | (s, _) => s

/-- A product of tile 0 once its slots are ready; those that it is the last to read are read (R364). -/
def productOf (s : State) (c : Cmd) (k : Compute) (a : Nat) (w : Work) (r : ScanRun) (e : ScanEnv) (f : Finding) : State :=
  let q := w.ring ringLeft
  let kk := w.ring ringRight
  let v := w.ring ringValue
  let o := w.ring ringDo
  let p := w.ring ringP
  let da := w.ring ringDs
  let sn := w.ring ringPPlain
  let pre := w.ring ringPre
  let g := r.now k
  let n := g.count
  let F := r.factors.getD r.chunk one32
  if r.stage = due scanP then
    match nextSlots s c a f [q, kk] with
    | (s, some [x, y]) => scanScore s c a w r scanP k.sideSlot n x y
    | (s, _) => s
  else if r.stage = due scanA then
    match nextSlots s c a f [o, v] with
    | (s, some [x, y]) => scanScore s c a w r scanA 0 n x y
    | (s, _) => s
  else if r.stage = due scanO then
    match nextSlots s c a f [q, v, p, sn] with
    | (s, some [x, y, t, z]) =>
      markAll (scanPair s c a e.d w r scanO (c.ref 10).slot n t.fmt y.fmt t.codes y.codes x (headFactors e g r.f) z.fmt (transpose e.d 0 z.codes)) a [p, sn]
    | (s, _) => s
  else if r.stage = due scanDq then
    match nextSlots s c a f [kk, o, da, pre] with
    | (s, some [y, x, t, z]) =>
      markAll (scanPair s c a e.d w r scanDq (k.argRef 10).slot n t.fmt y.fmt t.codes y.codes x (headFactors e g F) z.fmt z.codes) a [pre]
    | (s, _) => s
  else if r.stage = due scanDk then
    match nextSlots s c a f [q, v, da, sn] with
    | (s, some [y, x, t, z]) =>
      markAll (scanPair s c a e.d w r scanDk (k.argRef 12).slot n t.fmt y.fmt (transpose 128 0 t.codes) y.codes x (tailFactors e g r.f) z.fmt z.codes) a [da]
    | (s, _) => s
  else
    match nextSlots s c a f [o, kk, p, sn] with
    | (s, some [y, x, t, z]) =>
      markAll (scanPair s c a e.d w r scanDv (k.argRef 14).slot n t.fmt y.fmt (transpose 128 0 t.codes) y.codes x (tailFactors e g r.f) z.fmt
        (transpose e.d 0 z.codes)) a [p, sn]
    | (s, _) => s

/-- The array goes on with its head: the step that is due. The copy of tile 1 is LATCH_COPY's, and a tile on its way out holds the array. -/
def continueScan (s : State) (c : Cmd) (a : Nat) (w : Work) (r : ScanRun) (f : Finding) : State :=
  let k := workOf c
  let e := scanEnv s c k a
  if r.stage % 2 = 1 || r.stage = due scanCopy then s
  else if r.stage = due scanFill then fillState s c a w r e f
  else if r.stage = due scanState then (if r.back then gradStep s c k a w r e f else stateStep s c k a w r e f)
  else if (s.array a).acc0.isSome then s
  else productOf s c k a w r e f

/-! ### The drained tiles of a head -/

/-- In-bounds rows of a chunk written into a tensor: NaN from the chunk of a bad gate on (R218, R224). -/
def writeChunk (s : State) (c : Cmd) (a : Nat) (t : Ten) (head : Nat) (r : ScanRun) (n : Nat) (m : List (List Word)) : State × Option Unit :=
  let rows := upTo (128 * r.chunk) n
  andThen (placeAll s c (agentOf a) t.word (rowPlaces t (rows.map (fun i => (head, i))) 0 t.cols)) (fun s ps =>
    commitCodes s c (agentOf a) t ps ((m.zip rows).map (fun x =>
      if afterBad (badGate r.gates) x.2 then x.1.map (fun _ => (t.fmt.nanCode, Sticky.none)) else x.1.map (outCode s c t.fmt))))

/-- The scores of a chunk as the rib stores them: P′ over s_A, or dA. -/
def storeScore (s : State) (c : Cmd) (k : Compute) (e : ScanEnv) (r : ScanRun) (f : Format) (so : Word) (sy : List (Bool × Word)) (by_ : Word) (t : Tile) :
    List (List Nat) × Sticky :=
  let n := t.rowsIn
  let b := drainTile (factorOf so sy).1 n n t.matrix
  let p := toCodes s c f (overScale by_ (decayed e (r.now k) b.1))
  (p.1, b.2.or p.2)

/-- P′ drains into its slot; its values in bounds are gathered (R213). -/
def drainP (s : State) (c : Cmd) (k : Compute) (a : Nat) (w : Work) (r : ScanRun) (e : ScanEnv) (t : Tile) : State × Option Unit :=
  if !(s.ringAt (w.ring ringP)).open_ then (s, none) else
  let p := storeScore s c k e r e.fv e.sq [(false, e.sk)] e.sa t
  let s := gather s c.id k.sideSlot (k.scale k.sideSlot) (c.ref 8).fmt e.fv.is8 ((crop t.rowsIn t.rowsIn p.1).flatten.map (widenTo32 e.fv)) p.2
  (setScan (ribWrites s (w.ring ringP) e.fv p.1) a w { r with stage := due (if r.back then scanA else scanO) }, some ())

def drainA (s : State) (c : Cmd) (k : Compute) (a : Nat) (w : Work) (r : ScanRun) (e : ScanEnv) (t : Tile) : State × Option Unit :=
  if !(s.ringAt (w.ring ringDs)).open_ then (s, none) else
  let p := storeScore s c k e r e.fk e.so [(false, e.sv)] e.sda t
  (setScan (ribWrites (raiseFlags s p.2) (w.ring ringDs) e.fk p.1) a w { r with stage := due scanCopy }, some ())

/-- A head is complete (R218, R305). -/
def scanEnd (s : State) (c : Cmd) (a : Nat) (w : Work) (r : ScanRun) : State :=
  let bad := badGate r.gates
  let s := leaveRings (s.setArray a { s.array a with acc1 := none, latch := none, work := none }) a w
  let s := mapWork s c.id (fun k => { k with
    nanRows := k.nanRows ++ badRows c w.item bad, firstBad := firstOf k.firstBad (bad.map (w.item * c.queries + ·)) })
  endWork (itemDone s c.id w.item (chunkCount c) a) c.id

/-- The final state in real units (R217). -/
def writeFinal (s : State) (c : Cmd) (k : Compute) (a : Nat) (w : Work) (r : ScanRun) (e : ScanEnv) (t : Tile) : State × Option Unit :=
  let at_ := (k.argRef 10).addr
  if at_ = 0 then (s, some ()) else
  let fin := t.vals.map (fun x => if (badGate r.gates).isSome then nanWord else f32Mul (f32Mul x (f32Mul e.sk e.sv)) r.f)
  let bytes := 4 * e.d * e.d
  andThen (placeAll s c (agentOf a) 12 [(at_ + bytes * w.item, bytes)]) (fun s ps => makeOut s c (agentOf a) 12 ps [wordBytes fin])

/-- A copy of tile 1 drains: a snapshot, into its slot as the operand of the next products, or to scan_scratch (R215, R221, R222); after the
last chunk of SCAN_FWD, the final state. -/
def drainCopy (s : State) (c : Cmd) (k : Compute) (a : Nat) (w : Work) (r : ScanRun) (e : ScanEnv) (t : Tile) : State × Option Unit :=
  let sn := snapshot s c e t.matrix
  let id := w.ring ringPPlain
  let keep (r : ScanRun) : State × Option Unit :=
    if !(s.ringAt id).open_ then (s, none) else (setScan (ribWrites (raiseFlags s sn.2) id e.fs sn.1) a w r, some ())
  if r.back then keep { r with stage := due scanDq }
  else if isBwd c then
    andThen (writeVa s c (agentOf a) 2 (slewedWrites (snapAt c k e w.item r.chunk) (e.d * e.fs.bytes) (sn.1.map (codeBytes e.fs)))) (fun s _ =>
      (setScan (raiseFlags s sn.2) a w { r with factors := r.factors ++ [r.f], stage := due scanState }, some ()))
  else if !r.ready then keep { r with ready := true, stage := due scanP }
  else if r.chunk + 1 < chunkCount c then keep { r with chunk := r.chunk + 1, stage := due scanP }
  else andThen (writeFinal s c k a w r e t) (fun s _ => (scanEnd (raiseFlags s sn.2) c a w r, some ()))

/-- O, dQ, dK or dV of a chunk drains and is written. -/
def drainRows (s : State) (c : Cmd) (a : Nat) (w : Work) (r : ScanRun) (t : Tile) (o : Ten) (x : Word) (fs : List (Bool × Word)) :
    State × Option (List (List Word)) :=
  let m := drainTile (factorOf x fs).1 t.rowsIn t.colsIn t.matrix
  andThen (writeChunk s c a o w.item r t.rowsIn m.1) (fun s _ => (raiseSlotFlags s t.slot m.2, some m.1))

/-- R223: dG of the tokens of a chunk, in descending order, from the dQ and dK rows in real units; the sum of the token after it, and the
tokens with their values. -/
def chunkDG (c : Cmd) (k : Compute) (e : ScanEnv) (r : ScanRun) (q kk : List (List Nat)) (fq fk : Format) (dq dk : List (List Word)) :
    List (Nat × Word) × Word :=
  let sq := k.scale (k.argRef 10).slot
  let sk := k.scale (k.argRef 12).slot
  let n := (r.now k).count
  let real (f : Format) (x : Word) (m : List (List Nat)) (i : Nat) : List Word := (m.getD i []).map (fun v => f32Mul (widenTo32 f v) x)
  (List.range n).reverse.foldl (fun (t : List (Nat × Word) × Word) i =>
    let tok := 128 * r.chunk + i
    let x := (real fq e.sq q i).zip ((dq.getD i []).map (f32Mul · sq))
    let y := (real fk e.sk kk i).zip ((dk.getD i []).map (f32Mul · sk))
    let db := (x.zip y).foldl (fun acc p => f32Fma (f32Neg p.2.1) p.2.2 (f32Fma p.1.1 p.1.2 acc)) 0
    let ends := tok + 1 == c.queries || (bit k.mask 2 && k.docs.contains (tok + 1))
    let dg := if ends then db else f32Add db t.2
    ((tok, dg) :: t.1, dg)) ([], r.carry)

/-- dK drains, and dG of the chunk with it. -/
def drainDk (s : State) (c : Cmd) (k : Compute) (a : Nat) (w : Work) (r : ScanRun) (e : ScanEnv) (t : Tile) : State × Option Unit :=
  andThen (nextSlots s c a {} [w.ring ringLeft, w.ring ringRight]) (fun s xs =>
    let x := xs.getD 0 {}
    let y := xs.getD 1 {}
    let dk := (drainTile (factorOf e.sda [(false, e.sq), (true, k.scale (k.argRef 12).slot)]).1 t.rowsIn t.colsIn t.matrix).1
    let g := chunkDG c k e r x.codes y.codes x.fmt y.fmt r.dq dk
    let gs := g.1.map (fun p => (w.item * c.queries + p.1, if afterBad (badGate r.gates) p.1 then nanWord else p.2))
    andThen (placeAll s c (agentOf a) 12 (densePlaces (tDG c k) (gs.map (·.1)))) (fun s ps =>
    andThen (drainRows s c a w r t (tDK c k) e.sda [(false, e.sq), (true, k.scale (k.argRef 12).slot)]) (fun s _ =>
    andThen (commitDense s c (agentOf a) (tDG c k) ps (gs.map (·.2))) (fun s _ =>
      (setScan s a w { r with carry := g.2, stage := due scanDv }, some ())))))

/-- A tile of a scan drains. -/
def scanDrained (s : State) (c : Cmd) (a : Nat) (w : Work) (r : ScanRun) (t : Tile) : State × Option Unit :=
  let k := workOf c
  let e := scanEnv s c k a
  if t.block = scanP then drainP s c k a w r e t
  else if t.block = scanA then drainA s c k a w r e t
  else if t.block = scanCopy then drainCopy s c k a w r e t
  else if t.block = scanO then
    andThen (drainRows s c a w r t (tO c k) e.sa [(false, e.sv), (true, e.so)]) (fun s _ => (setScan s a w { r with stage := due scanState }, some ()))
  else if t.block = scanDq then
    andThen (drainRows s c a w r t (tDQ c k) e.sda [(false, e.sk), (true, k.scale (k.argRef 10).slot)]) (fun s m =>
      (setScan s a w { r with dq := m, stage := due scanDk }, some ()))
  else if t.block = scanDk then drainDk s c k a w r e t
  else
    andThen (drainRows s c a w r t (tDV c k) e.sa [(false, e.so), (true, k.scale (k.argRef 14).slot)]) (fun s _ =>
      if r.chunk = 0 then (scanEnd s c a w r, some ())
      else (setScan s a w { r with stage := due scanState }, some ()))

/-! ### The commands -/

/-- The flags of the drain factors of a scan, evaluated as it starts (R126): each with the slot of its output. -/
def scanStart (s : State) (c : Cmd) (k : Compute) : State :=
  let e := scanEnv s c k 0
  let f (x : Word) (l : List (Bool × Word)) : Sticky := (factorOf x l).2
  let s := raiseFlags s (f e.sq [(false, e.sk), (true, e.sa)])
  let s := raiseSlotFlags s k.sideSlot (f e.sq [(false, e.sk)])
  let s :=
    if isBwd c then
      let s := raiseFlags s ((f e.so [(false, e.sv)]).or (f e.sa [(false, e.so), (false, e.sv), (true, e.sq), (true, e.sk)]))
      let s := raiseSlotFlags s (k.argRef 10).slot (f e.sda [(false, e.sk), (true, k.scale (k.argRef 10).slot)])
      let s := raiseSlotFlags s (k.argRef 12).slot (f e.sda [(false, e.sq), (true, k.scale (k.argRef 12).slot)])
      raiseSlotFlags s (k.argRef 14).slot (f e.sa [(false, e.so), (true, k.scale (k.argRef 14).slot)])
    else raiseSlotFlags s (c.ref 10).slot (f e.sa [(false, e.sv), (true, e.so)])
  startWork s c k

/-- SCAN_FWD (R212). -/
def execScanFwd (q : Nat) (s : State) : Out := startOrPoll s q Op.scanFwd (planGo scanStart)
/-- SCAN_BWD (R220). -/
def execScanBwd (q : Nat) (s : State) : Out := startOrPoll s q Op.scanBwd (planGo scanStart)

end Sys2Proof.Machine
end

