-- ==== Sys2Proof/Machine/Backward.lean ====
section
/-! DEFINITION. The attention backward pass (R195 to R211, R448): the D pass, key bands, the dQ partials and the dQ finish, for ATTN_BWD
and for the steps of a ring sweep with bwd set. The eight arrays of a band group run its periods, each at the pace of its slots. -/

namespace Sys2Proof.Machine

/-! ### What a band works on -/

/-- A key band of a work item: its group, its number in the group, the positions, and the sources of K and V. `ring` when the rows of dQ
lie in a state buffer. -/
structure BandJob where
  group : Nat := 0
  band : Nat := 0
  dir : Nat := 0
  keys : Nat := 0
  ring : Option Ring := none
  qPos : Ramp := {}
  kPos : Ramp := {}
  kSrc : Src := .raw 0 .e4m3 0 0
  vSrc : Src := .raw 0 .e4m3 0 0
  deriving DecidableEq, Repr

/-- Key bands of one group (R199, R200). -/
def bandCount (c : Cmd) : Nat := cdiv c.keysIn 512

def bandJob (s : State) (c : Cmd) (k : Compute) (item : Nat) : BandJob :=
  let nb := bandCount c
  match ringOf c with
  | none =>
    let g := item / nb
    { group := g, band := item % nb, keys := c.keysIn, qPos := { base := (c.keysIn : Int) - c.queries }, kSrc := .ten (tK c k) g, vSrc := .ten (tV c k) g }
  | some r =>
    let e := ringEntry s r.ring
    let per := k.groups * nb
    let dir := itemDir e r.step per item
    let g := item % per / nb
    let base := shardBuffer e c k true dir r.step
    let fk := fmtOf (c.ref 6).fmt
    let fv := fmtOf (c.ref 8).fmt
    { group := g, band := item % nb, dir := dir, keys := c.keysIn, ring := some r, qPos := ringRamp e (ringPosition e),
      kPos := ringRamp e (shardOwner e dir r.step),
      kSrc := if r.step = 0 then .ten (tK c k) g else .raw (base + g * c.keysIn * k.dim * fk.bytes) fk k.dim c.keysIn,
      vSrc := if r.step = 0 then .ten (tV c k) g else .raw (base + shardKBytes c k + g * c.keysIn * k.dim * fv.bytes) fv k.dim c.keysIn }

/-- The key blocks of a band. -/
def BandJob.blocks (j : BandJob) : List Nat := (upTo (4 * j.band) 4).filter (fun b => 128 * b < j.keys)

/-- A row and a key are in bounds and unmasked. -/
def BandJob.sees (j : BandJob) (c : Cmd) (k : Compute) (i key : Nat) : Bool :=
  i < c.queries && key < j.keys && unmaskedAt k (j.qPos.at i) (j.kPos.at key)

/-- R182: a query block and a key block have an unmasked element. -/
def BandJob.pair (j : BandJob) (c : Cmd) (k : Compute) (qb kb : Nat) : Bool :=
  (List.range 128).any (fun i => (List.range 128).any (fun x => j.sees c k (128 * qb + i) (128 * kb + x)))

def queryBlocks (c : Cmd) : Nat := cdiv c.queries 128

/-- The band periods (R200): heads of the group ascending, query blocks ascending, without those that every pair skips. -/
def BandJob.periods (j : BandJob) (c : Cmd) (k : Compute) : List (Nat × Nat) :=
  ((List.range k.gqa).map (fun h => (List.range (queryBlocks c)).map (fun qb => (h, qb)))).flatten.filter
    (fun p => j.blocks.any (j.pair c k p.2))

/-! ### Rows of dQ (R204, R447, R448) -/

/-- R447: bytes of one state buffer. -/
def stateBytes (c : Cmd) (k : Compute) : Nat := c.queries * k.heads * (k.dim + 2) * 4

/-- A place in the scratch, or a device-physical one in a state buffer. -/
def areaLoc (s : State) (c : Cmd) (phys : Bool) (addr : Nat) : Loc := if phys then .phys addr else .virt (ctxOf s c) addr

/-- The buffer of a group. -/
def bufferOf (k : Compute) (g : Nat) : Nat := tget 0 k.buffers g

/-- The address of the words of a row: head `h` of the group, row `i`. -/
def dqRow (s : State) (c : Cmd) (k : Compute) (j : BandJob) (h i : Nat) : Nat :=
  match j.ring with
  | some r => stateArea (ringEntry s r.ring) + r.step % 2 * stateBytes c k + ((j.group * k.gqa + h) * c.queries + i) * (k.dim + 2) * 4
  | none => k.scratch + bufferOf k j.group * groupBytes c k + (h * c.queries + i) * (k.dim + 2) * 4

/-- Words of rows, read. -/
def readWords (s : State) (c : Cmd) (agent : Nat) (phys : Bool) (addr n : Nat) : State × Option (List Word) :=
  andThen (readAt s c agent 2 (areaLoc s c phys addr) (4 * n)) (fun s bs => (s, some (wordsOf bs)))

/-! ### The elements of a pair of blocks (R198, R208) -/

/-- R198: an unmasked element is in range. -/
def bwdInRange (sc l : Word) : Bool :=
  finiteWord sc && finiteWord l && ((fpVal sc).sub (fpVal l)).le (Dy.ofInt 1)

/-- The constants of the elements of a head. -/
structure ElemEnv where
  seeds : Seeds := []
  pf : Format := .e4m3
  dsf : Format := .e4m3
  ds : Word := 0x3F800000#32
  keep : Word := 0x3F800000#32
  threshold : Nat := 0
  seed : DWord := 0
  seq : Nat := 0
  head : Nat := 0
  deriving DecidableEq, Repr

/-- R198: the stored P of an unmasked element, with the dropout mask or without. -/
def ElemEnv.code (e : ElemEnv) (drop : Bool) (p : Word) : Nat :=
  let v := (fpVal p).scale (tP e.pf)
  if drop then 0 else (narrowFinite e.pf .rne false false v.m.natAbs v.e).1

def ElemEnv.drops (e : ElemEnv) (pq pk : Int) : Bool := e.threshold != 0 && dropped e.seed e.seq e.head e.threshold pq pk

/-- R208: the stored dS of an unmasked element from its FP32 p. -/
def bwdElement (s : State) (c : Cmd) (e : ElemEnv) (pq pk : Int) (p dp d : Word) : Nat × Sticky :=
  let x := f32Mul (f32Mul e.keep (if e.drops pq pk then 0 else one32)) dp
  outCode s c e.dsf (f32Div (f32Mul p (f32Sub x d)) e.ds)

/-- What the rib of A_j makes of a tile Sᵀ, by keys and queries: P, P without the dropout mask, the FP32 p, and the rows out of range. -/
structure BandP where
  codes : List (List Nat) := []
  plain : List (List Nat) := []
  probs : List (List Word) := []
  bad : List Nat := []
  deriving DecidableEq, Repr

/-- The cells of a tile of keys by queries, with their key and query. -/
def bandCells (qb kb : Nat) (m : List (List Word)) : List (List (Word × Nat × Nat)) :=
  (m.zip (upTo (128 * kb) 128)).map (fun r => (r.1.zip (upTo (128 * qb) 128)).map (fun x => (x.1, r.2, x.2)))

/-- P of a query block and a key block; an element out of range has p = 0 (R199). -/
def bandP (c : Cmd) (k : Compute) (j : BandJob) (e : ElemEnv) (qb kb : Nat) (m : List (List Word)) (ls : List Word) : BandP :=
  let cell (x : Word × Nat × Nat) : (Nat × Nat) × Word × Bool :=
    let key := x.2.1
    let i := x.2.2
    let l := ls.getD (i - 128 * qb) 0
    if !j.sees c k i key then ((0, 0), 0, false)
    else if !bwdInRange x.1 l then ((0, 0), 0, true)
    else
      let p := (expOp e.seeds (f32Sub x.1 l)).1
      ((e.code (e.drops (j.qPos.at i) (j.kPos.at key)) p, e.code false p), p, false)
  let cells := (bandCells qb kb m).map (fun r => r.map cell)
  { codes := cells.map (fun r => r.map (·.1.1)), plain := cells.map (fun r => r.map (·.1.2)), probs := cells.map (fun r => r.map (·.2.1)),
    bad := (List.range 128).filter (fun i => cells.any (fun r => (r.getD i ((0, 0), 0, false)).2.2)) }

/-- dS of a query block and a key block, from the drained dPᵀ, the p that the rib of A_j passes on, and D; none where masked. -/
def bandDs (s : State) (c : Cmd) (k : Compute) (j : BandJob) (e : ElemEnv) (qb kb : Nat) (m : List (List Word)) (probs : List (List Word))
    (ds : List Word) : List (List (Option (Nat × Sticky))) :=
  ((bandCells qb kb m).zip (upTo 0 128)).map (fun r => r.1.map (fun x =>
    let i := x.2.2
    if j.sees c k i x.2.1 then
      some (bwdElement s c e (j.qPos.at i) (j.kPos.at x.2.1) ((probs.getD r.2 []).getD (i - 128 * qb) 0) x.1 (ds.getD (i - 128 * qb) 0))
    else none))

/-- The formats and drain factors of R207. -/
structure BwdEnv where
  fq : Format := .e4m3
  fk : Format := .e4m3
  fv : Format := .e4m3
  fo : Format := .e4m3
  fS : Word := 0x3F800000#32
  fP : Word := 0x3F800000#32
  fDv : Word := 0x3F800000#32
  fDk : Word := 0x3F800000#32
  fDq : Word := 0x3F800000#32
  flags : List Sticky := []
  deriving DecidableEq, Repr

def bwdEnv (c : Cmd) (k : Compute) : BwdEnv :=
  let sc (i : Nat) := k.scale (c.ref i).slot
  let tau := k.scale k.midSlot
  let sds := k.scale k.sideSlot
  let a := factorOf (sc 4) [(false, sc 6), (true, tau)]
  let b := factorOf (sc 10) [(false, sc 8)]
  let v := factorOf (keepOf c k) [(false, pow2Word (-(tP (fmtOf k.pFmt)))), (false, sc 10), (true, k.scale (k.argRef 14).slot)]
  let kk := factorOf sds [(false, sc 4), (true, tau), (true, k.scale (k.argRef 12).slot)]
  let q := factorOf sds [(false, sc 6), (true, tau), (true, k.scale (k.argRef 10).slot)]
  { fq := fmtOf (c.ref 4).fmt, fk := fmtOf (c.ref 6).fmt, fv := fmtOf (c.ref 8).fmt, fo := fmtOf (c.ref 10).fmt, fS := a.1, fP := b.1,
    fDv := v.1, fDk := kk.1, fDq := q.1, flags := [a.2, b.2, v.2, kk.2, q.2] }

/-- L of the rows of a query block of a head. -/
def readL (s : State) (c : Cmd) (k : Compute) (a : Nat) (j : BandJob) (h qb : Nat) : State × Option (List Word) :=
  let head := j.group * k.gqa + h
  andThen (readVa s c (agentOf a) 12 ((k.argRef 0).addr + 4 * (head * c.queries + 128 * qb)) (4 * within (128 * qb) 128 c.queries))
    (fun s bs => (s, some (wordsOf bs)))

/-- D of the rows of a query block of a head. -/
def readD (s : State) (c : Cmd) (k : Compute) (a : Nat) (j : BandJob) (h qb : Nat) : State × Option (List Word) :=
  andThen (collectAll s (fun s i => readWords s c (agentOf a) j.ring.isSome (dqRow s c k j h (128 * qb + i) + 4 * k.dim) 1)
    (List.range (within (128 * qb) 128 c.queries))) (fun s ds => (s, some ds.flatten))

def elemEnv (s : State) (c : Cmd) (k : Compute) (a head : Nat) : ElemEnv :=
  { seeds := (s.ribOf a).seeds, pf := fmtOf k.pFmt, dsf := fmtOf k.dsFmt, ds := k.scale k.sideSlot, keep := keepOf c k,
    threshold := dropThreshold c, seed := dropSeed c, seq := dropSeq s c, head := head }

/-! ### D_PASS (R205) -/

/-- A command of the backward kind whose work is in hand. -/
def bwdCmd (s : State) (id : Nat) : Option (Cmd × Compute) :=
  match s.cmd? id with
  | some c => if s.running && c.status.isNone && c.stop.isNone && (computeOf c.run).isSome && stepKind c == Op.attnBwd then some (c, workOf c) else none
  | none => none

/-- D of one row: fl(s_dO × s_O) times the sum of products by fused multiply-add in ascending element order. -/
def rowD (c : Cmd) (k : Compute) (o d : List Nat) : Word :=
  let fo := (tOin c k).fmt
  let fd := (tO c k).fmt
  let dot := (d.zip o).foldl (fun acc p => f32Fma (widenTo32 fd p.1) (widenTo32 fo p.2) acc) 0#32
  f32Mul (f32Mul (k.scale (c.ref 10).slot) (k.scale (k.argRef 8).slot)) dot

/-- The streamer that serves the ribs of a D pass and a dQ finish (log 123): that of the lowest online array. -/
def passAgent (s : State) : Nat := agentOf ((onlineArrays s).headD 0)

/-- The rows of a group as the D pass leaves them: zeros, D, and a clear status word. -/
def dPassRow (s : State) (c : Cmd) (k : Compute) (j : BandJob) (h i : Nat) : State × Option (Loc × List Byte) :=
  let head := j.group * k.gqa + h
  andThen (readRow s c (passAgent s) (tOin c k) head 0 k.dim i) (fun s o =>
  andThen (readRow s c (passAgent s) (tO c k) head 0 k.dim i) (fun s d =>
    (s, some (areaLoc s c j.ring.isSome (dqRow s c k j h i), wordBytes (List.replicate k.dim 0#32 ++ [rowD c k o d, 0#32])))))

/-- All rows of a group. -/
def dPassGroup (s : State) (c : Cmd) (k : Compute) (j : BandJob) : State × Option (List (Loc × List Byte)) :=
  collectAll s (fun s p => dPassRow s c k j (p / c.queries) (p % c.queries)) (List.range (k.gqa * c.queries))

/-- The claim bitmap of a group (R311), directly after its two buffers; of a ring sweep, one to each group and direction, after the two
state buffers (R448, log 77). -/
def claimsAt (s : State) (c : Cmd) (k : Compute) (j : BandJob) : Nat :=
  match j.ring with
  | some r => stateArea (ringEntry s r.ring) + 2 * stateBytes c k + (j.dir * k.groups + j.group) * claimBytes c k
  | none => k.scratch + 2 * groupBytes c k + bufferOf k j.group * claimBytes c k

/-- The cleared bitmap of a group; of a ring step, those of all groups and both directions. -/
def clearClaims (s : State) (c : Cmd) (k : Compute) (j : BandJob) : Loc × List Byte :=
  (areaLoc s c j.ring.isSome (claimsAt s c k j), List.replicate ((if j.ring.isSome then 2 * k.groups else 1) * claimBytes c k) 0#8)

/-- The lowest group whose D pass is to come, and its buffer, when one of the two is free (R206). -/
def nextGroup (c : Cmd) (k : Compute) : Option (Nat × Nat) :=
  let open_ := (List.range k.groups).find? (fun g =>
    !k.buffers.any (fun p => p.1 == g) && !k.done.any (fun i => i / bandCount c == g))
  let free := ([0, 1] : List Nat).find? (fun b => !k.buffers.any (fun p => p.2 == b))
  match open_, free with
  | some g, some b => some (g, b)
  | _, _ => none

/-- The D pass of one group, or of all groups of a ring sweep (R205, R311). -/
def dPassWrites (s : State) (c : Cmd) (k : Compute) (gs : List Nat) (r : Option Ring) : State × Option Unit :=
  andThen (collectAll s (fun s g => dPassGroup s c k { group := g, ring := r }) gs) (fun s ws =>
    writeAt s c (passAgent s) 2 (ws.flatten ++ [clearClaims s c k { group := gs.headD 0, ring := r }]))

/-- A later step of a backward sweep takes over the rows of the step before, with its claims cleared (R447, R448). -/
def carryRows (s : State) (c : Cmd) (k : Compute) (r : Ring) : State × Option Unit :=
  let row (x : Ring) (i : Nat) : Nat := dqRow s c k { ring := some x } (i / c.queries) (i % c.queries)
  andThen (collectAll s (fun s i => andThen (readAt s c (passAgent s) 2 (.phys (row { r with step := r.step - 1 } i)) (4 * (k.dim + 2))) (fun s bs =>
      (s, some (Loc.phys (row r i), bs)))) (List.range (k.heads * c.queries))) (fun s ws =>
    writeAt s c (passAgent s) 2 (ws ++ [clearClaims s c k { ring := some r }]))

/-- D_PASS (R205). A ring sweep makes one for all its groups before its first band, and in a later step takes over what the last one left. -/
def execDPass (id : Nat) (s : State) : Out :=
  match bwdCmd s id with
  | none => .next s
  | some (c, k) =>
    match ringOf c with
    | some r =>
      if r.ready then .next s else
      match fetchDone id (passAgent s) (if r.step = 0 then dPassWrites s c k (List.range k.groups) (some r) else carryRows s c k r) with
      | (s, none) => .next s
      | (s, some ()) => .next (s.mapCmd id (fun c => { c with run := .ring { r with ready := true } }))
    | none =>
      match nextGroup c k with
      | none => .next s
      | some (g, b) =>
        let k' := { k with buffers := k.buffers ++ [(g, b)] }
        match fetchDone id (passAgent s) (dPassWrites s c k' [g] none) with
        | (s, none) => .next s
        | (s, some ()) => .next (mapWork s id (fun k => { k with buffers := k.buffers ++ [(g, b)] }))

/-! ### A band starts (R200, R203, R206) -/

/-- The next work item: the redo list before the counter, the lowest number first (R303). -/
def nextItem (k : Compute) : Option Nat :=
  match k.redo with
  | r :: rs => some (rs.foldl min r)
  | [] => if k.counter < k.items then some k.counter else none

/-- The item is taken. -/
def takeItem (s : State) (id item : Nat) : State :=
  let now := s.cp.time
  let s := s.mapCmd id (fun c => if (workOf c).issued then c else { c with tFirst := now, tLast := now })
  mapWork s id (fun k => { k with
    redo := k.redo.filter (· != item), counter := if k.redo.contains item then k.counter else k.counter + 1, assigned := item :: k.assigned,
    issued := true })

/-- R203: the band groups, eight by eight, of the online arrays that hold 128 × 128 tiles. -/
def bandGroups (s : State) (c : Cmd) (k : Compute) : List (List Nat) :=
  let f := famIn s c k
  (chunksOf 8 ((List.range 32).filter (fun a => arrayHolds (s.array a) c k f && (s.array a).bypassed == 0))).filter (fun g => g.length == 8)

/-- An array free for a band or another item, in form 0, with the step's programs where it has any. -/
def arrayFree (s : State) (a : Nat) (id : Nat) (k : Compute) (form : Nat) : Bool :=
  let x := s.array a
  !x.busy && !x.held && x.reforming.isNone && !x.retiring && x.current == form && (k.points.isEmpty || (s.ribOf a).hasBank id)

/-- The query head of a period. -/
def BandJob.headOf (j : BandJob) (k : Compute) (p : Nat × Nat) : Nat := j.group * k.gqa + p.1

/-- The rows of Q and of dO of a period. -/
def queryTile (ctx : Nat) (k : Compute) (j : BandJob) (t : Ten) (p : (Nat × Nat) × Nat) : OpTile :=
  let qb := p.1.2
  ((srcTile ctx (.ten t (j.headOf k p.1)) (128 * qb) 128 0 k.dim).at_ p.2
    { rows := 128, cols := k.dim, rowBase := 128 * qb, queryPos := j.qPos.from_ (128 * qb), head := j.headOf k p.1 }).slew

/-- K or V of a key block. -/
def keyTile (ctx : Nat) (k : Compute) (j : BandJob) (src : Src) (kb : Nat) : OpTile :=
  ((srcTile ctx src (128 * kb) 128 0 k.dim).at_ kb
    { rows := 128, cols := k.dim, rowBase := 128 * kb, keyPos := j.kPos.from_ (128 * kb), turned := true, head := j.group * k.gqa }).slew

/-- The slots that ribs write: P and dS of a pair, by keys and queries. -/
def pairTile (f : Format) (kb : Nat) : OpTile := { block := kb, view := { rows := 128, cols := 128, rowsIn := 128, colsIn := 128, fmt := f, slewed := true } }

/-- The reader of dS slots that stands for the dQ tiles of a band group, none of the arrays. -/
abbrev dqReader : Nat := 32

/-- The rings of a band (R200, R201): of each pair its resident K and V, P, the undropped P with dropout on, and dS; of the group Q and dO
for the arrays A and for the arrays B. -/
def bandRings (s : State) (c : Cmd) (k : Compute) (arrays : List Nat) (j : BandJob) : List RingSpec :=
  let ctx := ctxOf s c
  let ps := j.periods c k
  let pairs := (List.range 4).filter (fun i => j.blocks.contains (4 * j.band + i))
  let drop := dropThreshold c != 0
  let stream (n : Nat) (members : List Nat) (point : Option Nat) (t : Ten) : RingSpec :=
    { number := n, members := members, depth := 8, point := point, tiles := (ps.zip (upTo 0 ps.length)).map (queryTile ctx k j t) }
  let own (i : Nat) : List RingSpec :=
    let kb := 4 * j.band + i
    let a := arrays.getD (2 * i) 0
    let b := arrays.getD (2 * i + 1) 0
    let n := (ps.filter (fun p => j.pair c k p.2 kb)).length
    let made (r depth : Nat) (f : Format) (ms : List Nat) : RingSpec :=
      { number := r, members := ms, depth := depth, tiles := List.replicate n (pairTile f kb) }
    [{ number := ringLeft, members := [a, b], depth := 1, point := some 1, tiles := [keyTile ctx k j j.kSrc kb] },
     { number := ringRight, members := [a, b], depth := 1, tiles := [keyTile ctx k j j.vSrc kb] },
     made ringP 3 (fmtOf k.pFmt) (if drop then [a] else [a, b]), made ringDs 4 (fmtOf k.dsFmt) [b, dqReader]] ++
    (if drop then [made ringPPlain 3 (fmtOf k.pFmt) [b]] else [])
  let as := pairs.map (fun i => arrays.getD (2 * i) 0)
  let bs := pairs.map (fun i => arrays.getD (2 * i + 1) 0)
  (pairs.map own).flatten ++
  [stream ringValue as (some 0) (tQ c k), stream ringDo as none (tO c k), stream ringValue bs (some 0) (tQ c k), stream ringDo bs none (tO c k)]

/-- The rings of an array of a pair: its own, and those that the ribs of the pair write. -/
def bandRingsOf (a b : Nat) (l : List (RingSpec × Nat)) : List (Nat × Nat) :=
  (l.filter (fun p => p.1.members.contains a || (ringP ≤ p.1.number && p.1.number ≤ ringDs && p.1.members.contains b))).foldl
    (fun t p => tput t p.1.number p.2) []

/-- Tile 1 of a band's array: dV on A_j, dK on B_j, at +0 (R144). -/
def bandTile (c : Cmd) (k : Compute) (j : BandJob) (item : Nat) (isK : Bool) (kb : Nat) : Tile :=
  let t : Tile := { cmd := c.id, item := item, role := roleHeld, block := 2 * kb + b2n isK, rows := 128, cols := k.dim,
                    rowsIn := within (128 * kb) 128 j.keys, colsIn := k.dim, slot := (k.argRef (if isK then 12 else 14)).slot }
  t.ofMatrix (zeroTile 128 k.dim)

/-- The array at a place of a group takes its part in a band: the member of place p mod 8 forms the dQ tile of period p - 4 (R200). A pair without a key block has no work but its turns at the dQ tiles. -/
def placeBand (c : Cmd) (k : Compute) (item : Nat) (arrays : List Nat) (j : BandJob) (l : List (RingSpec × Nat)) (periods : Nat)
    (s : State) (i : Nat) : State :=
  let a := arrays.getD i 0
  let kb := 4 * j.band + i / 2
  let isK := i % 2 == 1
  let idle := !j.blocks.contains kb
  let r : BandRun := { pair := i / 2, isK := isK, dq := (i + 4) % 8, next := if idle then periods else 0, acc := if idle then periods else 0 }
  s.setArray a { s.array a with
    acc1 := if idle then none else some (bandTile c k j item isK kb),
    work := some { cmd := c.id, item := item, rings := bandRingsOf a (arrays.getD (i - i % 2 + 1 - i % 2) 0) l, band := some r } }

/-- A band starts on a free group: its rings open, and it counts the pairs that it computes. -/
def startBand (s : State) (c : Cmd) (k : Compute) (item : Nat) (arrays : List Nat) : State × Option Unit :=
  let j := bandJob s c k item
  let ps := j.periods c k
  andThen (openRings s c k (bandRings s c k arrays j)) (fun s l =>
    let s := (List.range 8).foldl (placeBand c k item arrays j l ps.length) (takeItem s c.id item)
    (mapWork s c.id (fun k => { k with
      bands := k.bands ++ [⟨item, arrays, ps, sumNat (ps.map (fun p => (j.blocks.filter (j.pair c k p.2)).length))⟩] }), some ()))

/-! ### The periods of a band (R200, R201) -/

/-- The part of an array in a band: its command, work and part, and the band. -/
def bandOf (s : State) (a : Nat) : Option (Cmd × Work × BandRun × Band) :=
  match (s.array a).work with
  | some w =>
    match w.band, s.cmd? w.cmd with
    | some r, some c => ((workOf c).bands.find? (fun b => b.item == w.item)).map (fun b => (c, w, r, b))
    | _, _ => none
  | none => none

def runOf (s : State) (a : Nat) : BandRun := (((s.array a).work.bind (·.band))).getD {}
def ringOfArray (s : State) (a r : Nat) : Nat := match (s.array a).work with | some w => w.ring r | none => 0

def setBandRun (s : State) (a : Nat) (f : BandRun → BandRun) : State :=
  let x := s.array a
  s.setArray a { x with work := x.work.map (fun w => { w with band := w.band.map f }) }

/-- The key block of a part. -/
def BandJob.blockOf (j : BandJob) (r : BandRun) : Nat := 4 * j.band + r.pair

/-- The next product of tile 0: Sᵀ = K·Qᵀ on A_j, dPᵀ = V·dOᵀ on B_j. A period that the pair skips is passed over. -/
def bandScore (s : State) (c : Cmd) (k : Compute) (j : BandJob) (a : Nat) (w : Work) (r : BandRun) (p : Nat × Nat) (f : Finding) : State :=
  let q := w.ring (if r.isK then ringDo else ringValue)
  let kb := j.blockOf r
  let on (s : State) : State := setBandRun (markRead s a q) a (fun r => { r with next := r.next + 1 })
  if !j.pair c k p.2 kb then (if (s.ringAt q).nextReady a then on s else s) else
  match nextSlots s c a f [w.ring (if r.isK then ringRight else ringLeft), q] with
  | (s, some [x, y]) =>
    let kin := within (128 * kb) 128 j.keys
    let qin := within (128 * p.2) 128 c.queries
    let m := tileProduct 0 x.fmt y.fmt x.codes y.codes (zeroTile 128 128) kin qin
    let t : Tile := { cmd := c.id, item := w.item, role := roleBand, block := r.next, rows := 128, cols := 128, rowsIn := kin, colsIn := qin,
                      slot := if r.isK then k.sideSlot else 0 }
    on (raiseSlotFlags (s.setArray a { s.array a with acc0 := some (t.ofMatrix m.1) }) t.slot m.2)
  | (s, _) => s

/-- The next product of tile 1: dV += Pᵀ·dO on A_j, dK += dSᵀ·Q on B_j. -/
def bandAccumulate (s : State) (c : Cmd) (k : Compute) (j : BandJob) (a : Nat) (w : Work) (r : BandRun) (p : Nat × Nat) (f : Finding) : State :=
  let q := w.ring (if r.isK then ringValue else ringDo)
  let pr := w.ring (if r.isK then ringDs else ringP)
  let on (s : State) : State := setBandRun (markRead s a q) a (fun r => { r with acc := r.acc + 1 })
  if !j.pair c k p.2 (j.blockOf r) then (if (s.ringAt q).nextReady a then on s else s) else
  match nextSlots s c a f [pr, q], (s.array a).acc1 with
  | (s, some [x, y]), some t =>
    let m := tileProduct 0 x.fmt y.fmt x.codes (transpose k.dim 0 y.codes) t.matrix t.rowsIn t.colsIn
    on (markRead (raiseSlotFlags (s.setArray a { s.array a with acc1 := some (t.ofMatrix m.1) }) t.slot m.2) a pr)
  | (s, _), _ => s

/-- The arrays B_j of the pairs that do not skip a query block, each with its key block. -/
def dqPairs (c : Cmd) (k : Compute) (j : BandJob) (b : Band) (qb : Nat) : List (Nat × Nat) :=
  ((List.range 4).filter (fun i => j.blocks.contains (4 * j.band + i) && j.pair c k qb (4 * j.band + i))).map
    (fun i => (b.arrays.getD (2 * i + 1) 0, 4 * j.band + i))

/-- The dQ tile of a period: Σ dS_j · K_j over the key blocks in ascending order, one tile continued (R142, R200). -/
def bandDq (s : State) (c : Cmd) (k : Compute) (j : BandJob) (a : Nat) (w : Work) (b : Band) (p : Nat × Nat) (f : Finding) : State :=
  let qin := within (128 * p.2) 128 c.queries
  let pairs := dqPairs c k j b p.2
  let ds := pairs.map (fun x => ringOfArray s x.1 ringDs)
  match nextSlots s c dqReader f ds with
  | (s, none) => s
  | (s, some xs) =>
    let step (t : List (List Word) × Sticky) (x : (Nat × Nat) × RingSlot) : List (List Word) × Sticky :=
      let y := (s.ringAt (ringOfArray s x.1.1 ringLeft)).slot 0
      let m := tileProduct 0 x.2.fmt y.fmt (transpose 128 0 x.2.codes) (transpose k.dim 0 y.codes) t.1 qin k.dim
      (m.1, t.2.or m.2)
    let m := (pairs.zip xs).foldl step (zeroTile 128 k.dim, .none)
    let t : Tile := { cmd := c.id, item := w.item, role := roleDq, block := p.1 * queryBlocks c + p.2, rows := 128, cols := k.dim,
                      rowsIn := qin, colsIn := k.dim, slot := (k.argRef 10).slot }
    let s := markAll (raiseSlotFlags (s.setArray a { s.array a with acc0 := some (t.ofMatrix m.1) }) t.slot m.2) dqReader ds
    setBandRun s a (fun r => { r with dq := r.dq + 8 })

/-- An array goes on with its band: the dQ tile of a period whose turn is its own, which are formed in the order of the periods (log 125),
then tile 1, then tile 0. -/
def continueBand (s : State) (c : Cmd) (a : Nat) (w : Work) (r : BandRun) (b : Band) (f : Finding) : State :=
  let k := workOf c
  let j := bandJob s c k w.item
  let free := (s.array a).acc0.isNone
  let period (n : Nat) : Nat × Nat := b.periods.getD n (0, 0)
  let turn := free && r.dq < b.periods.length && b.arrays.all (fun x => r.dq ≤ (runOf s x).dq) &&
    (dqPairs c k j b (period r.dq).2).all (fun x => (s.ringAt (ringOfArray s x.1 ringDs)).nextReady dqReader)
  let ready (n own q : Nat) : Bool := (s.ringAt (w.ring q)).nextReady a &&
    (!j.pair c k (period n).2 (j.blockOf r) || (s.ringAt (w.ring own)).nextReady a)
  if turn then bandDq s c k j a w b (period r.dq) f
  else if r.acc < r.next && ready r.acc (if r.isK then ringDs else ringP) (if r.isK then ringValue else ringDo) then
    bandAccumulate s c k j a w r (period r.acc) f
  else if free && r.next < b.periods.length then bandScore s c k j a w r (period r.next) f
  else s

/-- Every period of an array's part is accumulated. -/
def bandFull (r : BandRun) (b : Band) : Bool := b.periods.length ≤ r.acc

/-! ### The ribs of a pair (R198, R201, R208) -/

/-- A slot that a rib has written is ready once all its rows are there (R364). -/
def ribSlotReady (s : State) (id : Nat) : State :=
  let x := s.ringAt id
  if x.free x.tail && (x.slot x.tail).got != 0 && (x.planOf x.tail).view.rows ≤ (x.slot x.tail).got then s.setRing id { x with tail := x.tail + 1 } else s

/-- The range flags of rows in the dQ scratch (R199), once what the D pass writes there is. -/
def flagRows (s : State) (c : Cmd) (k : Compute) (a : Nat) (j : BandJob) (bad : List (Nat × Nat)) : State × Option Unit :=
  let l := (distinct bad).map (fun p => areaLoc s c j.ring.isSome (dqRow s c k j p.1 p.2 + 4 * (k.dim + 1)))
  if l.any (fun x => writesPending s c.id x 4) then (s, none) else writeAt s c (agentOf a) 2 (l.map (fun x => (x, wordBytes [1#32])))

/-- The rib of A_j ends its pass over a tile Sᵀ: P, and what it passes to the rib of B_j. -/
def ribP (s : State) (c : Cmd) (k : Compute) (j : BandJob) (a : Nat) (w : Work) (r : BandRun) (n : Nat) (p : Nat × Nat) (m : List (List Word)) :
    State × Option Unit :=
  let plain := w.ring ringPPlain
  if !((s.ringAt (w.ring ringP)).open_ && (plain == 0 || (s.ringAt plain).open_)) then (s, none) else
  andThen (readL s c k a j p.1 p.2) (fun s ls =>
    let x := bandP c k j (elemEnv s c k a (j.headOf k p)) p.2 (j.blockOf r) m ls
    andThen (flagRows s c k a j (x.bad.map (fun i => (p.1, 128 * p.2 + i)))) (fun s _ =>
      let s := raiseFlags s (if x.bad.isEmpty then .none else .ofRange)
      let s := ribWrites s (w.ring ringP) (fmtOf k.pFmt) x.codes
      let s := if plain = 0 then s else ribWrites s plain (fmtOf k.pFmt) x.plain
      (setBandRun s a (fun r => { r with slots := r.slots ++ [⟨n, x.probs⟩] }), some ())))

/-- The rib of B_j ends its pass over a tile dPᵀ: dS, from what the rib of A_j passed on, and from D; its values in bounds and unmasked are
gathered (R196). -/
def ribDs (s : State) (c : Cmd) (k : Compute) (j : BandJob) (b mate : Nat) (w : Work) (r : BandRun) (n : Nat) (p : Nat × Nat) (m : List (List Word)) :
    State × Option Unit :=
  let src := if w.ring ringPPlain = 0 then w.ring ringP else w.ring ringPPlain
  match (runOf s mate).slots.find? (fun x => x.period == n) with
  | none => (s, none)
  | some x =>
    if !((s.ringAt (w.ring ringDs)).open_ && (s.ringAt src).nextReady b) then (s, none) else
    andThen (readLines s c b src ((s.ringAt src).reads b) {}) (fun s _ =>
    andThen (readD s c k b j p.1 p.2) (fun s ds =>
      let y := bandDs s c k j (elemEnv s c k b (j.headOf k p)) p.2 (j.blockOf r) m x.probs ds
      let seen := (y.map (fun row => row.filterMap (fun z => z))).flatten
      let s := gather s c.id k.sideSlot (k.scale k.sideSlot) k.dsFmt (fmtOf k.dsFmt).is8 (seen.map (fun z => widenTo32 (fmtOf k.dsFmt) z.1))
        (joinS (seen.map (·.2)))
      let s := ribWrites s (w.ring ringDs) (fmtOf k.dsFmt) (y.map (fun row => row.map (fun z => (z.map (·.1)).getD 0)))
      (setBandRun (markRead s b src) mate (fun r => { r with slots := r.slots.filter (fun x => x.period != n) }), some ())))

/-- The pass over a landed tile of a band ends. -/
def bandTileEnd (s : State) (a : Nat) (t : Tile) (m : List (List Word)) : State × Option Unit :=
  match bandOf s a with
  | none => (s, some ())
  | some (c, w, r, b) =>
    let k := workOf c
    let j := bandJob s c k w.item
    let p := b.periods.getD t.block (0, 0)
    fetchDone c.id (agentOf a)
      (if r.isK then ribDs s c k j a (b.arrays.getD (2 * r.pair) 0) w r t.block p m else ribP s c k j a w r t.block p m)

/-! ### The end of a band -/

/-- A part of a band that has nothing left to do: its tiles are formed and drained. -/
def partOver (s : State) (id : Nat) (b : Band) (a : Nat) : Bool :=
  let x := s.array a
  let r := runOf s a
  let n := b.periods.length
  let mine (t : Option Tile) : Bool := match t with | some t => t.cmd == id && t.item == b.item | none => false
  n ≤ r.next && n ≤ r.acc && n ≤ r.dq && !mine x.acc0 && !mine x.acc1 && !mine x.latch &&
  !(s.ribOf a).landing.any (fun t => mine (some t))

def freeBandArray (s : State) (a : Nat) : State :=
  let x := s.array a
  match x.work with
  | some w => leaveRings (s.setArray a { x with work := none }) a w
  | none => s

/-- A group whose last band has retired has its dQ finish to come; a ring sweep finishes its rows with its last step. -/
def afterBand (c : Cmd) (item : Nat) (k : Compute) : Compute :=
  let g := item / bandCount c
  if (ringOf c).isNone && (upTo (g * bandCount c) (bandCount c)).all k.done.contains then { k with finish := k.finish ++ [(g, 0)] } else k

/-- A band whose tiles have drained and whose partials have been combined is complete. -/
def closeBand (s : State) (id : Nat) (b : Band) : State :=
  match s.cmd? id with
  | none => s
  | some c =>
    if !b.arrays.all (partOver s id b) then s else
    let s := itemDone (b.arrays.foldl freeBandArray s) id b.item b.count (b.arrays.headD 0)
    mapWork s id (fun k => afterBand c b.item { k with bands := k.bands.filter (fun x => x.item != b.item) })

def closeBandOf (s : State) (id item : Nat) : State :=
  match s.cmd? id with
  | none => s
  | some c => match (workOf c).bands.find? (fun b => b.item == item) with
    | some b => closeBand s id b
    | none => s

/-- Rows of FP32 values added into an area (R308, R354), each to be changed by this rib alone meanwhile: what is to be written, and flags. -/
def addRows (s : State) (c : Cmd) (agent : Nat) (l : List (Loc × List Word)) : State × Option (List (Loc × List Byte) × Sticky) :=
  andThen (collectAll s (fun s (r : Loc × List Word) => andThen (takeAt s c agent 2 r.1 (4 * r.2.length)) (fun s bs =>
      let x := ((wordsOf bs).zip r.2).map (fun q => arrayAdd q.1 q.2)
      (s, some ((r.1, wordBytes (x.map (·.1))), joinS (x.map (·.2)))))) l) (fun s xs =>
    (s, some (xs.map (·.1), joinS (xs.map (·.2)))))

/-- A dK or dV tile of a ring step is added to the partials that travel with the shard (R448), or kept as the owner's own; the flags of the
additions. -/
def addPartials (s : State) (c : Cmd) (k : Compute) (a : Nat) (j : BandJob) (r : Ring) (isK : Bool) (kb rows : Nat) (m : List (List Word)) :
    State × Option Sticky :=
  let row (i : Nat) : Nat := j.group * c.keysIn + 128 * kb + i
  let at_ (i : Nat) : Nat := row i + (if isK then 0 else k.groups * c.keysIn)
  if r.step = 0 then
    (s.mapCmd c.id (fun c => { c with run := .ring { r with
      own := ((m.take rows).zip (upTo 0 rows)).foldl (fun o p => tput o (at_ p.2) p.1) r.own } }), some .none)
  else
    let base := shardBuffer (ringEntry s r.ring) c k true j.dir r.step + shardKBytes c k + shardVBytes c k
    andThen (addRows s c (agentOf a) (((m.take rows).zip (upTo 0 rows)).map (fun p => (.phys (base + 4 * k.dim * at_ p.2), p.1)))) (fun s x =>
      andThen (writeAt s c (agentOf a) 2 x.1) (fun s _ => (s, some x.2)))

/-- The mark of a dK or dV tile that a ring step has added, so that a band that runs again (R303) does not add it twice. -/
def drainedMark (t : Tile) : Nat × Nat := (t.item, 2 ^ 16 + t.block)

/-- A drained dK or dV tile (R201, R207). -/
def bandDrained (s : State) (c : Cmd) (k : Compute) (a : Nat) (t : Tile) : State × Option Unit :=
  let j := bandJob s c k t.item
  let kb := t.block / 2
  let isK := t.block % 2 == 1
  let b := bwdEnv c k
  let rows := within (128 * kb) 128 j.keys
  let d := drainTile (if isK then b.fDk else b.fDv) rows k.dim t.matrix
  match j.ring with
  | some r =>
    if k.combined.contains (drainedMark t) then (s, some ()) else
    andThen (fetchDone c.id (agentOf a) (addPartials s c k a j r isK kb rows d.1)) (fun s f =>
      (mapWork (raiseSlotFlags s t.slot (d.2.or f)) c.id (fun k => { k with combined := drainedMark t :: k.combined }), some ()))
  | none =>
    let o := if isK then tDK c k else tDV c k
    andThen (writeTile s c (agentOf a) o j.group (128 * kb) 0 rows k.dim d.1) (fun s _ => (raiseSlotFlags s o.ref.slot d.2, some ()))

/-! ### DQ_PARTIAL_COMBINE (R308, R310, R311) -/

/-- The claim of a band's partial: its bit in the group's bitmap. -/
def claimBit (c : Cmd) (j : BandJob) (block : Nat) : Nat := block * bandCount c + j.band

/-- A partial that must come first has not been combined: R311, in deterministic mode, those of lower bands of the same query block;
R446 and R448, in a ring step, those of the clockwise shard before those of the anticlockwise one. -/
def partWaits (s : State) (c : Cmd) (k : Compute) (item block : Nat) : Bool :=
  let j := bandJob s c k item
  let owed (i : Nat) : Bool :=
    let jb := bandJob s c k i
    jb.blocks.any (jb.pair c k (block % queryBlocks c)) && !k.combined.contains (i, block)
  (c.determ && (List.range j.band).any (fun b => owed (item - j.band + b))) ||
  (j.ring.isSome && j.dir == 1 && (List.range (bandCount c)).any (fun b => owed (j.group * bandCount c + b)))

/-- The dQ tile leaves the latch, combined or discarded. -/
def dropDq (s : State) (a : Nat) (t : Tile) : State :=
  closeBandOf (mapWork (s.setArray a { s.array a with latch := none }) t.cmd (fun k => { k with
    combined := (t.item, t.block) :: k.combined.filter (· != (t.item, t.block)) })) t.cmd t.item

/-- A partial drains, is claimed and added, or is nothing when it was claimed before (R308, R310). -/
def addDq (s : State) (c : Cmd) (k : Compute) (a : Nat) (t : Tile) : State × Option Unit :=
  let j := bandJob s c k t.item
  let n := claimBit c j t.block
  let place (addr : Nat) : Loc := areaLoc s c j.ring.isSome addr
  let row (i : Nat) : Loc := place (dqRow s c k j (t.block / queryBlocks c) (128 * (t.block % queryBlocks c) + i))
  let claim := place (claimsAt s c k j + n / 8)
  andThen (takeAt s c (agentOf a) 2 claim 1) (fun s bs =>
    let old := bs.headD 0#8
    if bit old.toNat (n % 8) then (s, some ()) else
    let d := drainTile (bwdEnv c k).fDq t.rowsIn t.colsIn t.matrix
    andThen (addRows s c (agentOf a) (((d.1.take t.rowsIn).zip (upTo 0 t.rowsIn)).map (fun r => (row r.2, r.1)))) (fun s x =>
    andThen (writeAt s c (agentOf a) 2 (x.1 ++ [(claim, [old ||| (1#8 <<< (n % 8))])])) (fun s _ =>
      (raiseSlotFlags s t.slot (x.2.or d.2), some ()))))

def combineDq (s : State) (c : Cmd) (k : Compute) (a : Nat) (t : Tile) : State :=
  if partWaits s c k t.item t.block then (if c.stop.isSome then dropDq s a t else s) else
  match fetchDone c.id (agentOf a) (addDq s c k a t) with
  | (s, none) => s
  | (s, some ()) => dropDq s a t

/-- DQ_PARTIAL_COMBINE (R202, R308, R311): the dQ tile in the drain latch, which it holds until it is combined. -/
def execDqPartialCombine (a : Nat) (s : State) : Out :=
  match (s.array a).latch with
  | some t =>
    match s.cmd? t.cmd with
    | some c => .next (if s.running && t.role == roleDq then combineDq s c (workOf c) a t else s)
    | none => .next s
  | none => .next s

/-! ### DQ_FINISH (R205) -/

/-- The rows of a group: dQ as FP32 and the status word. -/
def readDqRows (s : State) (c : Cmd) (k : Compute) (j : BandJob) : State × Option (List (Nat × Nat × List Word)) :=
  collectAll s (fun s p =>
    andThen (readWords s c (passAgent s) j.ring.isSome (dqRow s c k j (p / c.queries) (p % c.queries)) (k.dim + 2)) (fun s ws =>
      (s, some (j.group * k.gqa + p / c.queries, p % c.queries, ws)))) (List.range (k.gqa * c.queries))

/-- The rows converted and written; the numbers of those set to NaN. -/
def writeDq (s : State) (c : Cmd) (k : Compute) (rows : List (Nat × Nat × List Word)) : State × Option (List Nat) :=
  let t := tDQ c k
  let bad (r : Nat × Nat × List Word) : Bool := bit (tw r.2.2 (k.dim + 1)) 0
  andThen (placeAll s c (passAgent s) t.word (rowPlaces t (rows.map (fun r => (r.1, r.2.1))) 0 k.dim)) (fun s ps =>
  andThen (commitCodes s c (passAgent s) t ps (rows.map (fun r => (r.2.2.take k.dim).map (fun w =>
      if bad r then (t.fmt.nanCode, Sticky.none) else outCode s c t.fmt w)))) (fun s _ =>
    (s, some ((rows.filter bad).map (fun r => r.1 * c.queries + r.2.1)))))

/-- DQ_FINISH (R205). -/
def execDqFinish (id : Nat) (s : State) : Out :=
  match bwdCmd s id with
  | none => .next s
  | some (c, k) =>
    match (if (ringOf c).isSome then [] else k.finish) with
    | [] => .next s
    | (g, _) :: _ =>
      match fetchDone id (passAgent s) (andThen (readDqRows s c k { group := g }) (fun s rows => writeDq s c k rows)) with
      | (s, none) => .next s
      | (s, some bad) =>
        .next (endWork (mapWork (noteNan s id bad) id (fun k => { k with
          finish := k.finish.drop 1, buffers := k.buffers.filter (fun p => p.1 != g) })) id)

/-- The flags of the factors of a backward step (R126), those of an output with its slot (R127). -/
def bwdFlags (s : State) (c : Cmd) (k : Compute) : State :=
  let f := (bwdEnv c k).flags
  let own (i : Nat) (s : State) (x : Nat) : State := raiseSlotFlags s (k.argRef x).slot (f.getD i .none)
  own 4 (own 3 (own 2 (raiseFlags s ((f.getD 0 .none).or (f.getD 1 .none))) 14) 12) 10

/-- What ATTN_BWD does as it starts. -/
def bwdStart (s : State) (c : Cmd) (k : Compute) : State := startWork (bwdFlags s c k) c k

/-- ATTN_BWD (R195). -/
def execAttnBwd (q : Nat) (s : State) : Out := startOrPoll s q Op.attnBwd (planGo bwdStart)

end Sys2Proof.Machine
end

