-- ==== Sys2Proof/Machine/Drains.lean ====
section
/-! DEFINITION. Fused chains on an array, and the way of a tile out of it: the copy into the drain latch (R141), the drain (R139), the slot
rings (R364), and the products of a P slot (R176). -/

namespace Sys2Proof.Machine

/-! ### The chain in progress on an array -/

/-- The fused chain of an array, with its command. -/
def sweepOf (s : State) (a : Nat) : Option (Cmd × Work × Sweep) :=
  match (s.array a).work with
  | some w =>
    match w.sweep, s.cmd? w.cmd with
    | some sw, some c => some (c, w, sw)
    | _, _ => none
  | none => none

def setSweep (s : State) (a : Nat) (w : Work) (sw : Sweep) : State :=
  s.setArray a { s.array a with work := some { w with sweep := some sw } }

/-- A score tile of a work item. -/
def Work.scoreOf (w : Work) (t : Option Tile) : Bool :=
  match t with
  | some t => t.cmd == w.cmd && t.item == w.item && t.role == roleScore
  | none => false

/-- Every key block of a chain has been accumulated. -/
def sweepDone (s : State) (a : Nat) (w : Work) (sw : Sweep) : Bool :=
  let x := s.array a
  sw.blocks.isEmpty && sw.building.isNone && sw.ready.isEmpty && !w.scoreOf x.acc0 && !w.scoreOf x.latch &&
  !(s.ribOf a).landing.any (fun t => w.scoreOf (some t))

/-! ### A chain starts (R153, R170, R171) -/

/-- The rings of the sweeps of a multicast group, each an array with its job: K and V for all of them, and to each its resident row operand
and its P ring. -/
def sweepRings (s : State) (c : Cmd) (k : Compute) (l : List (Nat × Job)) : List RingSpec :=
  let ctx := ctxOf s c
  let depth := ringDepth s c k (famIn s c k)
  let j := (l.headD (0, {})).2
  let bs := j.blocks k
  let all := l.map (·.1)
  let p : OpTile := { view := { rows := j.m, cols := j.n, rowsIn := j.m, colsIn := j.n, fmt := fmtOf k.pFmt } }
  let own (x : Nat × Job) : List RingSpec :=
    [{ number := ringLeft, members := [x.1], depth := 1, point := some 0, tiles := [leftTile ctx x.2] },
     { number := ringP, members := [x.1], depth := 3, tiles := bs.map (fun b => { p with block := b }) }]
  [{ number := ringRight, members := all, depth := depth, point := some 1, tiles := bs.map (rightTile ctx j) },
   { number := ringValue, members := all, depth := depth, tiles := bs.map (valueTile ctx j) }] ++ (l.map own).flatten

/-- The rib store of an array that takes a sweep takes the document start table (R181). -/
def copyDocs (k : Compute) (s : State) (a : Nat) : State :=
  if bit k.mask 2 then s.setRib a { s.ribOf a with docs := k.docs } else s

/-- A chain on an array: its second tile at +0 (R144, R170). -/
def placeSweep (c : Cmd) (k : Compute) (rs : List (RingSpec × Nat)) (s : State) (x : (Nat × Job) × Nat) : State :=
  let a := x.1.1
  let j := x.1.2
  let bs := j.blocks k
  let o : Tile :=
    { cmd := c.id, item := x.2, role := if j.softmax then roleFinal else roleOut, rows := j.m, cols := j.wide, rowsIn := j.rin, colsIn := j.dv,
      slot := j.out.ref.slot }
  let w : Work :=
    { cmd := c.id, item := x.2, rings := ringsOf a rs, sweep := some { blocks := bs, count := bs.length, states := List.replicate j.m {} } }
  copyDocs k (s.setArray a { s.array a with acc1 := some (o.ofMatrix (zeroTile j.m j.wide)), work := some w }) a

/-- The K/V streamers of an array (R370). -/
def cursorHomes (a : Nat) : List Nat := if a < 16 then [0, 1, 2, 3] else [60, 61, 62, 63]

/-- R339, R370: the page cursor of a group, on the streamer with the fewest channels; none while all are full. -/
def openCursor (s : State) (c : Cmd) (k : Compute) (a : Nat) (j : Job) (rs : List (Nat × Nat)) : State × Option Unit :=
  match j.right, j.blocks k with
  | .coil seq group _ _ _ snap, b :: bs =>
    match fewestOf s (cursorHomes a) with
    | none => (s, none)
    | some n =>
      let hi := min j.hi (j.lo + (bs.foldl max b + 1) * j.n)
      let u : Cursor :=
        { seq := seq, group := group, next := (j.lo + b * j.n) / 64, last := (hi - 1) / 64, snapshot := snap, kRing := tget 0 rs ringRight,
          vRing := tget 0 rs ringValue, lo := j.lo, keys := j.n }
      (openChannel s n { cmd := c.id, cursor := some u }, some ())
  | _, _ => (s, some ())

/-- The chains of a multicast group start: an array and its item each. -/
def startSweeps (s : State) (c : Cmd) (k : Compute) (l : List (Nat × Nat)) : State × Option Unit :=
  let jobs := l.map (fun x => ((x.1, jobOf s x.1 c k x.2), x.2))
  let a := (l.headD (0, 0)).1
  match andThen (openRings s c k (sweepRings s c k (jobs.map (·.1)))) (fun s rs =>
      andThen (openCursor s c k a (jobs.headD ((0, {}), 0)).1.2 (ringsOf a rs)) (fun s _ => (s, some rs))) with
  | (_, none) => (s, none)
  | (s, some rs) => (jobs.foldl (placeSweep c k rs) s, some ())

/-- The slot whose values the tile's flags concern: the scores of a chain with masks (R179). -/
def scoreSlot (k : Compute) (j : Job) : Nat := if j.masked then k.midSlot else 0

/-- The array goes on with its chain: the next score tile, in accumulator tile 0, once its key block's slot is ready. -/
def continueSweep (s : State) (c : Cmd) (a : Nat) (w : Work) (sw : Sweep) (f : Finding) : State :=
  let k := workOf c
  let j := jobOf s a c k w.item
  match sw.blocks with
  | [] => s
  | b :: rest =>
    if (s.array a).acc0.isSome then s else
    match nextSlots s c a f [w.ring ringLeft, w.ring ringRight] with
    | (s, some [x, y]) =>
      let width := (s.array a).width j.form
      let r := scoreTile j width b x y
      let t : Tile := { cmd := c.id, item := w.item, role := roleScore, block := b, rows := j.m, cols := j.tileCols width, rowsIn := j.rin,
                        colsIn := j.inside b, slot := scoreSlot k j }
      let s := s.setArray a { s.array a with acc0 := some (t.ofMatrix r.1) }
      markRead (raiseSlotFlags (setSweep s a w { sw with blocks := rest }) t.slot r.2) a (w.ring ringRight)
    | (s, _) => s

/-! ### LATCH_COPY (R141) -/

/-- Whether the operation of an accumulator tile has promoted its last chunk (R142): of a scan, the copy of its state is due. -/
def tileComplete (s : State) (a t : Nat) : Bool :=
  let x := s.array a
  match x.work, x.acc t with
  | some w, some y =>
    if !(y.cmd == w.cmd && y.item == w.item) then true
    else match w.sweep, w.scan, bandOf s a with
      | some sw, _, _ => t == 0 || sweepDone s a w sw
      | _, some r, _ => t == 0 || r.stage == due scanCopy
      | _, _, some (_, _, r, b) => t == 0 || bandFull r b
      | _, _, none => w.acc != t
  | _, _ => true

/-- The last tile of a chain leaves: the chain is done with its rings, and the next one may go on in tile 0 (R189). -/
def endChain (s : State) (a : Nat) (w : Work) : State :=
  leaveRings (s.setArray a { s.array a with work := none, ending := some w }) a w

/-- The copy frees the accumulator tile; the state of a scan stays in place (R216). -/
def copyLatch (s : State) (a t : Nat) : State :=
  let x := s.array a
  let y := { x with latch := x.acc t }
  match scanOf s a, sweepOf s a with
  | some (_, w, r), _ =>
    if t = 0 then s.setArray a { y with acc0 := none } else setScan (s.setArray a y) a w { r with stage := leaving scanCopy }
  | none, some (_, w, _) =>
    let s := s.setArray a (y.setAcc t none)
    if t = 0 then s else endChain s a w
  | none, none => s.setArray a (y.setAcc t none)

/-- The copy of a chain's last tile waits while the one of the chain before is still on its way out. -/
def endingFree (s : State) (a t : Nat) : Bool := t == 0 || (sweepOf s a).isNone || (s.array a).ending.isNone

/-- LATCH_COPY (R139, R141). -/
def execLatchCopy (a t : Nat) (s : State) : Out :=
  let x := s.array a
  let held : Bool := (x.acc t).isSome
  when (ribOn s a && t < 2 && x.latch.isNone && held && tileComplete s a t && endingFree s a t) s (copyLatch s a t)

/-! ### DRAIN_COMPLETE (R139) -/

def clearLatch (s : State) (a : Nat) : State := s.setArray a { s.array a with latch := none }

def freeArray (s : State) (a : Nat) : State :=
  let x := s.array a
  match x.work with
  | some w => leaveRings (s.setArray a { x with work := none }) a w
  | none => s

/-- The landing buffer has room for a drained tile (R235, R236). -/
def Rib.room (x : Rib) : Bool := (x.landing.filter (fun t => t.role != roleStake)).length < 2

/-- A drained tile lands in the rib, where the landing buffer has room. -/
def landTile (s : State) (a : Nat) (t : Tile) : State :=
  let x := s.ribOf a
  if x.room then clearLatch (s.setRib a (x.land t)) a else s

/-- A tile drains with a factor, and lands. -/
def landScaled (s : State) (a : Nat) (t : Tile) (f : Word) : State :=
  if !(s.ribOf a).room then s else
  let d := drainTile f t.rowsIn t.colsIn t.matrix
  landTile (raiseSlotFlags s t.slot d.2) a (t.ofMatrix d.1)

/-- The chain of an array whose last tile is on its way out, with its command. -/
def endingOf (s : State) (a : Nat) : Option (Cmd × Work × Sweep) :=
  match (s.array a).ending with
  | some w =>
    match w.sweep, s.cmd? w.cmd with
    | some sw, some c => some (c, w, sw)
    | _, _ => none
  | none => none

/-- That chain is over. -/
def clearEnding (s : State) (a : Nat) : State := s.setArray a { s.array a with ending := none }

/-- An output tile has been written: it counts one, or where it is the last of a chain, the score tiles of that. -/
def outDone (s : State) (a : Nat) (t : Tile) : State :=
  match endingOf s a with
  | some (_, w, sw) =>
    if w.cmd = t.cmd && w.item = t.item then endWork (itemDone (clearEnding s a) t.cmd t.item sw.count a) t.cmd
    else endWork (itemDone s t.cmd t.item 1 a) t.cmd
  | none => endWork (itemDone s t.cmd t.item 1 a) t.cmd

/-- An output tile drains: to the landing buffer where it has an epilogue, else straight to the output stage (R236). -/
def drainOut (s : State) (a : Nat) (c : Cmd) (k : Compute) (t : Tile) : State :=
  let o := outAt s a c k t.item
  let f := outFactor s a c k t.item
  if (imageAt s a c.id 3).isSome then landScaled s a t f else
  let d := drainTile f t.rowsIn t.colsIn t.matrix
  match writeOut s c a o d.1 with
  | (s, none) => s
  | (s, some ()) => outDone (clearLatch (raiseSlotFlags s t.slot d.2) a) a t

/-- A tile of a key band or of a scan drains. -/
def drainHeld (s : State) (a : Nat) (c : Cmd) (k : Compute) (t : Tile) : State :=
  if stepKind c = Op.attnBwd then
    match bandDrained s c k a t with
    | (s, none) => s
    | (s, some ()) => closeBandOf (clearLatch s a) c.id t.item
  else
    match scanOf s a with
    | some (c, w, r) =>
      match scanDrained s c a w r t with
      | (s, none) => s
      | (s, some ()) => clearLatch s a
    | none => s

/-- The factor of the scores of a band (R207): of Sᵀ on A_j, of dPᵀ on B_j. -/
def bandFactor (s : State) (c : Cmd) (k : Compute) (a : Nat) : Word := if (runOf s a).isK then (bwdEnv c k).fP else (bwdEnv c k).fS

/-- The drain of the latch's tile, by its role (R126, R172, R306). A dQ tile stays until it is combined (R311). -/
def drainLatch (s : State) (a : Nat) (c : Cmd) (t : Tile) : State :=
  let k := workOf c
  if t.role = rolePartial then landTile s a t
  else if t.role = roleScore then landScaled s a t (jobOf s a c k t.item).fS
  else if t.role = roleFinal then landScaled s a t (jobOf s a c k t.item).fO
  else if t.role = roleBand then landScaled s a t (bandFactor s c k a)
  else if t.role = roleDq then s
  else if t.role = roleHeld then drainHeld s a c k t
  else drainOut s a c k t

/-- DRAIN_COMPLETE (R139, R140); a finding lies in what the rib reads of its own (R237). -/
def execDrainComplete (a : Nat) (f : Finding) (s : State) : Out :=
  match (s.array a).latch with
  | some t =>
    match s.cmd? t.cmd with
    | some c => when (ribOn s a) s (ribDoes s a c f (fun s => drainLatch s a c t))
    | none => .next s
  | none => .next s

/-! ### Slots (R364) -/

/-- The ring of an array, or of its rib, by number. -/
def ringKeyOf (s : State) (a r : Nat) : Nat :=
  let n := ringOfArray s a r
  if n != 0 then n else match (s.ribOf a).work with | some w => w.ring r | none => 0

/-- A P slot is complete: every row has been written. -/
def pSlotReady (s : State) (a : Nat) (c : Cmd) (w : Work) (sw : Sweep) : State :=
  match sw.building with
  | some p =>
    let x := s.ringAt (w.ring ringP)
    if p.p.length < (jobOf s a c (workOf c) w.item).m || !x.free x.tail then s
    else (setSweep s a w { sw with building := none, ready := sw.ready ++ [p] }).setRing (w.ring ringP) { x with tail := x.tail + 1 }
  | none => s

/-- SLOT_READY (R364): a slot of a ring becomes ready: one that a rib writes, or one that a streamer fills. `f` lies in the lines of the slot that
a prologue reads, `g` in the memories of the rib that runs it (R237). -/
def execSlotReady (a r : Nat) (f g : Finding) (s : State) : Out :=
  if !(ribOn s a && r < 16) then .next s else
  match (if r = ringP then sweepOf s a else none) with
  | some (c, w, sw) => .next (pSlotReady s a c w sw)
  | none =>
    let id := ringKeyOf s a r
    .next (if id = 0 then s else if ringP ≤ r && r ≤ ringDs then ribSlotReady s id else fillSlot s id f g)

/-- The array reads the P slot at the head, once the slot of its key block in the V ring is ready: the decrements, then the products
(R176). -/
def consumeP (s : State) (a : Nat) (c : Cmd) (w : Work) (sw : Sweep) (f : Finding) : State :=
  let k := workOf c
  let j := jobOf s a c k w.item
  let rs := [w.ring ringP, w.ring ringValue]
  match sw.ready, (s.array a).acc1 with
  | p :: rest, some t =>
    match nextSlots s c a f rs with
    | (s, some [_, v]) =>
      let r := secondProduct j (fmtOf k.pFmt) v.fmt p (valueCols j v.codes) t.matrix
      let s := setSweep (s.setArray a { s.array a with acc1 := some (t.ofMatrix r.1) }) a w { sw with ready := rest }
      let s := noteEvent s 0x05 a (decrements j p)
      releaseSlot (markAll (raiseSlotFlags s t.slot r.2) a rs) (w.ring ringP)
    | (s, _) => s
  | _, _ => s

/-- SLOT_FREE (R153, R154, R364): the slot at the head of a ring has been read by its last consumer. Of the P ring of a chain, the array
reads it now. -/
def execSlotFree (a r : Nat) (f : Finding) (s : State) : Out :=
  if !(ribOn s a && r < 16) then .next s else
  match (if r = ringP then sweepOf s a else none) with
  | some (c, w, sw) => .next (consumeP s a c w sw f)
  | none =>
    let id := ringKeyOf s a r
    .next (if id = 0 then s else releaseSlot s id)

end Sys2Proof.Machine
end

