-- ==== Sys2Proof/Machine/Tally.lean ====
section
/-! DEFINITION. Tally's commands, counters and registers (chapter 13), and the reads of the registers that a read clears (R15). -/

namespace Sys2Proof.Machine

/-! ### TALLY_SNAP and SCALE_UPDATE (R472, R473, R476) -/

/-- R472: the record of a slot. -/
def slotRecord (n : Nat) (x : Slot) : List Word :=
  [wd (n + x.format * 2 ^ 8 + b2n x.hold * 2 ^ 16 + x.flags.toNat * 2 ^ 17), x.scale, x.maximum, wd x.zero, wd x.nonfinite, wd x.total,
   wd (x.total / 2 ^ 32), wd x.varClamp, wd x.history.length] ++ List.replicate 7 0#32 ++
  (List.range 64).map (fun i => wd (tget 0 x.bins i))

/-- R473: the clear after copy. -/
def Slot.cleared (x : Slot) : Slot :=
  { x with bins := [], zero := 0, nonfinite := 0, total := 0, maximum := 0, flags := {}, varClamp := 0 }

/-- The slots that a snapshot names. -/
def snapSlots (c : Cmd) : List Nat := (List.range (fld (c.word 4) 23 16)).map (· + fld (c.word 4) 7 0)

def clearSlots (s : State) (ns : List Nat) : State := ns.foldl (fun (s : State) n => s.setSlot n (s.slot n).cleared) s

/-- TALLY_SNAP: the records at consecutive addresses, through Plait's translation. -/
def tallySnapStep (s : State) (c : Cmd) : State :=
  let ns := snapSlots c
  match translateRange s (ctxOf s c) (plaitAccess c 2 (c.addr 2) true) (c.addr 2) (320 * ns.length) with
  | (s, some ps, _) =>
    match writeMeets s ps (wordBytes ((ns.map (fun n => slotRecord n (s.slot n))).flatten)) with
    | (s, none) => succeed (if bit (c.word 5) 0 then clearSlots s ns else s) c
    | (s, some pa) => eccEnd s c.id pa
  | (s, none, .faulted) => s
  | (s, none, _) => wait_ s c

def execTallySnap (q : Nat) (s : State) : Out := startOrPoll s q Op.tallySnap tallySnapStep

/-- R476: the pairs of a SCALE_UPDATE that are not empty: slot, hold and scale. -/
def scalePairs (c : Cmd) : List (Nat × Bool × Word) :=
  (([2, 4, 6, 8, 10, 12] : List Nat).map (fun i => (fld (c.word i) 7 0, bit (c.word i) 8, wd (c.word (i + 1))))).filter (fun p => p.1 != 0)

/-- A positive, finite, normal FP32 value. -/
def positiveNormal (w : Word) : Bool := !bit w.toNat 31 && fld w.toNat 30 23 != 0 && fld w.toNat 30 23 != 255

/-- R476: what is wrong with the pairs. An illegal scale (0x0601) is found before a slot that is named twice (0x0602) (DESIGN CHOICE, log 155). -/
def scaleCheck (ps : List (Nat × Bool × Word)) : Option Nat :=
  if ps.any (fun p => !positiveNormal p.2.2) then some 0x0601
  else if (distinct (ps.map (·.1))).length != ps.length then some 0x0602
  else none

def scaleUpdateStep (s : State) (c : Cmd) : State :=
  match scaleCheck (scalePairs c) with
  | some d => reject s c d
  | none => succeed ((scalePairs c).foldl (fun (s : State) p =>
      s.setSlot p.1 { s.slot p.1 with scale := p.2.2, hold := p.2.1, history := [] }) s) c

/-- SCALE_UPDATE (R476). -/
def execScaleUpdate (q : Nat) (s : State) : Out := startCmd s q Op.scaleUpdate scaleUpdateStep

/-! ### Counters (R480 to R483) -/

/-- R480: the number of units of an event; 0 for an event without units, none for a code not in the table. -/
def unitsOf (code : Nat) : Option Nat :=
  match code with
  | 0x01 | 0x23 | 0x50 | 0x51 | 0x52 | 0x53 | 0x54 | 0x55 | 0x56 | 0x57 | 0x61 => some 0
  | 0x02 | 0x03 | 0x04 | 0x05 | 0x06 | 0x07 | 0x12 | 0x13 | 0x30 | 0x31 => some 32
  | 0x10 | 0x11 | 0x60 => some 256
  | 0x20 => some 16
  | 0x21 => some 64
  | 0x22 => some 66
  | 0x40 | 0x41 | 0x42 => some 16
  | _ => none

/-- Whether an event of a unit is one that the table has: slots count from 1 (R480). -/
def unitInRange (code unit : Nat) : Bool :=
  match unitsOf code with
  | none => false
  | some 0 => true
  | some n => unit < n && !(code == 0x60 && unit == 0)

/-- Whether a counter counts an event of a unit. -/
def CntCfg.counts (c : CntCfg) (code unit : Nat) : Bool :=
  c.event == code && unitInRange code unit && (c.allUnits || unitsOf code == some 0 || c.unit == unit)

/-- R481: whether a counter counts the wraps of the one before it. -/
def chained (t : Tally) (n : Nat) : Bool := n % 2 == 1 && (tget {} t.cfg n).chain

/-- One counter raised by `k`, with its wrap. -/
def bump (s : State) (n k : Nat) : State × Nat :=
  let v := tget 0 s.tl.cnt n + k
  let w := v / 2 ^ 32
  let s := { s with tl := { s.tl with cnt := tset 0 s.tl.cnt n (v % 2 ^ 32), ovf := if w = 0 then s.tl.ovf else s.tl.ovf ||| 2 ^ n } }
  (if w ≠ 0 && (tget {} s.tl.cfg n).ovfIrq then raiseIrq s 7 else s, w)

/-- R481: a counter raised by `k`; its wraps go to the odd counter chained to it. -/
def addCount (s : State) (n k : Nat) : State :=
  let (s, w) := bump s n k
  if w ≠ 0 && n % 2 == 0 && chained s.tl (n + 1) then (bump s (n + 1) w).1 else s

/-- R480, R482, R483: `n` events of a code and unit that arrive in one CCLK. -/
def countEvents (s : State) (code unit n : Nat) : State :=
  if s.tl.freeze || n = 0 then s else
  (List.range 16).foldl (fun (s : State) i =>
    if !chained s.tl i && (tget {} s.tl.cfg i).counts code unit then addCount s i n else s) s

/-- R478: the distinct flags whose causes arrive in one CCLK: those on their way, set in TL_FLAGS as they arose, and `n`'s, set now
(DEDUCED, log 141). -/
def countFlags (s : State) (n : Nat) : State :=
  let f := s.tl.onWay.or (.ofNat n)
  let s := { s with tl := { s.tl with
    flags := s.tl.flags.or (.ofNat n), flagCount := satAdd 0xFFFFFFFF s.tl.flagCount f.count, onWay := {} } }
  let s := countEvents s 0x50 0 f.count
  (List.range 7).foldl (fun (s : State) i => if bit f.toNat i then countEvents s (0x51 + i) 0 1 else s) s

/-- R482: the events of a code and unit that are on their way arrive in one CCLK, and `n` more that no row makes (log 149). -/
def arriveEvents (s : State) (code unit n : Nat) : State :=
  if 512 ≤ unit then s else
  let i := 512 * code + unit
  countEvents { s with tl := { s.tl with events := tdel s.tl.events i } } code unit (tget 0 s.tl.events i + n)

/-- TALLY_EVENT_ARRIVAL (R478, R482): the events of a code from a unit arrive in one CCLK. For code 0x50 the flags whose causes are on
their way arrive, with those that bits 6:0 of `n` name. -/
def execTallyEventArrival (code unit n : Nat) (s : State) : Out :=
  when s.clocked s (if code = 0x50 then countFlags s n else arriveEvents s code unit n)

/-- TL_CNT_WRITE (R483): the written value is stored, and the events of that CCLK are added to it. -/
def execTlCntWrite (n : Nat) (v : Word) (events : Nat) (s : State) : Out :=
  let s1 := { s with tl := { s.tl with cnt := tset 0 s.tl.cnt n v.toNat } }
  when (s.windowOpen 9 && n < 16) s (if s.tl.freeze then s1 else addCount s1 n events)

/-- The answer of a register read. -/
def answer (s : State) (n : Nat) : State := respond s .ok (wd n)

/-- TL_CNT_READ (R482): an even counter whose partner chains copies the partner into TL_CNT_HI. -/
def execTlCntRead (n : Nat) (s : State) : Out :=
  let s1 := answer s (tget 0 s.tl.cnt n)
  when (s.windowOpen 9 && n < 16) s
    (if n % 2 == 0 && chained s.tl (n + 1) then { s1 with tl := { s1.tl with cntHi := tget 0 s.tl.cnt (n + 1) } } else s1)

/-! ### Control (R484, R488) -/

/-- R488: a write of TL_CTRL. -/
def writeTlCtrl (s : State) (v : Nat) : State :=
  let t := { s.tl with tagRate := fld v 11 8, tagEnable := bit v 3, userPage := bit v 2, freeze := bit v 0 }
  { s with tl := if bit v 1 then { t with cnt := [], ovf := 0 } else t }

/-- CLEAR_COUNTERS (R488): a write of 1 to clear. -/
def execClearCounters (v : Word) (s : State) : Out := when (s.windowOpen 9 && bit v.toNat 1) s (writeTlCtrl s v.toNat)

/-- FREEZE (R483, R488): a write of 1 to freeze. -/
def execFreeze (v : Word) (s : State) : Out := when (s.windowOpen 9 && bit v.toNat 0) s (writeTlCtrl s v.toNat)

/-- TL_TAG_SEED_WRITE (R484): a written 0 is stored as 1. -/
def execTlTagSeedWrite (v : Word) (s : State) : Out :=
  when (s.windowOpen 9) s { s with tl := { s.tl with lfsr := if v = 0#32 then 1 else v.toNat } }

/-- R489. -/
def tlStatusWord (s : State) : Nat := s.tl.tagSkipped * 2 ^ 24 + s.tl.traceHead * 2 ^ 8 + taggedInflight s

/-! ### Reads that clear (R13, R15): the counts that arrive in the same MCLK are kept -/

/-- TL_FLAG_COUNT_READ (R478). -/
def execTlFlagCountRead (arriving : Nat) (s : State) : Out :=
  let s1 := answer s s.tl.flagCount
  when (s.windowOpen 9) s { s1 with tl := { s1.tl with flagCount := min 0xFFFFFFFF arriving } }

/-- CP_REDO_READ (R316). -/
def execCpRedoRead (arriving : Nat) (s : State) : Out :=
  let s1 := answer s s.cp.redo
  when (s.windowOpen 0) s { s1 with cp := { s1.cp with redo := min 0xFFFF arriving } }

/-- R278: RB_ECC. -/
def rbEccWord (x : Rib) : Nat := b2n x.uncorr * 2 ^ 31 + x.corr

/-- RB_ECC_READ (R278). -/
def execRbEccRead (a arriving : Nat) (s : State) : Out :=
  let x := s.ribOf a
  when (s.windowOpen 2 && a < 32) s ((answer s (rbEccWord x)).setRib a { x with corr := min 0xFFFF arriving })

/-- R383: ST_ECC. -/
def stEccWord (s : State) : Nat := b2n s.st.uncorr * 2 ^ 31 + b2n s.st.scrubUncorr * 2 ^ 30 + s.st.corr

/-- ST_ECC_READ (R383). -/
def execStEccRead (arriving : Nat) (s : State) : Out :=
  let s1 := answer s (stEccWord s)
  when (s.windowOpen 3) s { s1 with st := { s1.st with corr := min 0xFFFF arriving } }

/-- R385: BS_ECC. -/
def bsEccWord (b : BaseCtl) : Nat := b2n b.uncorr * 2 ^ 31 + b.retries * 2 ^ 16 + b.corr

/-- BS_ECC_READ (R385). -/
def execBsEccRead (n retries corrected : Nat) (s : State) : Out :=
  let b := s.base n
  when (s.windowOpen 5 && n < 32) s
    ((answer s (bsEccWord b)).setBase n { b with retries := min 0xFF retries, corr := min 0xFFFF corrected })

/-- R465: HP_PORT_ERR. -/
def portErrWord (p : Port) : Nat := p.retries * 2 ^ 24 + p.uncorrectable * 2 ^ 16 + p.corrected

/-- HP_PORT_ERR_READ (R465). -/
def execHpPortErrRead (p retries uncorrectable corrected : Nat) (s : State) : Out :=
  let x := s.port p
  when (s.windowOpen 8 && p < 16) s
    ((answer s (portErrWord x)).setPort p
      { x with retries := min 0xFF retries, uncorrectable := min 0xFF uncorrectable, corrected := min 0xFFFF corrected })

/-- SP_WIN_REFUSED_READ (R417). -/
def execSpWinRefusedRead (arriving : Nat) (s : State) : Out :=
  let s1 := answer s s.sp.winRefused
  when (s.windowOpen 7) s { s1 with sp := { s1.sp with winRefused := min 0xFFFFFFFF arriving } }

/-- R418: SP_MISS_STATUS. -/
def missStatusWord (s : State) : Nat := s.sp.late * 2 ^ 24 + s.sp.unknown * 2 ^ 16 + outstanding s.sp

/-- SP_MISS_STATUS_READ (R418). -/
def execSpMissStatusRead (late unknown : Nat) (s : State) : Out :=
  let s1 := answer s (missStatusWord s)
  when (s.windowOpen 7) s { s1 with sp := { s1.sp with late := min 0xFF late, unknown := min 0xFF unknown } }

/-- TL_STATUS_READ (R489). -/
def execTlStatusRead (arriving : Nat) (s : State) : Out :=
  let s1 := answer s (tlStatusWord s)
  when (s.windowOpen 9) s { s1 with tl := { s1.tl with tagSkipped := min 0xFF arriving } }

/-- R558: HD_ERR. -/
def hdErrWord (s : State) : Nat := b2n s.hd.downSeen * 2 ^ 31 + s.hd.retries

/-- R558: adapter retries are counted, up to 0xFFFF. -/
def countHdRetries (s : State) (n : Nat) : State := { s with hd := { s.hd with retries := satAdd 0xFFFF s.hd.retries n } }

/-- HD_ERR_READ (R558): `before` adapters' retries have come since the last read, and `arriving` come in the MCLK of the read (log 143). -/
def execHdErrRead (before arriving : Nat) (s : State) : Out :=
  let s := countHdRetries s before
  let s1 := answer s (hdErrWord s)
  when (s.windowOpen 11) s { s1 with hd := { s1.hd with retries := min 0xFFFF arriving } }

end Sys2Proof.Machine
end

