-- ==== Sys2Proof/Machine/Ports.lean ====
section
/-! DEFINITION. Hoop's ports and link layer (R422 to R433), the arrival of messages, HELLO, LEAVE (R452) and the table registers
(R466). -/

namespace Sys2Proof.Machine

/-! ### Ports -/

/-- The other port of a pair; a bypass port has none (R422). -/
def partner (p : Nat) : Option Nat := if p % 8 < 6 then some (p ^^^ 1) else none

def partnerUp (s : State) (p : Nat) : Bool := match partner p with | some q => portUp s q | none => false

/-- The neighbour at the far end of a port: the engine that the port last heard, else the torus neighbour of its direction (R422). -/
def farEnd (s : State) (p : Nat) : Nat :=
  match (s.port p).heard, dirOf p with
  | some n, _ => n
  | none, some d => neighbour s (ownId s) d
  | none, none => 0

/-- A port enters failed: the link_failed interrupt, its messages move, and a pair that has failed on both ports makes its
neighbour a suspect (R463, R522, R552). -/
def failPort (s : State) (p : Nat) : State :=
  let s := s.setPort p { s.port p with state := .failed }
  let s := moveMessages (raiseIrq s 5) p
  match partner p with
  | some q => if (s.port q).state == .failed then suspect s 3 p (farEnd s p) else s
  | none => s

/-- The commands of this engine that have messages of a ring sweep or a collective on a port. -/
def portCommands (s : State) (p : Nat) : List Nat :=
  (s.cp.table.filter (fun c =>
    (match c.run with | .ring _ => true | .collective _ => true | _ => false) && (s.port p).unacked.any (fun o => o.cmd == some c.id))).map (·.id)

/-- R429: the port reset. The port shows `resetting` (5) until it is up again, and never `training` (1), while it trains (DESIGN CHOICE,
log 133). -/
def resetPort (s : State) (p : Nat) : State :=
  let cut := if partnerUp s p then [] else portCommands s p
  let s := if (s.port p).enable then takeDown s p .resetting else s
  cut.foldl (fun (s : State) id => failCommand s id St.resetAbort 0x0004) s

/-- R465: a write of HP_PORT_CTRL. -/
def writePortCtrl (s : State) (p v : Nat) : State :=
  let x := s.port p
  let y := if x.enable then x else { x with loopback := bit v 2 }
  let s := s.setPort p y
  let s :=
    if bit v 0 && !x.enable then startPort s p
    else if !bit v 0 && x.enable then stopPort s p
    else s
  if bit v 1 then resetPort s p else s

/-- PORT_ENABLE (R429): a write of 1 to enable. -/
def execPortEnable (p : Nat) (v : Word) (s : State) : Out :=
  when (s.windowOpen 8 && p < 16 && bit v.toNat 0) s (writePortCtrl s p v.toNat)

/-- PORT_RESET (R429): a write of 1 to port_reset. -/
def execPortReset (p : Nat) (v : Word) (s : State) : Out :=
  when (s.windowOpen 8 && p < 16 && bit v.toNat 1) s (writePortCtrl s p v.toNat)

def inTraining (x : Port) : Bool := x.state == .training || x.state == .resetting

/-- Hoop works while its clock runs and no reset pin is low. -/
def hoopOn (s : State) : Bool := s.bd.divRun && !s.bd.coldLow && !s.warmHeld

/-- A HELLO has come from a peer (R429): the port knows it, and is not silent (R520). -/
def hearHello (s : State) (p peer : Nat) : State :=
  let s := s.setPort p { s.port p with peer := peer, heard := some peer, lastHello := s.now }
  { s with bd := { s.bd with silent := s.bd.silent &&& (0xFFFF ^^^ 2 ^ p) } }

/-- PORT_TRAINING_DONE (R424, R429): all four lanes are aligned and HELLO has been exchanged, in loopback with the
port itself (R465). -/
def execPortTrainingDone (p peer : Nat) (s : State) : Out :=
  let x := s.port p
  when (hoopOn s && p < 16 && peer < 65536 && inTraining x && (!x.loopback || peer == ownId s)) s
    (flushWaiting (hearHello (s.setPort p { trainPort x .up with lanesOk := 15 }) p peer))

/-- 500 ms in CCLK (R429). -/
abbrev trainingLimit : Nat := 262500000

/-- PORT_TRAINING_TIMEOUT (R429): a port has not come up within 500 ms of being enabled, or of the reset that trains it again (log 133). -/
def execPortTrainingTimeout (p : Nat) (s : State) : Out :=
  let x := s.port p
  when (hoopOn s && p < 16 && inTraining x && x.trainedSince + trainingLimit ≤ s.now) s (failPort s p)

/-- LANE_ALIGNMENT_LOSS (R426). -/
def execLaneAlignmentLoss (p lane : Nat) (s : State) : Out :=
  let x := s.port p
  when (hoopOn s && p < 16 && lane < 4 && portUp s p) s
    (failPort (s.setPort p { x with lanesOk := x.lanesOk &&& (15 ^^^ 2 ^ lane) }) p)

/-! ### Blocks (R425 to R427) -/

/-- Whether block `b` comes at or before block `a`, modulo 4096. -/
def atOrBefore (b a : Nat) : Bool := (a + 4096 - b) % 4096 < 2048

/-- The fields of a block's header (R425). -/
def headerField (b : Block) (hi lo : Nat) : Nat := fld b.header.toNat hi lo

/-- R425: the block's crc agrees with its header and its flit bytes. -/
def crcGood (b : Block) : Bool := crc32c (Memory.leBytes 4 (headerField b 31 0) ++ b.flits) == wd (headerField b 63 32)

/-- R426: a block whose crc is right and whose codewords could be corrected. -/
def intact (b : Block) : Bool := b.codewordsBad == 0 && b.flits.length == 1024 && crcGood b

/-- R426: the blocks that the peer asks for again leave once more, with this end's acknowledgement of now. -/
def resend (x : Port) : Port :=
  let replay := x.replay.map (fun o => x.block (fld o.header.toNat 11 0) o.flits)
  { x with replay := replay, retries := satAdd 0xFF x.retries 1, outHeader := (replay.getLast?.map (·.header)).getD x.outHeader }

/-- What the header of a block does for the sending side: acknowledgements, credits, and a resend. -/
def blockHeader (x : Port) (b : Block) : Port :=
  let a := headerField b 23 12
  let c := headerField b 26 25
  let x := { x with
    replay := x.replay.filter (fun o => !atOrBefore (fld o.header.toNat 11 0) a),
    unacked := x.unacked.filter (fun o => !atOrBefore o.last a),
    credits := x.credits.set c (min 4096 (x.credits.getD c 0 + 16 * headerField b 31 27)) }
  if headerField b 24 24 = 1 then resend x else x

/-- R426: a discarded block asks for a resend. Its failures in a row are those of the first block discarded, as it comes again. -/
def discardBlock (x : Port) (b : Block) : Port :=
  let failed := !intact b && (!x.nakDue || headerField b 11 0 == x.nextRx)
  { x with
    nakDue := true, state := .retrying, failsInRow := if failed then x.failsInRow + 1 else x.failsInRow,
    uncorrectable := satAdd 0xFF x.uncorrectable b.codewordsBad }

/-- R426, R427: a block that arrives: an idle block carries its header only, also while blocks are discarded until the resend (DESIGN CHOICE,
log 132), a block in order is received, and any other is discarded. -/
def takeBlock (x : Port) (b : Block) : Port :=
  if !intact b then discardBlock x b
  else if b.idle then blockHeader x b
  else if headerField b 11 0 = x.nextRx then
    blockHeader { x with nextRx := (x.nextRx + 1) % 4096, failsInRow := 0, nakDue := false, state := .up } b
  else discardBlock x b

/-- The blocks that a port sends again on a block taken (R426, R480); `y` is the port after it. -/
def blocksResent (x y : Port) (b : Block) : Nat :=
  if headerField b 24 24 = 1 && intact b && (b.idle || headerField b 11 0 == x.nextRx) then y.replay.length else 0

/-- R465: in loopback, what a port receives is what it sends: a block that it keeps for a resend or the last header that it sent,
where the lanes have not spoilt it. -/
def loopedBlock (x : Port) (b : Block) : Bool :=
  !x.loopback || !intact b || (b.idle && b.header == x.outHeader) || x.replay.any (fun o => o.header == b.header && o.flits == b.flits)

/-- LINK_BLOCK (R426, R427, R465, R492): a block arrives on a port. -/
def execLinkBlock (p : Nat) (b : Block) (s : State) : Out :=
  if !(hoopOn s && p < 16 && portUp s p && loopedBlock (s.port p) b) then .next s else
  let x := s.port p
  let y := takeBlock { x with corrected := satAdd 0xFFFF x.corrected b.corrected, rested := false } b
  let s := noteEvent (s.setPort p y) 0x42 p (blocksResent x y b)
  .next (if 8 ≤ y.failsInRow then failPort s p else flushWaiting s)

/-- R427: the flits of a class that lie in a port's receive buffer: those of messages that are kept, or that wait to be forwarded. -/
def inBuffer (s : State) (p cls : Nat) : Nat :=
  sumNat (((s.hp.heldAccess ++ s.hp.waiting.filter (fun o => o.m.src.toNat != ownId s)).filter
    (fun o => o.m.port == p && o.cls == cls)).map OutMsg.flits)

/-- R427: the flits of the shared 128 KiB of a port's receive buffer. -/
abbrev sharedFlits : Nat := 2048

/-- R427: the flits of a class whose credits a port may return: those that have left the receive buffer, and of those that lie in it as
many as the shared part has room for beside what it has taken (log 100). -/
def creditDue (s : State) (p c : Nat) : Nat :=
  let arrived (k : Nat) : Nat := (s.port p).arrived.getD k 0
  let lent := sumNat ((List.range 4).map (fun k => inBuffer s p k - arrived k))
  min (arrived c) ((arrived c - inBuffer s p c) + (sharedFlits - lent))

/-- R427: the idle block that a port sends: it carries the acknowledgement, a nak that is due, and the credits of the first class that has a unit
of 16 flits to return (log 132). -/
def idleBlock (s : State) (p : Nat) : State :=
  let x := s.port p
  if !portUp s p then s else
  let due (c : Nat) : Nat := creditDue s p c / 16
  let c := ((List.range 4).find? (fun c => due c != 0)).getD 0
  let n := min 31 (due c)
  s.setPort p { x with
    arrived := x.arrived.set c (x.arrived.getD c 0 - 16 * n),
    outHeader := packHeader x.nextTx x.ack x.nakDue c n (List.replicate 1024 0#8) }

/-- The ports that are up send idle blocks. -/
def idleBlocks (s : State) : State := (s.hp.ports.map (·.1)).foldl idleBlock s

/-! ### The arrival of messages (R430, R431, R433, R531) -/

/-- The traffic class of a message type (R428). -/
def classOf (type : Nat) : Nat :=
  if type ≤ 0x06 then 3 else if type = 0x10 || type = 0x12 then 1 else if type = 0x20 then 2 else 0

/-- R465: in loopback, what a port receives is what it has sent. -/
def loopedMsg (x : Port) (m : Msg) : Bool := !x.loopback || x.unacked.any (fun o => o.m == m)

/-- Whether a message can arrive: its port is up, its length is whole flits, up to 4 KiB, and its payload, where it has one, is as long (R435). -/
def arrives (s : State) (m : Msg) : Bool :=
  let n := m.length.toNat
  hoopOn s && m.port < 16 && portUp s m.port && n % 64 == 0 && n ≤ 4096 && (m.data.isEmpty || m.data.length == n) &&
  loopedMsg (s.port m.port) m

/-- R427: the flits of a message have come into the receive buffer of its port; their credits are owed once they leave it. -/
def credited (s : State) (type : Nat) (m : Msg) : State :=
  let x := s.port m.port
  let o : OutMsg := { type := type, cls := classOf type, m := m }
  (noteEvent s 0x41 m.port o.flits).setPort m.port { x with arrived := x.arrived.set o.cls (x.arrived.getD o.cls 0 + o.flits) }

/-- R531: a detour entry in force for its direction discards what arrives on a torus port. -/
def discarded (s : State) (m : Msg) : Bool := match dirOf m.port with | some d => (detourPort s d).isSome | none => false

/-- A message that arrives is discarded, forwarded, or taken by this engine. -/
def receive (s : State) (type : Nat) (m : Msg) (f : State → State) : Out :=
  if !arrives s m then .next s else
  let u := credited s type m
  .next (if discarded s m then u
    else if m.dest.toNat = ownId s then f u
    else sendMsg u { type := type, cls := classOf type, m := m })

/-- A message kept until the command or the power state that it is for. -/
def keepMsg (s : State) (type : Nat) (m : Msg) (ps : List (Nat × Nat) := []) (landed : Bool := false) : State :=
  { s with hp := { s.hp with heldAccess := s.hp.heldAccess ++ [{ type := type, cls := classOf type, m := m, pieces := ps, landed := landed }] } }

/-- The kept messages that satisfy a test, taken out. -/
def takeKept (s : State) (f : OutMsg → Bool) : State × List OutMsg :=
  ({ s with hp := { s.hp with heldAccess := s.hp.heldAccess.filter (fun o => !f o) } }, s.hp.heldAccess.filter f)

/-! ### HELLO and LEAVE -/

/-- HELLO (R429, R520): a port hears its peer; it is not forwarded. A detour in force discards it with every other message (R531). -/
def execHello (m : Msg) (s : State) : Out :=
  when (arrives s m) s
    (let s := credited s 0x31 m
     if discarded s m then s else
     hearHello s m.port m.src.toNat)

/-- R452: the command that a LEAVE concerns: a ring sweep of the object with the sender as neighbour, else a collective (log 41). -/
def leaveTarget (s : State) (object src : Nat) : Option (Nat × Bool × Nat × Nat) :=
  let of (isGroup : Bool) : Option (Nat × Bool × Nat × Nat) := s.cp.table.findSome? (fun c =>
    if c.status.isSome || !c.started then none else
    match neighboursOf s c.fabric with
    | some (g, o, a, b) => if g = isGroup && o = object && (a = src || b = src) then some (c.id, g, a, b) else none
    | none => none)
  of false <|> of true

/-- R466: whether a LEAVE that meets no command concerned a group: one that is in the log already keeps its mark, and another comes from a
member that is a neighbour in the group and not in the ring of its object (log 41). -/
def leaveOfGroup (s : State) (object src lost : Nat) : Bool :=
  if bit s.hp.leave 31 && fld s.hp.leave 23 16 == object % 256 && fld s.hp.leave 15 0 == lost % 65536 then bit s.hp.leave 24
  else
    let e := ringEntry s object
    let g := groupNeighbours s (groupEntry s object)
    (src == g.1 || src == g.2) && !(bit (tw e 0) 0 && (src == ringSucc e || src == ringPred e))

/-- LEAVE (R452): the command ends with PARTNER_LOST and the message is passed on in its direction. -/
def takeLeave (s : State) (m : Msg) : State :=
  let lost := m.aux.toNat
  let o := m.object.toNat
  match leaveTarget s o m.src.toNat with
  | some (id, g, a, b) => sendLeave (endCommand s id St.partnerLost lost) g o lost (if m.src.toNat = b then a else b)
  | none => { s with hp := { s.hp with
      leave := 2 ^ 31 + b2n (leaveOfGroup s o m.src.toNat lost) * 2 ^ 24 + o % 256 * 2 ^ 16 + lost } }

def execLeave (m : Msg) (s : State) : Out := receive s 0x30 m (takeLeave · m)

/-! ### The ring and group tables (R439, R453, R466) -/

/-- R466: a store is refused while a command of the entry is in flight. -/
def entryInUse (s : State) (group : Bool) (i : Nat) : Bool :=
  s.cp.table.any (fun c =>
    if group then (c.opcode == Op.allreduce && fld (c.word 5) 7 0 == i) || (c.opcode == Op.allreduceV && fld (c.word 6) 7 0 == i)
    else (c.opcode == Op.ringSweep && fld (c.word 15) 7 0 == i) || (c.opcode == Op.replay && fld (c.word 2) 7 0 == i))

def storeTable (s : State) : State :=
  let i := fld s.hp.tblSel 7 0
  let group := bit s.hp.tblSel 8
  if entryInUse s group i then { s with hp := { s.hp with tblRefused := true } } else
  let e := (List.range 16).map (fun k => tget 0#32 s.hp.tblWords k)
  let e := if e.all (· == 0#32) then [] else e
  if group then { s with hp := { s.hp with groups := tset [] s.hp.groups i e } }
  else { s with hp := { s.hp with rings := tset [] s.hp.rings i e } }

def loadTable (s : State) : State :=
  let i := fld s.hp.tblSel 7 0
  let e := if bit s.hp.tblSel 8 then groupEntry s i else ringEntry s i
  { s with hp := { s.hp with tblWords := tfill 0#32 [] 0 (if e.isEmpty then List.replicate 16 0#32 else e) } }

/-- A write of HP_TBL_CTRL: the store acts first. -/
def writeTblCtrl (s : State) (v : Nat) : State :=
  let s := { s with hp := { s.hp with tblRefused := s.hp.tblRefused && !bit v 2 } }
  let s := if bit v 0 then storeTable s else s
  if bit v 1 then loadTable s else s

/-- TABLE_STORE (R466). -/
def execTableStore (v : Word) (s : State) : Out := when (s.windowOpen 8 && bit v.toNat 0) s (writeTblCtrl s v.toNat)

/-- TABLE_LOAD (R466). -/
def execTableLoad (v : Word) (s : State) : Out := when (s.windowOpen 8 && bit v.toNat 1) s (writeTblCtrl s v.toNat)

end Sys2Proof.Machine
end

