-- ==== Sys2Proof/Machine/Clock.lean ====
section
/-! DEFINITION. One CCLK without a command (log 2): CP_TIME (R54), the delivered ACLK pulses (R33, R479), the events of the clocks
(R480), and the idle blocks of the links (R427). -/

namespace Sys2Proof.Machine

/-- R33: whether VCLK period `i` of a pattern is kept at a keep ratio of `k`/16. -/
def periodKept (k i : Nat) : Bool := i * k / 16 < (i + 1) * k / 16

/-- R33: the ACLK pulses delivered in the CCLK at place `phase` of a pattern: two VCLK periods of two ACLK each. -/
def pulses (k phase : Nat) : Nat := 2 * (b2n (periodKept k (2 * phase)) + b2n (periodKept k (2 * phase + 1)))

/-- R490: whether ACLK runs: in Run; while a state is entered or left it is taken as stopped (log 2). -/
def aclkRuns (s : State) : Bool := s.bd.power == .run

/-- R38, R565: edges on the reference input are detected once power is on and the cold reset pin is high, before the fuses are loaded
(log 114). -/
def seeReference (s : State) : State :=
  if s.bd.power == .off || s.bd.coldLow then s else { s with bd := { s.bd with refPresent := true } }

/-- A ring that has slots left for an array, and whether the next of them is ready. -/
def ringWaits (s : State) (a id : Nat) : Bool := let x := s.ringAt id; x.reads a < x.plan.length && !x.nextReady a
def ringFeeds (s : State) (a id : Nat) : Bool := (s.ringAt id).nextReady a

/-- The array holds at its operand edge (R134, R188): of a product one of its next slots is not ready; of other work, which reads its rings in
turn, none is, while one has slots left (log 156). -/
def stalled (s : State) (a : Nat) (w : Work) : Bool :=
  let ids := w.rings.map (·.2)
  ids.any (ringWaits s a) && ((w.sweep.isNone && w.scan.isNone && w.band.isNone) || !ids.any (ringFeeds s a))

/-- The command that each stalled array works for. -/
def stalledFor (s : State) : List Nat :=
  s.arr.filterMap (fun p => match p.2.work with | some w => if stalled s p.1 w then some w.cmd else none | none => none)

/-- An array's copy into the latch waits for the tile before it (R141). -/
def copyWaits (s : State) (a : Nat) : Bool :=
  let x := s.array a
  x.latch.isSome && ((x.acc0.isSome && tileComplete s a 0) || (x.acc1.isSome && tileComplete s a 1))

/-- The events that each of `n` ACLK, or each VCLK of two of them, makes in an array and in its rib (R480): a stall, a copy that waits, a full
landing buffer. -/
def cycleEvents (s : State) (n : Nat) : State :=
  (List.range 32).foldl (fun (s : State) a =>
    let s := match (s.array a).work with | some w => noteEvent s 0x03 a (n * b2n (stalled s a w)) | none => s
    noteEvent (noteEvent s 0x04 a (n * b2n (copyWaits s a))) 0x07 a (n / 2 * b2n (!(s.ribOf a).room))) s

/-- R485: the ACLK in which arrays stall are counted for their commands. -/
def countStalls (s : State) (n : Nat) : State :=
  let l := stalledFor s
  if l.isEmpty then s else
  { s with cp := { s.cp with table := s.cp.table.map (fun c =>
      { c with stalls := satAdd 0xFFFFFFFF c.stalls (n * (l.filter (· == c.id)).length) }) } }

/-- An error may arise in stored data at any time (R377 to R379, log 136). -/
def memoryAges (s : State) : State := { s with mem := s.mem.struck (Config.upset s.free), free := s.free + 1 }

/-- The clocks advance by one CCLK, where they run; where they do not, Border still sees the reference input. -/
def tick (s : State) : State :=
  if !s.clocked then memoryAges (seeReference s) else
  let n := pulses s.bd.keep s.bd.phase
  let s := if aclkRuns s then cycleEvents (countStalls s n) n else s
  let s := { s with
    cp := { s.cp with time := (s.cp.time + 1) % 2 ^ 64 },
    tl := { s.tl with aclk := if aclkRuns s then (s.tl.aclk + n) % 2 ^ 64 else s.tl.aclk },
    bd := { s.bd with phase := (s.bd.phase + 1) % 8 } }
  memoryAges (countEvents (idleBlocks s) 0x01 0 1)

end Sys2Proof.Machine
end

