-- ==== Sys2Proof/Machine/Beats.lean ====
section
/-! DEFINITION. The passes and beats of landed tiles (R238 to R241, R249), the built-in chain (R175), the end of a chain (R177, R446) and the
combine of decode splits (R230). -/

namespace Sys2Proof.Machine

/-! ### The passes of a landed tile -/

/-- The point of a tile that no program takes: the row functions of a key band are built in (R201). -/
abbrev noPoint : Nat := 5

/-- The point whose program a landed tile takes (R248). -/
def tilePoint (c : Cmd) (k : Compute) (t : Tile) : Nat :=
  if t.role = roleScore then 2 else if t.role = roleStake then stripPoint c k else if t.role = roleBand then noPoint else 3

/-- The sink that takes a tile's values on (R240; log 117): the built-in chain, or the output stage. -/
def tileSink (c : Cmd) (t : Tile) : Nat := if t.role = roleScore || (t.role = roleStake && c.opcode = Op.softmax) then 5 else 0

/-- The built-in chain alone: a pass without instructions. -/
def chainPass : Pass := ⟨0, 0, 0, 5, true, 0, false⟩

/-- Whether the built-in chain takes a tile (R175, R249, R267): not the score tiles of GEMM2's elementwise kind (R192). -/
def builtIn (c : Cmd) (k : Compute) (t : Tile) : Bool := tileSink c t == 5 && !(c.opcode == Op.gemm2 && !bit (k.s 32) 0)

/-- What the programs of a landed tile see: the stake operand of a strip has the format of its source. -/
def tileEnv (s : State) (a : Nat) (c : Cmd) (k : Compute) (t : Tile) : RibEnv :=
  let e := envFor s c a ((s.ribOf a).bankOf c.id) t.slot
  let f := prologueFormat (tSrc c k).fmt
  if t.role = roleStake && f != .fp64 then { e with slotFmt := f } else e

def tileImage (s : State) (a : Nat) (c : Cmd) (k : Compute) (t : Tile) : Image := (imageAt s a c.id (tilePoint c k t)).getD {}

/-- The passes: those of the program, or the built-in chain, or none for a conversion without a program (R236). -/
def tilePasses (s : State) (a : Nat) (c : Cmd) (k : Compute) (t : Tile) : List Pass :=
  match imageAt s a c.id (tilePoint c k t) with
  | some im => im.passes.map passOf
  | none => if t.role == roleStake && c.opcode == Op.convert then [] else [chainPass]

/-- The coordinates of a landed tile. -/
def tileGeom (s : State) (a : Nat) (c : Cmd) (k : Compute) (t : Tile) : Geom :=
  if t.role = roleStake then stripGeom c t.item
  else if t.role = roleScore then
    let j := jobOf s a c k t.item
    let k0 := j.lo + t.block * j.n
    let g := drainGeom (s.array a) j.form t.rows t.cols ⟨{}, j.outer, j.row0, k0, j.rin, within k0 j.n j.hi⟩
    { g with keyPos := j.kPos.from_ k0, queryPos := j.qPos, head := j.head }
  else if t.role = roleBand then { rowsIn := t.rowsIn, colsIn := t.colsIn }
  else drainGeom (s.array a) k.shape.form t.rows t.cols (outAt s a c k t.item)

/-! ### The built-in chain in a beat (R175, R187) -/

/-- The rows that a beat carries. -/
def beatRows (g : Geom) (b : Nat) : List Nat :=
  (distinct [2 * b / g.parts, (2 * b + 1) / g.parts]).filter (fun r => r < g.rows && g.cols != 0)

/-- The values of a row in the lanes of its beat. -/
def rowOfBeat (g : Geom) (v : List Word) (r : Nat) : List Word :=
  (List.range g.cols).map (fun c => v.getD ((r * g.parts + c / g.width) % 2 * 128 + c % g.width) 0#32)

/-- One row of a score tile, as its score program leaves it and as the rib received it, enters the P slot in hand. What an abandoned sweep gathered before stays, and its rerun gathers again (R190,
log 137). -/
def chainRow (a : Nat) (c : Cmd) (w : Work) (b : Nat) (s : State) (r : Nat) (vals got : List Word) : State :=
  match (s.array a).work with
  | none => s
  | some w' =>
    match w'.sweep with
    | none => s
    | some sw =>
      let k := workOf c
      let j := jobOf s a c k w.item
      let x := rowStep s c a j k b r (sw.states.getD r {}) vals got
      let p := sw.building.getD { block := b }
      let sw := { sw with states := sw.states.set r x.state, building := some { p with p := p.p ++ [x.codes], dec := p.dec ++ [x.dec] } }
      let s := setSweep s a w' sw
      if j.softmax && j.masked then gather s c.id k.midSlot (k.scale k.midSlot) 3 false x.scores x.flags else raiseFlags s x.flags

/-- The rows of a beat of a score tile. -/
def chainBeat (s : State) (a : Nat) (c : Cmd) (w : Work) (g : Geom) (block b : Nat) (v got : List Word) : State :=
  (beatRows g b).foldl (fun s r => chainRow a c w block s r (rowOfBeat g v r) (rowOfBeat g got r)) s

/-! ### The end of a landed tile -/

/-- A rib has no work of its own any more. -/
def freeRib (s : State) (a : Nat) : State :=
  let x := s.ribOf a
  match x.work with
  | some w => leaveRings (s.setRib a { x with work := none }) a w
  | none => s

/-- The pass over a tile of a key band is over: its slot is written. -/
def bandEnd (s : State) (a : Nat) (t : Tile) (m : List (List Word)) : State :=
  match bandTileEnd s a t m with
  | (s, none) => s
  | (s, some ()) => closeBandOf (dropLanding s a) t.cmd t.item

/-- A strip of rows of a rib's own work is finished. -/
def stripEnd (s : State) (a : Nat) (c : Cmd) (k : Compute) (t : Tile) (m : List (List Word)) : State :=
  match stripFinish s c k a t.item m t.matrix with
  | (s, none) => s
  | (s, some ()) =>
    let s := freeRib (dropLanding s a) a
    endWork (itemDone s c.id t.item 1 a) c.id

/-- The last pass of a tile is over: a score tile's P slot is full, an output tile is written, a strip ends. A write that waits leaves
the tile, and PASS_START tries again. -/
def endTile (s : State) (a : Nat) (c : Cmd) (k : Compute) (t : Tile) : State :=
  let m := (tileGeom s a c k t).unbeat (s.ribOf a).out t.matrix
  if t.role = roleScore then dropLanding s a
  else if t.role = roleStake then stripEnd s a c k t m
  else if t.role = roleBand then bandEnd s a t m
  else
    match writeOut s c a (outAt s a c k t.item) m with
    | (s, none) => s
    | (s, some ()) => outDone (dropLanding s a) a t

/-! ### PASS_START (R240, R241, R245) -/

/-- A landed tile that takes passes: not a split partial, and not the last tile of a softmax chain, whose finish takes its programs. -/
def takesPasses (t : Tile) : Bool := t.role == roleScore || (t.role == roleStake && t.whole) || t.role == roleOut || t.role == roleBand

/-- A P slot is free for a score tile (R170, R188). -/
def slotFor (s : State) (a : Nat) (t : Tile) : Bool :=
  t.role != roleScore || (match sweepOf s a with
    | some (_, w, sw) => let x := s.ringAt (w.ring ringP); sw.building.isNone && x.free x.tail
    | none => false)

/-- The next pass of the tile in hand enters the pipeline. An illegal instruction, or a rib store line outside the allocation in Burnoeg
mode, starts no pass and ends the command (R245, R293). -/
def startPass (s : State) (a : Nat) (c : Cmd) (k : Compute) (t : Tile) : State :=
  let x := s.ribOf a
  let ps := tilePasses s a c k t
  let im := tileImage s a c k t
  match ps.drop x.nextPass with
  | [] => endTile s a c k t
  | p :: _ =>
    if x.nextPass = 0 && !slotFor s a t then s
    else if (imageIllegal im).isSome then tileIllegal s c.id 4 a
    else if burnoeg s c && !passInside (ribFirst k) (ribLines k) (tileGeom s a c k t).beats im p then tileIllegal s c.id 3 a
    else s.setRib a { x with pass := some (tilePoint c k t, x.nextPass), beat := 0, chain := builtIn c k t, compat := burnoeg s c }

/-- PASS_START (R241): in descriptor order, after the last write of the pass before it. -/
def execPassStart (a : Nat) (f : Finding) (s : State) : Out :=
  match landed s a with
  | none => .next s
  | some (t, c, k) =>
    let x := s.ribOf a
    let bankOk := k.points.isEmpty || (tget {} x.banks (b2n x.bank)).cmd == c.id
    when (ribOn s a && takesPasses t && x.pass.isNone && c.status.isNone && bankOk) s
      (settle (ribDoes s a c f (fun s => startPass s a c k t)) c.id)

/-! ### BEAT (R238, R239) -/

/-- A pass is over, and after the last one the tile, whose beats the landing buffer no longer holds. -/
def endPass (s : State) (a : Nat) (c : Cmd) (k : Compute) (t : Tile) : State :=
  let x := s.ribOf a
  let last := (tilePasses s a c k t).length ≤ x.nextPass + 1
  let s := s.setRib a { x with pass := none, nextPass := x.nextPass + 1, beat := if last then x.beat else 0, chain := false }
  if last then endTile s a c k t else s

/-- One beat through the current pass; the last pass of a score tile hands its beats to the built-in chain. -/
def runBeat (s : State) (a : Nat) (c : Cmd) (k : Compute) (t : Tile) (n : Nat) : State :=
  let x := s.ribOf a
  let g := tileGeom s a c k t
  let p := (tilePasses s a c k t).getD n chainPass
  let b := x.beat
  let r := passBeat (tileEnv s a c k t) (tileImage s a c k t) p x (g.regs b) (g.beat t.matrix b)
  let y := r.1
  let out := if p.sink = tileSink c t then newBeat y.out b r.2.1 else y.out
  let s := raiseSlotFlags (s.setRib a { y with out := out, beat := b + 1 }) t.slot r.2.2
  let s := noteEvent (if p.sink = 3 then fillPath s c.id a g [(b, r.2.1)] else s) 0x06 a 1
  let s := if t.role = roleScore && n + 1 = (tilePasses s a c k t).length then
      (match sweepOf s a with
      | some (_, w, _) => chainBeat s a c w g t.block b (if p.sink = 5 then r.2.1 else g.beat t.matrix b) (g.beat t.matrix b)
      | none => s) else s
  if b + 1 < g.beats then s else endPass s a c k t

/-- BEAT (R238). -/
def execBeat (a : Nat) (f : Finding) (s : State) : Out :=
  match landed s a, (s.ribOf a).pass with
  | some (t, c, k), some (_, n) => when (ribOn s a && c.status.isNone) s (settle (ribDoes s a c f (fun s => runBeat s a c k t n)) c.id)
  | _, _ => .next s

/-! ### Partial triples (R229, R446) -/

/-- The values of a row: O as FP32, and its state. -/
structure Triple where
  o : List Word := []
  state : RowState := {}
  deriving DecidableEq, Repr

/-- 2^(m − M) on a row, exact or flushed (R230). -/
def alignRow (big : Int) (t : Triple) : List (Word × Sticky) :=
  t.o.map (fun w => decrement w (min 255 (big - t.state.m.getD big).toNat))

/-- The larger of two row maximum exponents. -/
def maxState (a b : Option Int) : Option Int :=
  match a, b with
  | some x, some y => some (max x y)
  | some x, none => some x
  | none, y => y

/-- R230: one split joins the combine; a split without a term adds nothing but its range flag. -/
def joinSplit (big : Option Int) (t : Triple × Sticky) (x : Triple) : Triple × Sticky :=
  match x.state.m, big with
  | some _, some m =>
    let y := alignRow m x
    let z := (t.1.o.zip y).map (fun p => arrayAdd p.1 p.2.1)
    ({ o := z.map (·.1), state := { m := big, l := wAdd t.1.state.l x.state.l, bad := t.1.state.bad || x.state.bad } },
     joinS (t.2 :: y.map (·.2) ++ z.map (·.2)))
  | _, _ => ({ t.1 with state := { t.1.state with bad := t.1.state.bad || x.state.bad } }, t.2)

/-- R230: the splits of a row, in ascending order. -/
def joinSplits (d : Nat) (l : List Triple) : Triple × Sticky :=
  let big := l.foldl (fun m x => maxState m x.state.m) none
  l.foldl (joinSplit big) ({ o := List.replicate d 0#32, state := { m := big } }, .none)

/-- R446: a row of the sweep state takes a row of a shard. -/
def joinState (st x : Triple) : Triple × Sticky :=
  let bad := st.state.bad || x.state.bad
  match st.state.m, x.state.m with
  | some a, some b =>
    let m := max a b
    let p := alignRow m st
    let q := alignRow m x
    let z := (p.zip q).map (fun y => arrayAdd y.1.1 y.2.1)
    ({ o := z.map (·.1), state := { m := some m, l := wAdd st.state.l x.state.l, bad := bad } },
     joinS (p.map (·.2) ++ q.map (·.2) ++ z.map (·.2)))
  | none, some _ => ({ x with state := { x.state with bad := bad } }, .none)
  | _, none => ({ st with state := { st.state with bad := bad } }, .none)

def Triple.ofWords (d : Nat) (ws : List Word) : Triple := ⟨ws.take d, .ofWords (ws.getD d 0#32) (ws.getD (d + 1) 0#32)⟩
def Triple.words (t : Triple) : List Word := t.o ++ [t.state.words.1, t.state.words.2]

/-! ### SWEEP_FINISH (R177) -/

/-- The numbers of the rows that finish as NaN (R184). -/
def badRowsOf (c : Cmd) (j : Job) (sts : List RowState) : List Nat :=
  if c.opcode = Op.gemm2 then ((List.range j.rin).filter (fun r => (sts.getD r {}).bad)).map (fun r => j.outer * c.gm + j.row0 + r)
  else j.nanRows c sts

/-- Rows finish and are written, with what SWEEP_FINISH reports of them. -/
def finishAll (s : State) (c : Cmd) (k : Compute) (a : Nat) (j : Job) (sts : List RowState) (m : List (List Word)) : State × Option Unit :=
  andThen (finishRows s c k a j sts m) (fun s _ => (noteNan s c.id (badRowsOf c j sts), some ()))

/-- The splits of the sequence of a decode item. -/
def splitsOf (k : Compute) (d : DecodeItem) : Nat :=
  let len := (k.snaps.getD d.seq {}).length
  max 1 (cdiv len (splitLen k len))

/-- Where the triple of an item lies: those of sequences with more than one split, in the order of the items (R229). -/
def tripleAt (c : Cmd) (k : Compute) (item : Nat) : Nat :=
  let n := (((decodeItems c k).take item).filter (fun d => 1 < splitsOf k d)).length
  k.scratch + n * (k.shape.m * (k.dim + 2) * 4)

/-- The items of the splits of a row tile. -/
def splitItems (c : Cmd) (k : Compute) (item : Nat) : List Nat :=
  let d := (decodeItems c k).getD item {}
  upTo (item - d.split) (splitsOf k d)

/-- The triple of a split is written: O by rows, then the row states. -/
def writeTriple (s : State) (c : Cmd) (k : Compute) (a item : Nat) (sts : List RowState) (m : List (List Word)) : State × Option Unit :=
  let o := ((m.take k.shape.m).map (·.take k.dim)).flatten
  let st := ((sts.take k.shape.m).map (fun x => [x.words.1, x.words.2])).flatten
  writeVa s c (agentOf a) 2 [(tripleAt c k item, wordBytes (o ++ st))]

/-- A row tile whose splits are all complete is to be combined, by the rib of the array that completed the last one. -/
def splitEnd (s : State) (id a item : Nat) : State :=
  match s.cmd? id with
  | none => s
  | some c =>
    let k := workOf c
    let l := splitItems c k item
    if l.all k.done.contains then mapWork s id (fun k => { k with finish := k.finish ++ [(l.headD 0, a)] }) else s

/-- The rows of the sweep state that a query tile covers: read from the buffer of the step before, or of this step after its clockwise
shard; fresh in step 0 (R446, R447). -/
def stateRow (s : State) (c : Cmd) (k : Compute) (r : Ring) (buffer : Nat) (j : Job) (i : Nat) : Nat :=
  stateArea (ringEntry s r.ring) + buffer % 2 * stateBytes c k + (j.outer * c.queries + j.row0 + i) * (k.dim + 2) * 4

def readStates (s : State) (c : Cmd) (k : Compute) (a : Nat) (r : Ring) (buffer : Nat) (fresh : Bool) (j : Job) : State × Option (List Triple) :=
  if fresh then (s, some (List.replicate j.rin { o := List.replicate k.dim 0#32 })) else
  collectAll s (fun s i => andThen (readAt s c (agentOf a) 2 (.phys (stateRow s c k r buffer j i)) (4 * (k.dim + 2))) (fun s bs =>
    (s, some (Triple.ofWords k.dim (wordsOf bs))))) (List.range j.rin)

/-- R446: a sweep of a ring step is combined into the sweep state. The anticlockwise shard of a query tile follows the clockwise one. -/
def joinRing (s : State) (c : Cmd) (k : Compute) (a : Nat) (r : Ring) (j : Job) (item : Nat) (sts : List RowState) (m : List (List Word)) :
    State × Option Unit :=
  let per := sweepsPer c k
  let second := per ≤ item
  if second && !k.done.contains (item % per) then (s, none) else
  andThen (readStates s c k a r (if second then r.step else r.step + 1) (!second && r.step == 0) j) (fun s old =>
    let new := (m.zip sts).map (fun p => (⟨p.1.take k.dim, p.2⟩ : Triple))
    let x := (old.zip new).map (fun p => joinState p.1 p.2)
    andThen (writeAt s c (agentOf a) 2 ((x.zip (upTo 0 x.length)).map (fun t =>
        (.phys (stateRow s c k r r.step j t.2), wordBytes t.1.1.words)))) (fun s _ =>
      (raiseSlotFlags s j.out.ref.slot (joinS (x.map (·.2))), some ())))

/-- What the end of a softmax chain does with its rows. -/
def sweepRows (s : State) (c : Cmd) (k : Compute) (a item : Nat) (j : Job) (sts : List RowState) (m : List (List Word)) : State × Option Unit :=
  match ringOf c with
  | some r => joinRing s c k a r j item sts m
  | none =>
    if c.opcode == Op.attnDecode && 1 < splitsOf k ((decodeItems c k).getD item {}) then writeTriple s c k a item sts m
    else finishAll s c k a j sts m

/-- The chain of a rib's landed last tile ends. -/
def finishSweep (s : State) (a : Nat) (c : Cmd) (w : Work) (sw : Sweep) (t : Tile) : State :=
  let k := workOf c
  let j := jobOf s a c k w.item
  match fetchDone c.id (agentOf a) (sweepRows s c k a w.item j sw.states t.matrix) with
  | (s, none) => s
  | (s, some ()) =>
    let s := itemDone (clearEnding (dropLanding s a) a) c.id w.item sw.count a
    let s := if c.opcode == Op.attnDecode && 1 < splitsOf k ((decodeItems c k).getD w.item {}) then splitEnd s c.id a w.item else s
    endWork s c.id

/-- SWEEP_FINISH (R177); a finding lies in what the rib reads of its own (R237). -/
def execSweepFinish (a : Nat) (f : Finding) (s : State) : Out :=
  match landed s a, endingOf s a with
  | some (t, _, _), some (c, w, sw) =>
    when (ribOn s a && c.status.isNone && t.role == roleFinal && t.cmd == w.cmd && t.item == w.item) s (ribDoes s a c f (fun s => finishSweep s a c w sw t))
  | _, _ => .next s

/-! ### DECODE_COMBINE (R230) -/

/-- The triples of a split, by row. -/
def readTriple (s : State) (c : Cmd) (k : Compute) (a item : Nat) : State × Option (List Triple) :=
  andThen (readVa s c (agentOf a) 2 (tripleAt c k item) (k.shape.m * (k.dim + 2) * 4)) (fun s bs =>
    let ws := wordsOf bs
    let o := chunksOf k.dim (ws.take (k.shape.m * k.dim))
    let st := chunksOf 2 (ws.drop (k.shape.m * k.dim))
    (s, some ((o.zip st).map (fun p => ⟨p.1, .ofWords (p.2.getD 0 0#32) (p.2.getD 1 0#32)⟩))))

/-- A row tile combined and finished, with what the rib meets (R237). -/
def combineDecode (s : State) (c : Cmd) (k : Compute) (item a : Nat) (f : Finding) : State × Option Unit :=
  andThen (ribFinding s a c f) (fun s _ =>
  andThen (collectAll s (fun s i => readTriple s c k a i) (splitItems c k item)) (fun s xs =>
    let j := jobIn s c k item
    let rows := (List.range j.m).map (fun r => joinSplits k.dim (xs.map (fun l => l.getD r {})))
    let m := rows.map (fun r => padTo' j.wide 0#32 r.1.o)
    andThen (finishAll s c k a j (rows.map (·.1.state)) m) (fun s _ =>
      (raiseSlotFlags s j.out.ref.slot (joinS ((rows.take j.rin).map (·.2))), some ()))))

/-- DECODE_COMBINE (R230): of the row tile whose first split is item `tile`. -/
def execDecodeCombine (id tile : Nat) (f : Finding) (s : State) : Out :=
  match s.cmd? id with
  | none => .next s
  | some c =>
    let k := workOf c
    match k.finish.find? (fun p => p.1 == tile) with
    | none => .next s
    | some p =>
      if !(s.running && c.opcode == Op.attnDecode && c.status.isNone && c.stop.isNone && (k.points.isEmpty || (s.ribOf p.2).hasBank id)) then .next s else
      match fetchDone id (agentOf p.2) (combineDecode s c k tile p.2 f) with
      | (s, none) => .next s
      | (s, some ()) => .next (endWork (mapWork s id (fun k => { k with finish := k.finish.filter (fun q => q.1 != tile) })) id)

/-! ### The commands of fused chains (R75, R126, R166, R192, R225) -/

/-- The flags of f_S and of f_O, evaluated as the command starts (R126). -/
def chainFlags (c : Cmd) (k : Compute) : Sticky × Sticky :=
  let sc (i : Nat) := k.scale (c.ref i).slot
  if c.opcode = Op.gemm2 then
    let sm := k.scale k.midSlot
    ((factorOf (sc 4) [(false, sc 6), (true, sm)]).2,
      if bit (k.s 32) 0 then (factorOf one32 [(false, sc 8), (true, sc 12)]).2 else (factorOf sm [(false, sc 8), (true, sc 12)]).2)
  else
    let coil := c.coilReader
    ((factorOf (sc 4) [(false, if coil then one32 else sc 6), (true, k.scale k.midSlot)]).2,
      (factorOf one32 [(false, if coil then one32 else sc 8), (true, sc 10)]).2)

/-- The flags of the factors of a chain: those of f_O with the slot of its output (R127), those of f_S with the engine. -/
def factorFlags (s : State) (c : Cmd) (k : Compute) : State :=
  let f := chainFlags c k
  raiseSlotFlags (raiseFlags s f.1) (c.ref (if c.opcode = Op.gemm2 then 12 else 10)).slot f.2

/-- What a chain does as it starts. -/
def chainStart (s : State) (c : Cmd) (k : Compute) : State := startWork (factorFlags s c k) c k

/-- GEMM2 (R192). -/
def execGemm2 (q : Nat) (s : State) : Out := startOrPoll s q Op.gemm2 (planGo chainStart)
/-- ATTN_FWD (R166). -/
def execAttnFwd (q : Nat) (s : State) : Out := startOrPoll s q Op.attnFwd (planGo chainStart)
/-- ATTN_DECODE (R225). -/
def execAttnDecode (q : Nat) (s : State) : Out := startOrPoll s q Op.attnDecode (planGo chainStart)

end Sys2Proof.Machine
end

