-- ==== Sys2Proof/Machine/Assign.lean ====
section
/-! DEFINITION. WORK_ITEM_ASSIGN (R292 to R304), array faults and what they abandon (R159, R160, R303, R304). -/

namespace Sys2Proof.Machine

/-! ### Which command an array or rib serves next -/

/-- The kinds that run on ribs alone (R301). -/
def ribOnly (op : Nat) : Bool := op == Op.convert || op == Op.rowstat || op == Op.softmax

/-- The accumulator tile that a Burnoeg step names (R292): 1 tile 0, 2 tile 1, 0 none. -/
def namedAcc (s : State) (c : Cmd) (k : Compute) : Nat := if burnoeg s c then fld (k.s 4) 17 16 else 0

/-- The work of an array uses an accumulator tile: a chain, a scan and a key band use both. -/
def Work.holds (w : Work) (n : Nat) : Bool := w.sweep.isSome || w.scan.isSome || w.band.isSome || w.acc == n

/-- Another command's operation holds accumulator tile `n` of an array. -/
def heldByOther (x : Arr) (id n : Nat) : Bool :=
  (match x.acc n with | some t => t.cmd != id | none => false) || (match x.work with | some w => w.cmd != id && w.holds n | none => false)

/-- Another command's operation holds the accumulator tile that a Burnoeg step names (R158). -/
def accClash (s : State) (a : Nat) (c : Cmd) (k : Compute) : Bool :=
  let n := namedAcc s c k
  n != 0 && heldByOther (s.array a) c.id (n - 1)

/-- The accumulator tile of a GEMM item: the one named, or a free one. -/
def gemmAcc (s : State) (a : Nat) (c : Cmd) (k : Compute) : Option Nat :=
  let x := s.array a
  match namedAcc s c k with
  | 1 => if x.acc0.isNone then some 0 else none
  | 2 => if x.acc1.isNone then some 1 else none
  | _ => if x.acc0.isNone then some 0 else if x.acc1.isNone then some 1 else none

/-- An array can work for a command: online, with no held register write, of the family's form, not re-forming, and its rib holds the
step's programs (R29, R138, R147, R150, R246). -/
def arrayFits (s : State) (a : Nat) (c : Cmd) (k : Compute) : Bool :=
  let x := s.array a
  x.online && !x.retiring && !x.held && x.reforming.isNone && x.current == k.shape.form && (let f := famIn s c k; oversize f || arrayHolds x c k f) &&
  (k.points.isEmpty || (s.ribOf a).hasBank c.id)

/-- The tiles that an item needs are free. -/
def tilesFree (s : State) (a : Nat) (c : Cmd) (k : Compute) : Bool :=
  let x := s.array a
  x.work.isNone && (if c.opcode == Op.gemm then (gemmAcc s a c k).isSome else x.acc0.isNone && x.acc1.isNone)

/-- The free band group that a command's next band would take, once D stands for it (R203, R205, R206). -/
def bandGroupFor (s : State) (c : Cmd) (k : Compute) (item : Nat) : Option (List Nat) :=
  let ready := match ringOf c with
    | some r => r.ready
    | none => k.buffers.any (fun p => p.1 == item / bandCount c)
  if ready then (bandGroups s c k).find? (fun g => g.all (fun a => ribOn s a && arrayFree s a c.id k 0)) else none

/-- A command's next item can go to array or rib `a`. -/
def takesItem (s : State) (a : Nat) (c : Cmd) (k : Compute) (item : Nat) : Bool :=
  if ribOnly c.opcode then ribReady s a c k
  else if stepKind c == Op.attnBwd then ((bandGroupFor s c k item).map (·.contains a)).getD false
  else arrayFits s a c k && (accClash s a c k || tilesFree s a c k)

/-- Array or rib `a` can take the next item of a command. -/
def takes (s : State) (a : Nat) (c : Cmd) : Bool :=
  match computeOf c.run with
  | none => false
  | some k => c.started && c.status.isNone && c.stop.isNone && (match nextItem k with | some item => takesItem s a c k item | none => false)

/-- A ring step that has begun: an item of it has been assigned (R449). -/
def stepBegun (c : Cmd) : Bool := match ringOf c with | some r => r.work.counter != 0 | none => false

/-- A backward ring step that has begun keeps the arrays of its band groups for its next bands, against every command that is no ring step in
progress (R449). -/
def reserved (s : State) (a : Nat) (c : Cmd) : Bool :=
  !stepBegun c && s.cp.table.any (fun x => stepBegun x && stepKind x == Op.attnBwd && x.status.isNone && x.stop.isNone &&
    (nextItem (workOf x)).isSome && (bandGroups s x (workOf x)).any (·.contains a))

/-- The first command of a queue that can take array or rib `a`, of those that `ok` admits. -/
def candidateOf (s : State) (a : Nat) (ok : Cmd → Bool) (q : Nat) : Option Cmd := (s.ofQueue q).find? (fun c => ok c && takes s a c)

/-- The command that R48 serves on array or rib `a`, of those that `ok` admits. -/
def chooseOf (s : State) (a : Nat) (ok : Cmd → Bool) : Option Cmd :=
  (arbitrate s s.cp.lastItem (fun q => (candidateOf s a ok q).isSome)).bind (candidateOf s a ok)

/-- The command served: a ring step that has begun before every other (R449), then by R48. -/
def chooseItem (s : State) (a : Nat) : Option Cmd := chooseOf s a stepBegun <|> chooseOf s a (fun c => !reserved s a c)

/-- R48, R449: an array goes to another command before it goes to `c`. -/
def overruled (s : State) (a : Nat) (c : Cmd) : Bool :=
  reserved s a c || (match chooseItem s a with
    | some x => x.id != c.id && (stepBegun x || (s.queue c.queue).cfg.prio < (s.queue x.queue).cfg.prio)
    | none => false)

/-! ### What is wrong with a tile (R293, R304) -/

/-- In Burnoeg mode, the first resource of a tile that overflows. -/
def tileOverflow (s : State) (c : Cmd) (k : Compute) : Option Nat :=
  if !burnoeg s c then none else
  let r := ringNeed c k (famIn s c k)
  if oversize (famIn s c k) then some 6
  else if 524288 < r.row || 524288 < r.col then some 2
  else if !ringsFit s c k (famIn s c k) then some 5
  else none

/-- R304: the commands with work left whose family no online array holds any more end. -/
def endUnheld (s : State) : State :=
  s.cp.table.foldl (fun (s : State) c =>
    match computeOf c.run with
    | some k =>
      if c.started && c.status.isNone && (nextItem k).isSome && !(burnoeg s c && oversize (famIn s c k)) && holders s c k (famIn s c k) == 0 then
        tileIllegal s c.id 1 k.shape.index
      else s
    | none => s) s

/-! ### The assignment -/

/-- Another item of a command can join the multicast group of `item` (R171): the sweep of the same query rows for the next head of the
same KV head group. -/
def joins (s : State) (c : Cmd) (k : Compute) (item next : Nat) : Bool :=
  let j := jobIn s c k item
  let i := jobIn s c k next
  stepKind c == Op.attnFwd && next < k.items && j.head / k.gqa == i.head / k.gqa && j.row0 == i.row0 && j.right == i.right

/-- The items of a multicast group after the first, each with the next array that is free for it (R171, R302) and that R48 gives no other
command. -/
def groupFrom (s : State) (c : Cmd) (k : Compute) (item : Nat) : List Nat → Nat → List (Nat × Nat)
  | [], _ => []
  | b :: bs, next =>
    if !joins s c k item next then []
    else if ribOn s b && arrayFits s b c k && tilesFree s b c k && !overruled s b c then (b, next) :: groupFrom s c k item bs (next + 1)
    else groupFrom s c k item bs next

/-- The arrays and items of an assignment: a group for the sweeps of ATTN_FWD and of a forward ring step, else one item. An item of the
redo list runs alone. -/
def assignment (s : State) (a : Nat) (c : Cmd) (k : Compute) (item : Nat) : List (Nat × Nat) :=
  if k.redo.isEmpty then (a, item) :: groupFrom s c k item (upTo (a + 1) (31 - a)) (item + 1) else [(a, item)]

/-- An item of a kind starts. -/
def assignKind (s : State) (c : Cmd) (k : Compute) (l : List (Nat × Nat)) : State × Option Unit :=
  let a := (l.headD (0, 0)).1
  let item := (l.headD (0, 0)).2
  if ribOnly c.opcode then assignStrip s c k a item
  else if c.opcode = Op.gemm then (match gemmAcc s a c k with | some n => startGemm s c k a n item | none => (s, none))
  else if c.opcode = Op.scanFwd || c.opcode = Op.scanBwd then assignScan s c k a item
  else startSweeps s c k l

/-- R48: the command served has had its turn. -/
def turnTaken (s : State) (c : Cmd) : State :=
  { s with cp := { s.cp with lastItem := served s.cp.lastItem (s.queue c.queue).cfg.prio c.queue } }

/-- A command's next items go to arrays or a rib; they wait where an operand's translation or a channel does. -/
def assignTo (s : State) (c : Cmd) (k : Compute) (l : List (Nat × Nat)) : State :=
  let a := (l.headD (0, 0)).1
  if accClash s a c k then stopCommand s c.id St.hazard (0x1000 + a) else
  match tileOverflow s c k with
  | some cause => tileIllegal s c.id cause a
  | none =>
    match assignKind s c k l with
    | (s, none) => s
    | (s, some ()) => turnTaken (l.foldl (fun s x => takeItem s c.id x.2) s) c

/-- The array goes on with the work that it holds. -/
def continueArray (s : State) (a : Nat) (w : Work) (f : Finding) : State :=
  match s.cmd? w.cmd with
  | none => s
  | some c =>
    if c.status.isSome || (c.stop.isSome && (w.sweep.isSome || w.scan.isSome || w.band.isSome)) then s else
    match w.sweep, w.scan, bandOf s a with
    | some sw, _, _ => continueSweep s c a w sw f
    | _, some r, _ => continueScan s c a w r f
    | _, _, some (_, _, r, b) => continueBand s c a w r b f
    | _, _, none => continueGemm s c a w f

/-- The rib's strip whose next row is ready. -/
def readyStrip (s : State) (a : Nat) : Option (Cmd × Work) :=
  match (s.ribOf a).work with
  | some w =>
    match s.cmd? w.cmd with
    | some c => if c.status.isNone && (s.ringAt (w.ring ringLeft)).nextReady a then some (c, w) else none
    | none => none
  | none => none

/-- The next item of the command served goes to an array or rib. The band of a backward step is BAND_START's. -/
def assignNext (s : State) (a : Nat) (c : Cmd) : State :=
  let k := workOf c
  if stepKind c = Op.attnBwd then s else
  match nextItem k with
  | some item => assignTo s c k (assignment s a c k item)
  | none => s

/-- A lower-numbered array or rib can take an item (R302). -/
def lowerTakes (s : State) (a : Nat) : Bool := (List.range a).any (fun b => ribOn s b && (chooseItem s b).isSome)

/-- A free array takes a new item, where no lower-numbered one is free for any (R302). -/
def assignNew (s : State) (a : Nat) : State :=
  if lowerTakes s a then s else
  match chooseItem s a with
  | none => s
  | some c => assignNext s a c

/-- The command that is to have an array whose tile another holds, in Burnoeg mode: it is not held (R158). -/
def clashing (s : State) (a : Nat) : Option Cmd :=
  if lowerTakes s a then none else
  (chooseItem s a).filter (fun c => !ribOnly c.opcode && accClash s a c (workOf c))

/-- WORK_ITEM_ASSIGN (R302). A rib takes the next row of its strip once it is ready. An array in the middle of a work item goes on with it: the next segment, tile or step whose slots are ready
(R134), unless the command served next names a tile that it holds (R158); otherwise it takes a new item. A finding lies in the lines that are read, in their order. -/
def execWorkItemAssign (a : Nat) (f : Finding) (s : State) : Out :=
  if !ribOn s a then .next s else
  let s := endUnheld s
  match readyStrip s a, (s.array a).work with
  | some (c, w), _ => .next (continueStrip s c a w f)
  | none, some w => .next (match clashing s a with | some c => assignNext s a c | none => continueArray s a w f)
  | none, none => .next (assignNew s a)

/-! ### BAND_START (R200, R203, R206) -/

/-- BAND_START (R206): the next band of a command takes a free band group once its group's buffer holds D. The command comes before every
other that could take an array of the group (R48, R449). -/
def execBandStart (id : Nat) (s : State) : Out :=
  match bwdCmd s id with
  | none => .next s
  | some (c, k) =>
    match nextItem k with
    | none => .next s
    | some item =>
      match bandGroupFor s c k item with
      | none => .next s
      | some g =>
        let a := g.headD 0
        if (chooseItem s a).map (·.id) != some id || g.any (fun b => overruled s b c) then .next s else
        match tileOverflow s c k with
        | some cause => .next (tileIllegal s id cause a)
        | none =>
          match startBand s c k item g with
          | (s, none) => .next s
          | (s, some ()) => .next (turnTaken s c)

/-! ### Faults (R159, R303) -/

def Tile.isOf (t : Tile) (id item : Nat) : Bool := t.cmd == id && t.item == item
def keepTile (id item : Nat) (t : Option Tile) : Option Tile := match t with | some t => if t.isOf id item then none else some t | none => none

/-- Everything that an array and its rib hold of a work item is discarded, and the array leaves its multicast groups (R155). -/
def discardOn (id item : Nat) (s : State) (a : Nat) : State :=
  let x := s.array a
  let s := s.setArray a { x with
    acc0 := keepTile id item x.acc0, acc1 := keepTile id item x.acc1, latch := keepTile id item x.latch,
    work := (match x.work with | some w => if w.cmd = id && w.item = item then none else some w | none => none),
    ending := x.ending.filter (fun w => !(w.cmd == id && w.item == item)) }
  let s := match x.work with | some w => if w.cmd = id && w.item = item then leaveRings s a w else s | none => s
  let s := if (match (s.ribOf a).landing.head? with | some t => t.isOf id item | none => false) then dropLanding s a else s
  let s := dropFetched s id (agentOf a)
  let r := s.ribOf a
  s.setRib a { r with landing := r.landing.filter (fun t => !t.isOf id item) }

/-- The arrays that run a work item: those of its band, or the one. -/
def itemArrays (k : Compute) (item a : Nat) : List Nat := ((k.bands.find? (fun b => b.item == item)).map (·.arrays)).getD [a]

/-- How often an item has been abandoned. -/
def timesOf (k : Compute) (item : Nat) : Nat := ((k.abandoned.find? (fun r => r.item == item)).map (·.times)).getD 0

/-- R303, R304: an item is abandoned: it goes on the redo list, or, the fourth time, ends its command. -/
def abandon (s : State) (id item a : Nat) : State :=
  match s.cmd? id with
  | none => s
  | some c =>
    let k := workOf c
    let n := timesOf k item + 1
    let s := (itemArrays k item a).foldl (discardOn id item) s
    let s := noteEvent { s with cp := { s.cp with redo := satAdd 0xFFFF s.cp.redo 1 } } 0x13 a 1
    let s := mapWork s id (fun k => { k with
      redo := item :: k.redo, assigned := k.assigned.filter (· != item), bands := k.bands.filter (fun b => b.item != item),
      abandoned := ⟨item, n⟩ :: k.abandoned.filter (fun r => r.item != item) })
    if 4 ≤ n then tileIllegal s id 7 a else s

/-- R159, R160, R164: a fault on an array is counted and recorded; from the fourth on the array takes no further tile. -/
def countFault (s : State) (a cause : Nat) : State :=
  let x := s.array a
  let n := min 15 (x.faultCount + 1)
  s.setArray a { x with faultCount := n, lastFault := cause, retiring := x.retiring || 4 ≤ n }

/-- The tile that a fault strikes: 0 and 1 the accumulator tiles, 2 the drain latch. -/
def struckTile (x : Arr) (t : Nat) : Option Tile := match t with | 0 => x.acc0 | 1 => x.acc1 | _ => x.latch

def arrayFault (s : State) (a t cause : Nat) : State :=
  let struck := struckTile (s.array a) t
  let s := countFault s a cause
  match struck with
  | some t => abandon s t.cmd t.item a
  | none => s

/-- ARRAY_FAULT (R159): a parity error of the operand edge (1), an accumulator (2) or the latch (3). -/
def execArrayFault (a t cause : Nat) (s : State) : Out :=
  when (ribOn s a && t < 3 && 1 ≤ cause && cause ≤ 3) s (arrayFault s a t cause)

/-- ARRAY_PROGRESS_TIMEOUT (R159): a sequencer without progress while it holds a tile. -/
def execArrayProgressTimeout (a t : Nat) (s : State) : Out :=
  when (ribOn s a && t < 2 && (struckTile (s.array a) t).isSome) s (arrayFault s a t 4)

/-- ARRAY_OFFLINE (R160): no accumulator tile is held and the latch is empty. -/
def execArrayOffline (a : Nat) (s : State) : Out :=
  let x := s.array a
  when (s.clocked && a < 32 && x.retiring && x.acc0.isNone && x.acc1.isNone && x.latch.isNone) s
    (endUnheld (s.setArray a { x with retiring := false, offlineCause := 2 }))

end Sys2Proof.Machine
end

