-- ==== Sys2Proof/Machine/Remote.lean ====
section
/-! DEFINITION. PUT and GET and the remote accesses that windows serve (R412, R414, R436 to R438, R492). -/

namespace Sys2Proof.Machine

/-! ### The served side -/

/-- What the check and the access of a window give. An access whose stored data fails has no answer (log 39). -/
inductive Served where
  | done (data : List Byte)
  | refused
  | held (ps : List (Nat × Nat))
  | failed (pa : Nat)
  deriving DecidableEq, Repr

/-- R492: in Rest, and until the return to Run, the stacks are in self refresh; an access to their pages is held. -/
def heldInRest (s : State) (ps : List (Nat × Nat)) : Bool :=
  ps.any (fun p => p.1 < stackEnd && (s.bd.power == .rest || (s.base (stackOf p.1)).selfRefresh))

/-- A write to a window that has passed its check. -/
def writeWindow (s : State) (ps : List (Nat × Nat)) (bs : List Byte) : State × Served :=
  match writeMeets s ps bs with
  | (s, none) => (s, .done [])
  | (s, some pa) => (recordUncorr s pa, .failed pa)

/-- A read of a window that has passed its check. -/
def readWindow (s : State) (ps : List (Nat × Nat)) : State × Served :=
  match readMeets s ps with
  | (s, some pa) => (recordUncorr s pa, .failed pa)
  | (s, none) => (s, .done (readPieces s.mem ps))

/-- R412: an access to window `n`: a write of bytes, or a read of `len` bytes. -/
def serve (s : State) (n sender offset len : Nat) (bs : Option (List Byte)) : State × Served :=
  if !windowAdmits s n sender offset len then (refuseAccess s, .refused) else
  let ps := windowPieces s n offset len
  if heldInRest s ps then (copyWindow (s.setWindow n { s.window n with inflight := (s.window n).inflight + 1 }) n, .held ps) else
  match bs with
  | some bs => writeWindow s ps bs
  | none => readWindow s ps

/-- The answer to a remote message: of the type given, to its sender. -/
def reply (s : State) (type : Nat) (m : Msg) (data : List Byte) : State :=
  sendMsg s (mkMsg s type 3 m.src.toNat m.tag.toNat m.object.toNat m.offset.toNat 0 0 data)

/-- What is sent back for a served access. -/
def answerServed (s : State) (type : Nat) (m : Msg) (r : Served) : State :=
  match r with
  | .done data => reply s (if type = 0x01 then 0x02 else 0x05) m data
  | .refused => reply s (if type = 0x01 then 0x03 else 0x06) m []
  | .held ps => keepMsg s type m ps
  | .failed _ => s

def takePutData (s : State) (m : Msg) : State :=
  let r := serve s m.object.toNat m.src.toNat m.offset.toNat m.data.length (some m.data)
  answerServed r.1 0x01 m r.2

def takeGetReq (s : State) (m : Msg) : State :=
  let r := serve s m.object.toNat m.src.toNat m.offset.toNat m.length.toNat none
  answerServed r.1 0x04 m r.2

/-- PUT_DATA (R412, R436). -/
def execPutData (m : Msg) (s : State) : Out := receive s 0x01 m (takePutData · m)

/-- GET_REQ (R412, R437). -/
def execGetReq (m : Msg) (s : State) : Out := receive s 0x04 m (takeGetReq · m)

/-- R492: an access that was held in Rest, past its check, is made at the places it was checked for. -/
def serveHeld (s : State) (o : OutMsg) : State :=
  let n := o.m.object.toNat
  let w := s.window n
  let s := if w.state = 0 then s else copyWindow (s.setWindow n { w with inflight := w.inflight - 1 }) n
  let r := if o.type = 0x01 then writeWindow s o.pieces o.m.data else readWindow s o.pieces
  answerServed r.1 o.type o.m r.2

/-- The accesses held in Rest are made once the engine is back in Run. -/
def serveAllHeld (s : State) : State :=
  let (s, os) := takeKept s (fun o => o.type == 0x01 || o.type == 0x04)
  os.foldl serveHeld s

/-! ### The asking side -/

/-- The parameters of PUT and GET (R81). -/
def Cmd.remote (c : Cmd) : Nat := fld (c.word 2) 15 0
def Cmd.remoteWindow (c : Cmd) : Nat := fld (c.word 2) 27 16

/-- R462: the start-time checks of PUT and GET. -/
def remoteCheck (s : State) (dest : Nat) : Option Nat :=
  if dest = ownId s then none
  else if !reachable s dest then some 0x0405
  else if !idValid s then some 0x0407
  else none

/-- Messages of up to 4 KiB, in ascending offset. -/
def parcels (len : Nat) : List (Nat × Nat) :=
  (List.range (cdiv len 4096)).map (fun i => (4096 * i, min 4096 (len - 4096 * i)))

def setRun (s : State) (id : Nat) (r : Run) : State := s.mapCmd id (fun c => { c with run := r })

/-- R436, R437: every byte is accounted for. -/
def transportDone (s : State) (id : Nat) (t : Transport) : State :=
  if t.unsent.isEmpty && t.unanswered.isEmpty then decideStatus s id St.ok 0 t.moved else s

/-- A NACK ends the command (R414). -/
def windowClosed (s : State) (id : Nat) (t : Transport) : State := endCommand s id St.windowClosed t.window

/-- R92: the local side of a PUT or GET is translated as a whole before its first message, and the source of a PUT is checked, so that a
fault of it moves nothing. -/
def localCheck (write : Bool) : Nat → State → Cmd → Transport → State × Option Transport
  | 0, s, c, t => (setRun s c.id (.transport t), none)
  | f + 1, s, c, t =>
    if c.word 7 ≤ t.checked then (s, some t) else
    let n := min 4096 (c.word 7 - t.checked)
    match translateRange s (ctxOf s c) (hoopAccess c 3 (c.addr 3 + t.checked) write) (c.addr 3 + t.checked) n with
    | (s, some ps, _) =>
      match (if write then (s, none) else readMeets s ps) with
      | (s, some pa) => (eccEnd s c.id pa, none)
      | (s, none) => localCheck write f s c { t with checked := t.checked + n }
    | (s, none, _) => (setRun s c.id (.transport t), none)

/-- One message of a PUT: read through Hoop's translation, then served here or sent. -/
def putParcel (s : State) (c : Cmd) (t : Transport) (o n : Nat) : State × Option Transport :=
  match translateRange s (ctxOf s c) (hoopAccess c 3 (c.addr 3 + o) false) (c.addr 3 + o) n with
  | (s, some ps, _) =>
    match readMeets s ps with
    | (s, some pa) => (eccEnd s c.id pa, none)
    | (s, none) =>
      let data := readPieces s.mem ps
      if t.remote = ownId s then
        match serve (keepOld s c.id (windowPieces s t.window (c.addr 5 + o) n)) t.window t.remote (c.addr 5 + o) n (some data) with
        | (s, .done _) => (s, some { t with unsent := t.unsent.drop 1, moved := t.moved + n })
        | (s, .refused) => (windowClosed s c.id t, none)
        | (s, .failed pa) => (failCommand s c.id St.eccAbort (eccDetail pa), none)
        | (s, .held _) => (s, none)
      else
        (sendMsg s ((mkMsg s 0x01 3 t.remote (tagOf c.id) t.window (c.addr 5 + o) 0 0 data).by c),
         some { t with unsent := t.unsent.drop 1, unanswered := t.unanswered ++ [(o, n, s.now)] })
  | (s, none, _) => (s, none)

/-- R436: PUT sends what it can. -/
def putSend : Nat → State → Cmd → Transport → State
  | 0, s, c, t => setRun s c.id (.transport t)
  | f + 1, s, c, t =>
    match t.unsent with
    | [] => transportDone (setRun s c.id (.transport t)) c.id t
    | (o, n) :: _ =>
      match putParcel (setRun s c.id (.transport t)) c t o n with
      | (s, some t) => putSend f s c t
      | (s, none) => s

def putGo (f : Nat) (s : State) (c : Cmd) (t : Transport) : State :=
  match localCheck false f s c t with
  | (s, some t) => putSend f s c t
  | (s, none) => s

/-- The local destination of bytes of a GET, for writing. -/
def getTarget (s : State) (c : Cmd) (o n : Nat) : State × Option (List (Nat × Nat)) × Xlate :=
  translateRange s (ctxOf s c) (hoopAccess c 3 (c.addr 3 + o) true) (c.addr 3 + o) n

/-- R437: bytes of a GET are written; what is left when the write is made. -/
def getWrite (s : State) (c : Cmd) (t : Transport) (o n : Nat) (data : List Byte) : State × Option Transport :=
  match getTarget s c o n with
  | (s, some ps, _) =>
    match writeMeets (keepOld s c.id ps) ps data with
    | (s, none) => (s, some { t with moved := t.moved + n })
    | (s, some pa) => (eccWriteEnd s c.id pa, none)
  | (s, none, _) => (s, none)

/-- One request of a GET: its destination is translated first; served here or sent. -/
def getParcel (s : State) (c : Cmd) (t : Transport) (o n : Nat) : State × Option Transport :=
  match getTarget s c o n with
  | (s, some _, _) =>
    if t.remote = ownId s then
      match serve s t.window t.remote (c.addr 5 + o) n none with
      | (s, .done data) => getWrite s c { t with unsent := t.unsent.drop 1 } o n data
      | (s, .refused) => (windowClosed s c.id t, none)
      | (s, .failed pa) => (failCommand s c.id St.eccAbort (eccDetail pa), none)
      | (s, .held _) => (s, none)
    else
      let q := (mkMsg s 0x04 3 t.remote (tagOf c.id) t.window (c.addr 5 + o) 0 0 []).by c
      (sendMsg s { q with m := { q.m with length := BitVec.ofNat 13 n } },
       some { t with unsent := t.unsent.drop 1, unanswered := t.unanswered ++ [(o, n, s.now)] })
  | (s, none, _) => (s, none)

/-- R437: GET asks for what it can, at most 64 requests outstanding. -/
def getAsk : Nat → State → Cmd → Transport → State
  | 0, s, c, t => setRun s c.id (.transport t)
  | f + 1, s, c, t =>
    match t.unsent with
    | [] => transportDone (setRun s c.id (.transport t)) c.id t
    | (o, n) :: _ =>
      if 64 ≤ t.unanswered.length then setRun s c.id (.transport t) else
      match getParcel (setRun s c.id (.transport t)) c t o n with
      | (s, some t) => getAsk f s c t
      | (s, none) => s

def getGo (f : Nat) (s : State) (c : Cmd) (t : Transport) : State :=
  match localCheck true f s c t with
  | (s, some t) => getAsk f s c t
  | (s, none) => s

/-- A bound on the steps of one look at a transfer; what is left is done at the next. -/
abbrev remoteSteps : Nat := 1048577

def startTransport (s : State) (c : Cmd) (go : Nat → State → Cmd → Transport → State) : State :=
  match remoteCheck s c.remote with
  | some d => reject s c d
  | none => go remoteSteps s c { remote := c.remote, window := c.remoteWindow, unsent := parcels (c.word 7) }

/-- The transfers of a queue that are under way, by opcode. -/
def transportsOf (s : State) (q op : Nat) : List (Cmd × Transport) :=
  ((s.ofQueue q).filter (fun c => c.status.isNone && c.opcode == op)).filterMap (fun c =>
    match c.run with | .transport t => some (c, t) | _ => none)

/-- PUT (R436). -/
def execPutRemote (q : Nat) (s : State) : Out :=
  match startable s q Op.put with
  | some c => .next (startTransport (begin_ s c) (begun s c) putGo)
  | none => when s.plaitUp s ((transportsOf s q Op.put).foldl (fun (s : State) p => putGo remoteSteps s p.1 p.2) s)

/-- The transfer that an answer belongs to: by the identifier of R435, its engine and its window. -/
def transportFor (s : State) (op : Nat) (m : Msg) : Option (Cmd × Transport) :=
  s.cp.table.findSome? (fun c =>
    match c.run with
    | .transport t =>
      if c.status.isNone && c.opcode == op && tagOf c.id == m.tag.toNat && t.remote == m.src.toNat && t.window == m.object.toNat
      then some (c, t) else none
    | _ => none)

/-- The unanswered message of a transfer that an answer names by its offset. -/
def answeredPart (c : Cmd) (t : Transport) (m : Msg) : Option (Nat × Nat × Nat) :=
  t.unanswered.find? (fun u => c.addr 5 + u.1 == m.offset.toNat)

def partAnswered (t : Transport) (u : Nat × Nat × Nat) : Transport := { t with unanswered := t.unanswered.filter (fun x => x != u) }

def takePutAck (s : State) (m : Msg) : State :=
  match transportFor s Op.put m with
  | none => s
  | some (c, t) =>
    match answeredPart c t m with
    | none => s
    | some u => putGo remoteSteps s c { partAnswered t u with moved := t.moved + u.2.1 }

/-- PUT_ACK (R436). -/
def execPutAck (m : Msg) (s : State) : Out := receive s 0x02 m (takePutAck · m)

def takeNack (s : State) (op : Nat) (m : Msg) : State :=
  match transportFor s op m with
  | none => s
  | some (c, t) => windowClosed s c.id t

/-- PUT_NACK (R414). -/
def execPutNack (m : Msg) (s : State) : Out := receive s 0x03 m (takeNack · Op.put m)

/-- GET_NACK (R414). -/
def execGetNack (m : Msg) (s : State) : Out := receive s 0x06 m (takeNack · Op.get m)

/-- R437: data arrives for a GET; it waits while its destination waits on a translation. -/
def takeGetData (s : State) (m : Msg) : State :=
  match transportFor s Op.get m with
  | none => s
  | some (c, t) =>
    match answeredPart c t m with
    | none => s
    | some u =>
      match getWrite s c t u.1 u.2.1 (m.data.take u.2.1) with
      | (s, some t) => getGo remoteSteps s c (partAnswered t u)
      | (s, none) => if (s.cmd? c.id).any (fun c => c.status.isNone) then keepMsg s 0x05 m else s

/-- GET_DATA (R437). -/
def execGetData (m : Msg) (s : State) : Out := receive s 0x05 m (takeGetData · m)

/-- The transfers and the data of a queue's GETs are looked at again. -/
def pollGets (s : State) (q : Nat) : State :=
  let (s, os) := takeKept s (fun o => o.type == 0x05)
  let s := os.foldl (fun (s : State) o => takeGetData s o.m) s
  (transportsOf s q Op.get).foldl (fun (s : State) p => getGo remoteSteps s p.1 p.2) s

/-- GET (R437). -/
def execGetRemote (q : Nat) (s : State) : Out :=
  match startable s q Op.get with
  | some c => .next (startTransport (begin_ s c) (begun s c) getGo)
  | none => when s.plaitUp s (pollGets s q)

/-- The ring-step watchdog in CCLK (R438, R451). -/
def watchdog (s : State) : Nat := s.active.ringWatchdogUs * 525

/-- PUT_GET_WATCHDOG (R438, R522): a message has had no answer in time. -/
def execPutGetWatchdog (id : Nat) (s : State) : Out :=
  match s.cmd? id with
  | none => .next s
  | some c =>
    match c.run with
    | .transport t =>
      when (hoopOn s && c.status.isNone && t.unanswered.any (fun u => u.2.2 + watchdog s ≤ s.now)) s
        (endCommand (suspect s 4 (portToward s t.remote) t.remote) id St.partnerLost t.remote)
    | _ => .next s

end Sys2Proof.Machine
end

