-- ==== Sys2Proof/Machine/Collective.lean ====
section
/-! DEFINITION. The collective engine: ALLREDUCE and ALLREDUCE_V (R453 to R463). -/

namespace Sys2Proof.Machine

/-! ### Stages, positions and chunks (R453 to R455, R460) -/

abbrev chunkSlotBytes : Nat := 0x100000

/-- The size of a coordinate axis, and this engine's position on it. -/
def axisSize (s : State) (axis : Nat) : Nat := [s.active.torusX, s.active.torusY, s.active.torusZ].getD axis 1
def axisPos (s : State) (axis : Nat) : Nat :=
  let (x, y, z) := coords s (ownId s)
  [x, y, z].getD axis 0

def Collective.members (s : State) (g : Collective) : List Nat := groupMembers s (groupEntry s g.group)

/-- The members of a stage, this engine's position, and the engine at a position. Axis 3 is the ring over the whole group (R460). -/
def stageSize (s : State) (g : Collective) (axis : Nat) : Nat := if axis = 3 then (g.members s).length else axisSize s axis
def stagePos (s : State) (g : Collective) (axis : Nat) : Nat :=
  if axis = 3 then (g.members s).findIdx (· == ownId s) else axisPos s axis
def stageId (s : State) (g : Collective) (axis k : Nat) : Nat :=
  let (x, y, z) := coords s (ownId s)
  match axis with
  | 0 => idOf s k y z
  | 1 => idOf s x k z
  | 2 => idOf s x y k
  | _ => (g.members s).getD k 0

/-- Chunk `k` of a stage of `p` members: its first element and its elements. -/
def chunkRange (g : Collective) (axis p k : Nat) : Nat × Nat :=
  if axis = 3 then (sumNat (g.counts.take k), g.counts.getD k 0) else
  let (lo, e) := g.ranges.headD (0, 0)
  let c := 16 * cdiv e (16 * p)
  (lo + min (k * c) e, min ((k + 1) * c) e - min (k * c) e)

/-- The chunk that the member at position `r` sends in step `t`, and the one it receives. -/
def sendChunk (gather : Bool) (p r t : Nat) : Nat := if gather then (r + p - t + 1) % p else (r + p - t) % p
def recvChunk (gather : Bool) (p r t : Nat) : Nat := if gather then (r + p - t) % p else (r + 2 * p - t - 1) % p

/-- R457: bytes of an element on the wire. -/
def wireBytes (comp : Nat) : Nat := match comp with | 1 => 2 | 2 => 1 | _ => 4

/-- The step key that the step field carries: the stage and its step (log 40). -/
def stepKey (g : Collective) : Nat := (g.stage * 2 ^ 13 + g.step) % 2 ^ 16

/-- R457: an element as it is sent, and as it is received. -/
def toWire (comp : Nat) (w : Word) : List Byte × Sticky :=
  let x := Fmt.binary32.decode w.toNat
  match comp with
  | 1 => let r := narrowTo .bf16 .rne false x; (Memory.leBytes 2 r.1, r.2)
  | 2 => let r := narrowTo .e5m2 .rne false x; (Memory.leBytes 1 r.1, r.2)
  | _ => (Memory.leBytes 4 w.toNat, .none)

def ofWire (comp : Nat) (bs : List Byte) : Word :=
  match comp with
  | 1 => widenTo32 .bf16 (Memory.ofBytes bs)
  | 2 => widenTo32 .e5m2 (Memory.ofBytes bs)
  | _ => wd (Memory.ofBytes bs)

/-- Elements as wire bytes, with their flags. -/
def packWire (comp : Nat) (ws : List Word) : List Byte × Sticky :=
  let r := ws.map (toWire comp)
  ((r.map (·.1)).flatten, r.foldl (fun f x => f.or x.2) Sticky.none)

/-! ### The local buffer -/

/-- Elements of the buffer, translated for writing or reading by Hoop (agent 65). -/
def bufferPieces (s : State) (c : Cmd) (g : Collective) (first n : Nat) (write : Bool) : State × Option (List (Nat × Nat)) × Xlate :=
  let va := g.addr + 4 * first
  translateRange s (ctxOf s c) (hoopAccess c 2 va write) va (4 * n)

/-- Elements read: none while they wait, or when the command has ended. -/
def readBuffer (s : State) (c : Cmd) (g : Collective) (first n : Nat) : State × Option (List Word) :=
  match bufferPieces s c g first n false with
  | (s, some ps, _) =>
    match readMeets s ps with
    | (s, some pa) => (eccEnd s c.id pa, none)
    | (s, none) => (s, some (wordsOf (readPieces s.mem ps)))
  | (s, none, _) => (s, none)

/-- Elements changed in place. -/
def updateBuffer (s : State) (c : Cmd) (g : Collective) (first n : Nat) (f : List Word → List Word × Sticky) : State × Bool :=
  match readBuffer s c g first n with
  | (s, none) => (s, false)
  | (s, some old) =>
    match bufferPieces s c g first n true with
    | (s, some ps, _) =>
      let (new, fl) := f old
      match writeMeets s ps (wordBytes new) with
      | (s, none) => (raiseFlags s fl, true)
      | (s, some pa) => (eccEnd s c.id pa, false)
    | (s, none, _) => (s, false)

/-! ### Progress -/

/-- R458: the slots that an incoming chunk of some bytes takes, and how many of them are granted after `freed` have come free, of the 8 that
a command holds. -/
def chunkSlots (bytes : Nat) : Nat := cdiv bytes chunkSlotBytes
def grantedBy (bytes freed : Nat) : Nat := min (chunkSlots bytes) (8 + freed)

/-- Slot grants to the predecessor of the stage, one message each (R458, log 40). -/
def grantSlots (s : State) (c : Cmd) (g : Collective) (dest : Nat) : Nat → State
  | 0 => s
  | n + 1 => grantSlots (sendMsg s ((mkMsg s 0x23 0 dest (tagOf c.id) g.group 0 (stepKey g) 0 []).by c)) c g dest n

/-- The next stage. -/
def nextStage (g : Collective) (axis p r : Nat) (gather : Bool) : Collective :=
  let ranges := if axis = 3 then g.ranges else if gather then g.ranges else chunkRange g axis p r :: g.ranges
  let g := { g with
    stages := g.stages.drop 1, ranges := ranges, stage := g.stage + 1, step := 1, entered := false, widened := false,
    signalled := false, sent := 0, got := 0 }
  match g.stages with
  | (true, a) :: _ => if a = 3 then g else { g with ranges := g.ranges.drop 1 }
  | _ => g

/-- R457: before an all-gather stage sends, the owner's chunk takes its widened form. -/
def widenOwn (s : State) (c : Cmd) (g : Collective) (axis p r : Nat) : State × Bool :=
  let (first, n) := chunkRange g axis p r
  if g.comp = 0 || n = 0 then (s, true) else
  updateBuffer s c g first n (fun ws =>
    let x := ws.map (toWire g.comp)
    (x.map (fun y => ofWire g.comp y.1), x.foldl (fun f y => f.or y.2) Sticky.none))

/-- What one look at a collective gives: it goes on with a new standing, or it stops for now. -/
abbrev Look := State × Option Collective

/-- One message of the chunk in hand, if a granted slot has room for it. -/
def sendPart (s : State) (c : Cmd) (g : Collective) (axis p r first n : Nat) : Look :=
  let e := wireBytes g.comp
  if tget 0 g.grants (stepKey g) * chunkSlotBytes ≤ g.sent * e then (s, none) else
  let k := min (4096 / e) (n - g.sent)
  match readBuffer s c g (first + g.sent) k with
  | (s, none) => (s, none)
  | (s, some ws) =>
    let (bs, fl) := packWire g.comp ws
    let s := raiseFlags s fl
    (sendMsg s ((mkMsg s 0x20 2 (stageId s g axis ((r + 1) % p)) (tagOf c.id) g.group (g.sent * e) (stepKey g) 0 bs).by c),
     some { g with sent := g.sent + k })

/-- One move of a step: grants, the owner's widened chunk, data, the signal with its byte count in the offset field (log 40), and the end of
the step. -/
def stepMove (s : State) (c : Cmd) (g : Collective) (gather : Bool) (axis : Nat) : Look :=
  let p := stageSize s g axis
  let r := stagePos s g axis
  if p ≤ 1 || p ≤ g.step then (s, some (nextStage g axis p r gather)) else
  let e := wireBytes g.comp
  let (first, n) := chunkRange g axis p (sendChunk gather p r g.step)
  let (_, want) := chunkRange g axis p (recvChunk gather p r g.step)
  if !g.entered then
    (grantSlots s c g (stageId s g axis ((r + p - 1) % p)) (grantedBy (want * e) 0), some { g with entered := true })
  else if gather && !g.widened then
    match widenOwn s c g axis p r with
    | (s, true) => (s, some { g with widened := true })
    | (s, false) => (s, none)
  else if g.sent < n then sendPart s c g axis p r first n
  else if !g.signalled then
    (sendMsg s ((mkMsg s 0x21 0 (stageId s g axis ((r + 1) % p)) (tagOf c.id) g.group (n * e) (stepKey g) 0 []).by c),
     some { g with signalled := true })
  else if g.signals.any (fun x => x.1 == stepKey g && x.2 ≤ g.got) then
    (s, some { g with step := g.step + 1, entered := false, signalled := false, sent := 0, got := 0,
                      signals := g.signals.filter (fun x => x.1 != stepKey g), grants := tdel g.grants (stepKey g) })
  else (s, none)

/-- A collective goes on as far as it can. -/
def collectiveGo : Nat → State → Cmd → Collective → State
  | 0, s, c, g => setRun s c.id (.collective g)
  | f + 1, s, c, g =>
    if g.agreeing then setRun s c.id (.collective g) else
    match g.stages with
    | [] =>
      let s := setRun s c.id (.collective g)
      if sentDone s c.id then decideStatus s c.id St.ok 0 g.total else s
    | (gather, axis) :: _ =>
      match stepMove s c g gather axis with
      | (s, some g) => collectiveGo f s c g
      | (s, none) => setRun s c.id (.collective g)

/-! ### Messages -/

/-- R354, R456, R458: received elements that lie in the reduction buffer are added to the local buffer, or stored in it. -/
def takeElements (s : State) (c : Cmd) (g : Collective) (gather : Bool) (first : Nat) (ws : List Word) : State × Bool :=
  updateBuffer s c g first ws.length (fun old =>
    if gather then (ws, .none) else
    let x := (ws.zip old).map (fun p => arrayAdd p.1 p.2)
    (x.map (·.1), x.foldl (fun f y => f.or y.2) Sticky.none))

/-- Where a chunk's bytes land in the reduction buffer: the slots of the command in turn. -/
def landingPlace (g : Collective) (offset : Nat) : Nat := reduceLo + (g.slot % 8) * 8 * chunkSlotBytes + offset % (8 * chunkSlotBytes)

/-- A part of a chunk: it lands in a slot, once, is worked off from there (`f` is what that read finds), and frees the slot when that is
full (R379, R458, R463). -/
def takeChunk (s : State) (c : Cmd) (g : Collective) (gather : Bool) (axis : Nat) (m : Msg) (landed : Bool) (f : Finding) : State :=
  let p := stageSize s g axis
  let r := stagePos s g axis
  let e := wireBytes g.comp
  let (first, n) := chunkRange g axis p (recvChunk gather p r g.step)
  let off := m.offset.toNat
  let k := min (m.data.length / e) (n - off / e)
  let place := landingPlace g off
  let s := if landed then s else (writeMeets s [(place, m.data.length)] m.data).1
  let s := if f.place < m.data.length then meetAt s (place + f.place) f else s
  match readMeets s [(place, m.data.length)] with
  | (s, some pa) => eccEnd s c.id pa
  | (s, none) =>
    match takeElements s c g gather (first + off / e) ((chunksOf e (m.data.take (k * e))).map (ofWire g.comp)) with
    | (s, true) =>
      let got := g.got + k * e
      let more := grantedBy (n * e) (got / chunkSlotBytes) - grantedBy (n * e) (g.got / chunkSlotBytes)
      let s := grantSlots s c g (stageId s g axis ((r + p - 1) % p)) more
      collectiveGo remoteSteps s c { g with got := got }
    | (s, false) => if (s.cmd? c.id).any (fun c => c.status.isNone) then keepMsg s 0x20 m [] true else s

/-- R461: the values of a counts table: its CRC-32C and the low bits of its total. -/
def countsValue (g : Collective) : Nat × Nat :=
  ((crc32c ((g.counts.map (fun n => Memory.leBytes 4 n)).flatten)).toNat, sumNat g.counts % 2 ^ 16)

/-- R461: COUNTS pass once around the ring; each member compares them with its own (log 42). -/
def takeCounts (s : State) (c : Cmd) (g : Collective) (m : Msg) : State :=
  let ms := g.members s
  let p := ms.length
  let r := ms.findIdx (· == ownId s)
  let succ := ms.getD ((r + 1) % p) 0
  let s := if m.src.toNat = succ then s else sendMsg s { type := 0x22, cls := 0, m := { m with dest := BitVec.ofNat 16 succ } }
  let g := { g with heard := g.heard + 1, differ := g.differ || (m.offset.toNat, m.aux.toNat) != countsValue g }
  if g.heard < p - 1 then setRun s c.id (.collective g)
  else if g.differ then decideStatus (setRun s c.id (.collective g)) c.id St.planRejected 0x0408 g.total
  else collectiveGo remoteSteps s c { g with agreeing := false }

/-- Whether a message is of the next collective of the group: its step is one that the running collective has left behind (R458). -/
def ofNext (g : Collective) (type : Nat) (m : Msg) : Bool :=
  if type = 0x22 then !g.agreeing else g.stages.isEmpty || m.step.toNat < stepKey g

/-- R435, R458: the collective of a message: the one that knows the sender's command by its identifier, else the first of the group that
knows no command of the sender, which is then this one (log 40). -/
def collectiveFor (s : State) (type : Nat) (m : Msg) : Option (Cmd × Collective) :=
  let key := (m.src.toNat, m.tag.toNat)
  let l : List (Cmd × Collective) := s.cp.table.filterMap (fun c =>
    match c.run with
    | .collective g => if c.status.isNone && g.group == m.object.toNat then some (c, g) else none
    | _ => none)
  match l.find? (fun p => p.2.senders.contains key) with
  | some p => some p
  | none => (l.find? (fun p => p.2.senders.all (fun x => x.1 != key.1) && !ofNext p.2 type m)).map
      (fun p => (p.1, { p.2 with senders := p.2.senders ++ [key] }))

/-- A message of the collective engine, for its command; it is kept while that does not run or the message comes early, and one of a
command that has ended here is dropped. -/
def takeCollective (s : State) (type : Nat) (m : Msg) (landed : Bool) (f : Finding) : State :=
  if s.hp.past.contains (m.object.toNat, m.src.toNat, m.tag.toNat) then s else
  match collectiveFor s type m with
  | none => keepMsg s type m [] landed
  | some (c, g) =>
    let s := setRun s c.id (.collective g)
    match type with
    | 0x20 =>
      match g.stages with
      | (gather, axis) :: _ =>
        if !g.agreeing && g.entered && m.step.toNat = stepKey g then takeChunk s c g gather axis m landed f else keepMsg s type m [] landed
      | [] => s
    | 0x21 => collectiveGo remoteSteps s c { g with signals := g.signals ++ [(m.step.toNat, m.offset.toNat)] }
    | 0x22 => takeCounts s c g m
    | _ => collectiveGo remoteSteps s c { g with grants := tmod 0 g.grants m.step.toNat (· + 1) }

/-- CHUNK_DATA (R458), and what the read of its slot finds (R463). -/
def execChunkData (m : Msg) (f : Finding) (s : State) : Out := receive s 0x20 m (takeCollective · 0x20 m false f)
/-- CHUNK_SIGNAL (R458). -/
def execChunkSignal (m : Msg) (s : State) : Out := receive s 0x21 m (takeCollective · 0x21 m false {})
/-- COUNTS (R461). -/
def execCounts (m : Msg) (s : State) : Out := receive s 0x22 m (takeCollective · 0x22 m false {})
/-- SLOT_GRANT (R458). -/
def execSlotGrant (m : Msg) (s : State) : Out := receive s 0x23 m (takeCollective · 0x23 m false {})

/-! ### Start -/

/-- The kept messages of a group. -/
def isFor (group : Nat) (o : OutMsg) : Bool := 0x20 ≤ o.type && o.type ≤ 0x23 && o.m.object.toNat == group

/-- Kept messages of a group are delivered again. -/
def redeliver (s : State) (group : Nat) : State :=
  let (s, os) := takeKept s (isFor group)
  os.foldl (fun (s : State) o => takeCollective s o.type o.m o.landed {}) s

/-- R462: the start-time checks of a group. -/
def groupCheck (s : State) (e : List Word) : Option Nat :=
  if !bit (tw e 0) 0 then some 0x0404
  else if 1 < (groupMembers s e).length && !idValid s then some 0x0407
  else none

/-- The collective commands in flight on this engine. -/
def collectives (s : State) : List Collective :=
  s.cp.table.filterMap (fun c => match c.run with | .collective g => some g | _ => none)

/-- R458: at most 8 are in flight; a free eighth of the reduction buffer. -/
def freeSlot (s : State) : Option Nat := (List.range 8).find? (fun k => (collectives s).all (fun g => g.slot != k))

/-- The axes of a group's mask in the order X, Y, Z (R454). -/
def maskAxes (e : List Word) : List Nat := ([0, 1, 2] : List Nat).filter (fun a => bit (tw e 0) (a + 1))

/-- A collective begins, and takes what has already arrived for it. -/
def beginCollective (s : State) (c : Cmd) (g : Collective) : State :=
  redeliver (collectiveGo remoteSteps (s.mapCmd c.id (·.startedAt s.cp.time)) c g) g.group

def allreduceStep (s : State) (c : Cmd) : State :=
  let group := fld (c.word 5) 7 0
  let e := groupEntry s group
  match groupCheck s e with
  | some d => reject s c d
  | none =>
    let n := c.word 4
    let axes := maskAxes e
    if (groupMembers s e).length ≤ 1 then decideStatus s c.id St.ok 0 n else
    match freeSlot s with
    | none => hold_ s c
    | some k => beginCollective s c
        { group := group, addr := c.addr 2, total := n, comp := fld (c.word 5) 11 8, ranges := [(0, n)], slot := k,
          stages := axes.map (fun a => (false, a)) ++ axes.reverse.map (fun a => (true, a)) }

/-- The members' counts are read and announced (R460, R461). -/
def allreduceVStep (s : State) (c : Cmd) : State :=
  let group := fld (c.word 6) 7 0
  let e := groupEntry s group
  match groupCheck s e with
  | some d => reject s c d
  | none =>
    let ms := groupMembers s e
    match plaitRead s c 4 (c.addr 4) (4 * ms.length) with
    | (s, none) => wait_ s c
    | (s, some bs) =>
      let counts := (wordsOf bs).map (·.toNat)
      let s := s.mapCmd c.id (fun c => { c with elements := sumNat counts })
      if 2 ^ 32 ≤ sumNat counts then reject s c 0x0409
      else if ms.length ≤ 1 then decideStatus s c.id St.ok 0 (sumNat counts)
      else match freeSlot s with
      | none => hold_ s c
      | some k =>
        let g : Collective := { group := group, addr := c.addr 2, total := sumNat counts, comp := fld (c.word 6) 11 8, counts := counts,
                                stages := [(false, 3), (true, 3)], agreeing := true, slot := k }
        let v := countsValue g
        let succ := ms.getD ((ms.findIdx (· == ownId s) + 1) % ms.length) 0
        beginCollective (sendMsg s ((mkMsg s 0x22 0 succ (tagOf c.id) group v.1 0 v.2 []).by c)) c g

/-- The collectives of a queue that are under way. -/
def collectivesOf (s : State) (q op : Nat) : List (Cmd × Collective) :=
  ((s.ofQueue q).filter (fun c => c.status.isNone && c.opcode == op)).filterMap (fun c =>
    match c.run with | .collective g => some (c, g) | _ => none)

/-- A collective row: it starts the command of a queue, and otherwise looks again at those that wait or run. -/
def collectiveRow (s : State) (q op : Nat) (f : State → Cmd → State) : Out :=
  match startable s q op with
  | some c => .next (f (begin_ s c) (begun s c))
  | none =>
    when s.plaitUp s
      (let s := (waitingOf s q op).foldl f s
       (collectivesOf s q op).foldl (fun (s : State) p => redeliver (collectiveGo remoteSteps s p.1 p.2) p.2.group) s)

/-- ALLREDUCE (R454). -/
def execAllreduce (q : Nat) (s : State) : Out := collectiveRow s q Op.allreduce allreduceStep
/-- ALLREDUCE_V (R460). -/
def execAllreduceV (q : Nat) (s : State) : Out := collectiveRow s q Op.allreduceV allreduceVStep

end Sys2Proof.Machine
end

