-- ==== Sys2Proof/Machine/Jtag.lean ====
section
/-! DEFINITION. The boundary-scan chain (R561): RM0, WD00 to WD15, RM1, numbered 0 to 17 from TDI. -/

namespace Sys2Proof.Machine

/-- R561: the IDCODE of a die. -/
def dieId (d : Nat) : Word := if d = 0 || d = 17 then 0x1D202973#32 else 0x1D201973#32

/-- The die as an instruction leaves it while COLD_RST_N is low (`cold`) or high: EXTEST, CLAMP and HIGHZ act only while it is low, and
otherwise they behave as BYPASS. `selected` is 0 for the boundary register, 1 for the device identification register and 2 for
the bypass register (IEEE 1149.1). -/
def jtagDie (cold : Bool) (d : Nat) (i : Scan) : Jtag :=
  match i with
  | .bypass => { ir := i, selected := 2 }
  | .idcode => { ir := i, selected := 1, shifted := dieId d }
  | .samplePreload => { ir := i, selected := 0 }
  | .extest => { ir := i, selected := if cold then 0 else 2, external := cold }
  | .clamp => { ir := i, selected := 2, pinsHeld := cold }
  | .highz => { ir := i, selected := 2, pinsFloat := cold }

/-- R561: what the loaded instructions of the dies do once COLD_RST_N is low (`cold`) or high. Only EXTEST, CLAMP and HIGHZ depend on
the pin. -/
def rescan (cold : Bool) (l : List (Nat × Jtag)) : List (Nat × Jtag) :=
  l.map (fun p => match p.2.ir with
    | .extest | .clamp | .highz => (p.1, { jtagDie cold p.1 p.2.ir with shifted := p.2.shifted })
    | _ => p)

/-- An instruction of the chain takes effect on a die. -/
def scanInstruction (d : Nat) (i : Scan) (s : State) : Out :=
  when (d < 18 && s.bd.power != .off) s (s.setDie d (jtagDie s.bd.coldLow d i))

/-- BYPASS (R561). -/
def execBypass (d : Nat) (s : State) : Out := scanInstruction d .bypass s
/-- IDCODE (R561). -/
def execIdcode (d : Nat) (s : State) : Out := scanInstruction d .idcode s
/-- SAMPLE/PRELOAD (R561). -/
def execSamplePreload (d : Nat) (s : State) : Out := scanInstruction d .samplePreload s
/-- EXTEST (R561). -/
def execExtest (d : Nat) (s : State) : Out := scanInstruction d .extest s
/-- CLAMP (R561). -/
def execClamp (d : Nat) (s : State) : Out := scanInstruction d .clamp s
/-- HIGHZ (R561). -/
def execHighz (d : Nat) (s : State) : Out := scanInstruction d .highz s

end Sys2Proof.Machine
end

