-- ==== Sys2Proof/Machine/Border.lean ====
section
/-! DEFINITION. Border (chapter 14): configuration sets, power states, caps and limits, resets and pins, the regulators, and the
bring-up steps of chapter 16. -/

namespace Sys2Proof.Machine

/-! ### Configuration sets (R504 to R509) -/

/-- R507: the field IDs, ascending. -/
def fieldIds : List Nat :=
  [0x01, 0x02, 0x03, 0x04, 0x10, 0x11, 0x12, 0x13, 0x20, 0x21, 0x30, 0x31, 0x32, 0x33, 0x34, 0x40, 0x41, 0x42, 0x43, 0x44]

/-- The value of a field of a set. -/
def CfgSet.get (c : CfgSet) (id : Nat) : Nat :=
  match id with
  | 0x01 => c.engineId | 0x02 => c.torusX | 0x03 => c.torusY | 0x04 => c.torusZ
  | 0x10 => c.detour0 | 0x11 => c.detour1 | 0x12 => c.detour2 | 0x13 => c.detour3
  | 0x20 => c.ringWatchdogUs | 0x21 => c.heartbeatMs | 0x30 => c.fp8OvfNan | 0x31 => c.histBase
  | 0x32 => c.scEnable | 0x33 => c.scMargin | 0x34 => c.scWindow
  | 0x40 => c.thrOn | 0x41 => c.thrHyst | 0x42 => c.throttleMax | 0x43 => c.cutTarget | 0x44 => c.excursionUs
  | _ => 0

/-- A set with one field changed. -/
def CfgSet.put (c : CfgSet) (id v : Nat) : CfgSet :=
  match id with
  | 0x01 => { c with engineId := v } | 0x02 => { c with torusX := v }
  | 0x03 => { c with torusY := v } | 0x04 => { c with torusZ := v }
  | 0x10 => { c with detour0 := v } | 0x11 => { c with detour1 := v }
  | 0x12 => { c with detour2 := v } | 0x13 => { c with detour3 := v }
  | 0x20 => { c with ringWatchdogUs := v } | 0x21 => { c with heartbeatMs := v }
  | 0x30 => { c with fp8OvfNan := v } | 0x31 => { c with histBase := v }
  | 0x32 => { c with scEnable := v } | 0x33 => { c with scMargin := v } | 0x34 => { c with scWindow := v }
  | 0x40 => { c with thrOn := v } | 0x41 => { c with thrHyst := v } | 0x42 => { c with throttleMax := v }
  | 0x43 => { c with cutTarget := v } | 0x44 => { c with excursionUs := v }
  | _ => c

/-- The nearer bound of a range. -/
def clampTo (lo hi v : Nat) : Nat := max lo (min hi v)

/-- R507: the value that takes the place of an out-of-range one; a legal value is itself. -/
def legalValue (id v : Nat) : Nat :=
  match id with
  | 0x01 => v % 2 ^ 17
  | 0x02 | 0x03 | 0x04 => clampTo 1 32768 v
  | 0x10 | 0x11 | 0x12 | 0x13 => if fld v 2 0 ≤ 5 && v &&& 0x107 == v then v else 0
  | 0x20 => clampTo 1000 1000000 v
  | 0x21 => clampTo 1 1000 v
  | 0x30 | 0x32 => min v 1
  | 0x31 => (BitVec.ofInt 32 (max (-149) (min 66 (sNat v)))).toNat
  | 0x33 => min v 7
  | 0x34 | 0x42 => clampTo 1 16 v
  | 0x40 => clampTo 85 105 v
  | 0x41 => clampTo 1 10 v
  | 0x43 => clampTo 900 1200 v
  | 0x44 => min v 5000
  | _ => v

/-- R506: the entries for the fields replaced, in ascending field ID. -/
def clampEntries (c : CfgSet) : List ClampEntry :=
  fieldIds.filterMap (fun id => if legalValue id (c.get id) = c.get id then none else some ⟨id, c.get id, legalValue id (c.get id)⟩)

def clampedSet (c : CfgSet) : CfgSet := fieldIds.foldl (fun (d : CfgSet) id => d.put id (legalValue id (c.get id))) c

/-- R471: the bins of every slot are zeroed. -/
def zeroBins (s : State) : State :=
  { s with tl := { s.tl with slots := (s.tl.slots.map (fun p => (p.1, { p.2 with bins := [] }))).filter (fun p => p.2 != {}) } }

/-- R506: the checked shadow becomes active, and the former active set the shadow. -/
def swapSets (s : State) : State :=
  let old := s.active
  let entries := clampEntries s.shadow
  let s := s.setShadow (clampedSet s.shadow)
  let s := { s with bd := { s.bd with
    activeB := !s.bd.activeB, clampLog := entries.take 64, swapCount := (s.bd.swapCount + 1) % 65536 } }
  if s.active.histBase = old.histBase then s else zeroBins s

/-- CFG_SWAP: its start waits for every earlier command (R506); one CCLK then does the whole. -/
def cfgSwapStep (s : State) (c : Cmd) : State :=
  let n := (clampEntries s.shadow).length
  let s := swapSets s
  if n = 0 then succeed s c else decideStatus s c.id St.okClamped (min n 64) n

def execCfgSwap (q : Nat) (s : State) : Out := startCmd s q Op.cfgSwap cfgSwapStep

/-- R82: the pairs of a CFG_WRITE_SHADOW that are not empty. -/
def shadowPairs (c : Cmd) : List (Nat × Nat) :=
  (([2, 4, 6, 8, 10, 12, 14] : List Nat).map (fun i => (fld (c.word i) 15 0, c.word (i + 1)))).filter (fun p => p.1 != 0)

def cfgWriteShadowStep (s : State) (c : Cmd) : State :=
  if (shadowPairs c).any (fun p => !fieldIds.contains p.1) then reject s c 0x0501
  else succeed (s.setShadow ((shadowPairs c).foldl (fun (d : CfgSet) p => d.put p.1 p.2) s.shadow)) c

/-- CFG_WRITE_SHADOW (R505). -/
def execCfgWriteShadow (q : Nat) (s : State) : Out := startCmd s q Op.cfgWriteShadow cfgWriteShadowStep

/-- The set that BD_CFG_SEL names. -/
def selectedSet (s : State) : CfgSet := if s.bd.cfgSelB then s.bd.setB else s.bd.setA

/-- R505, R517: a write of BD_CFG_DATA. -/
def writeCfgData (s : State) (v : Nat) : State :=
  if s.bd.cfgSelB == s.bd.activeB || !fieldIds.contains s.bd.cfgSelField then { s with bd := { s.bd with cfgRefused := true } }
  else s.setShadow (s.shadow.put s.bd.cfgSelField v)

/-- BD_CFG_DATA_WRITE (R505). -/
def execBdCfgDataWrite (v : Word) (s : State) : Out := when (s.windowOpen 10) s (writeCfgData s v.toNat)

/-! ### Power states (R30, R490 to R493) -/

/-- R491: a target written to BD_PWR_CTRL. On the way into Idle or Rest, the target is taken as from that state, so that it waits under
R30 until the state is reached; 0 cancels the entry (log 93). Returning to Run, it is kept for when Run is reached. -/
def writeTarget (s : State) (t : Nat) : State :=
  let b := s.bd
  match b.power with
  | .run => { s with bd := { b with target := t, waiting := t != 0 } }
  | .idle | .entering 1 =>
    if t = 0 then { s with bd := { b with target := 0, waiting := false, power := .returning } }
    else { s with bd := { b with target := t, waiting := t != 1 } }
  | .rest | .entering 2 =>
    if t = 0 then { s with bd := { b with target := 0, waiting := false, power := .returning } }
    else if t = 3 then { s with bd := { b with target := 3, waiting := true } } else s
  | .park => if t = 0 then { s with bd := { b with target := 0, exitDue := true } } else s
  | .entering _ => s
  | .returning => { s with bd := { b with target := t, waiting := t != 0 } }
  | .off => s

def target (t : Nat) (s : State) : Out := when (s.windowOpen 10) s (writeTarget s t)

/-- TARGET_RUN (R491). -/
def execTargetRun (s : State) : Out := target 0 s
/-- TARGET_IDLE (R491). -/
def execTargetIdle (s : State) : Out := target 1 s
/-- TARGET_REST (R491). -/
def execTargetRest (s : State) : Out := target 2 s
/-- TARGET_PARK (R491). -/
def execTargetPark (s : State) : Out := target 3 s

/-- R30: every queue is empty and no command is in flight. -/
def quiet (s : State) : Bool :=
  s.cp.table.isEmpty && s.cp.queues.all (fun p => p.2.st == .disabled || p.2.head == p.2.doorbell)

/-- POWER_STATE_ENTRY (R30, R502): a waiting target's state is entered once Plait reports that nothing is in flight. -/
def execPowerStateEntry (s : State) : Out :=
  let b := s.bd
  let from_ := (b.power == .rest || ((b.power == .run || b.power == .idle) && s.plaitUp)) && quiet s
  let s1 := if b.target = 3 then writeQmap s else s
  when (b.waiting && from_) s { s1 with bd := { s1.bd with power := .entering b.target, waiting := false } }

/-- R513: the rails that are off in Park, in the order in which they go. -/
def parkRails : List Nat := [7, 6, 5, 3, 2, 1]

/-- R512: whether a rail is present. -/
def railPresent (s : State) (r : Nat) : Bool := bit (tget 0 s.bd.pmbAddr r) 7

/-- R513, R514: a command goes to a rail. -/
def sendRail (s : State) (r : Nat) (c : RailCmd) : State := { s with bd := { s.bd with railCmd := tset .none s.bd.railCmd r c } }

/-- R513: on Park entry, OPERATION turns the rails off, in order; a rail that is not present has no address to send it to. -/
def turnRailsOff (s : State) : State :=
  let rs := parkRails.filter (fun r => railPresent s r || s.bd.railsOff.contains r)
  rs.foldl (fun (s : State) r => sendRail s r .off) { s with bd := { s.bd with railsOff := rs } }

/-- R513: on Park exit, OPERATION turns on the rail that comes next: the last of those that went off. -/
def turnNextOn (s : State) : State :=
  match s.bd.railsOff.getLast? with
  | some r => sendRail s r .on
  | none => s

/-- R513: a poll finds the power-good of the rail that is being turned on; the next one follows. -/
def railUp (s : State) (r : Nat) : State :=
  if s.bd.railsOff.getLast? = some r && tget .none s.bd.railCmd r == .on then
    turnNextOn { s with bd := { s.bd with railsOff := s.bd.railsOff.dropLast } }
  else s

/-- POWER_STATE_ENTERED (R490): what the state loses is lost (R503). -/
def execPowerStateEntered (s : State) : Out :=
  match s.bd.power with
  | .entering 1 => .next { s with bd := { s.bd with power := .idle } }
  | .entering 2 => let s := loseRest s; .next { s with bd := { s.bd with power := .rest } }
  | .entering 3 => let s := losePark s; .next (turnRailsOff { s with bd := { s.bd with power := .park } })
  | _ => .next s

/-- R564: the bring-up steps after which the engine is ready. -/
def bootDone (s : State) : Bool :=
  s.bd.divRun && s.bd.boot.fuseDone && s.bd.boot.stakeClear && s.bd.boot.stacksReady && s.bd.boot.plaitReady && !s.bd.boot.bootErr

/-- R492: what the return from Rest restores: the stacks leave self refresh, the ports their reduced rate. -/
def leaveRest (s : State) : State :=
  { s with
    bs := (s.bs.map (fun p => (p.1, { p.2 with selfRefresh := false }))).filter (fun p => p.2 != {}),
    hp := { s.hp with ports := (s.hp.ports.map (fun p => (p.1, { p.2 with rested := false }))).filter (fun p => p.2 != {}) } }

/-- RETURN_TO_RUN (R490 to R492): Run is reached, if the clocks run (R37); Plait acts on the doorbells stored in Rest, and accesses held in
Rest are made. -/
def execReturnToRun (s : State) : Out :=
  let s1 := leaveRest { s with bd := { s.bd with power := .run, waiting := s.bd.target != 0, plaitSeen := s.now } }
  when (s.bd.power == .returning && !s.bd.resetDue && s.clocked) s (serveAllHeld ((List.range 256).foldl actOnStored s1))

/-- PARK_EXIT (R493, R502, R513, R566): the rails come back, one by one, and bring-up follows from the root PLL. -/
def execParkExit (s : State) : Out :=
  let s1 := turnNextOn (reportReset s 6)
  when (s.bd.power == .park && s.bd.exitDue && !s.bd.coldLow) s
    { s1 with bd := { s1.bd with
      power := .returning, target := 0, waiting := false, exitDue := false, resetDue := true,
      boot := { fuseDone := s.bd.boot.fuseDone, keepExcluded := true } } }

/-- PROTECTIVE_PARK (R29, R31, R496, R502): commands in flight are cut; their queues do not survive. -/
def execProtectivePark (s : State) : Out :=
  match s.bd.parkDue with
  | none => .next s
  | some (place, reason) =>
    let s1 := raiseIrq (reportReset (writeQmap s) 7) 1
    when (s.bd.power != .park && s.bd.power != .off && s.bd.power != .entering 3) s
      { s1 with bd := { s1.bd with
        parkValid := true, parkWhere := place, parkReason := reason, parkDue := none, waiting := false, power := .entering 3 } }

/-! ### Resets and pins (R499 to R502, R560) -/

/-- The key of BD_RESET_CTRL. -/
def keyed (v : Word) : Bool := fld v.toNat 31 16 == 0xB0D7

/-- WARM_RESET_REGISTER (R499, R516). -/
def execWarmResetRegister (v : Word) (s : State) : Out := when (s.windowOpen 10 && keyed v && bit v.toNat 0) s (warmReset s 3)

/-- R500: an engine reset cancels a transition between power states: the engine is in Run, the stacks and ports as Run has them. The
bring-up of a Park exit is no part of the transition that a reset could cancel (log 144). -/
def cancelTransition (s : State) : State :=
  let run (waiting : Bool) :=
    let s := leaveRest { s with bd := { s.bd with power := .run, waiting := waiting, plaitSeen := s.now } }
    if s.clocked then serveAllHeld s else s
  match s.bd.power with
  | .entering _ => run false
  | .returning => if s.bd.resetDue then s else run (s.bd.target != 0)
  | _ => s

/-- ENGINE_RESET_REGISTER (R499 to R501, R516). -/
def execEngineResetRegister (v : Word) (s : State) : Out :=
  when (s.windowOpen 10 && keyed v && bit v.toNat 1 && !bit v.toNat 0) s (cancelTransition (engineResetEffect s 5))

/-- ENGINE_RESET_DONE (R501, R552). -/
def execEngineResetDone (s : State) : Out :=
  when s.bd.engineReset s (raiseIrq { s with bd := { s.bd with engineReset := false } } 10)

/-- POWER_UP (R499): a cold reset. -/
def execPowerUp (s : State) : Out := when (s.bd.power == .off) s (coldState s)

/-- POWER_REMOVAL (R490): Off keeps nothing; the levels of the reset pins are the host's. -/
def execPowerRemoval (s : State) : Out :=
  let s1 := coldState s
  .next { s1 with bd := { s1.bd with power := .off }, jt := [] }

/-- What a cold reset leaves; without power there is nothing to reset. -/
def coldEffect (s : State) : State := if s.bd.power == .off then s else coldState s

/-- COLD_RESET_ASSERT (R560). The loaded EXTEST, CLAMP and HIGHZ act from now on (R561). -/
def execColdResetAssert (s : State) : Out :=
  let s1 := coldEffect s
  .next { s1 with bd := { s1.bd with coldLow := true }, jt := rescan true s.jt }

/-- COLD_RESET_RELEASE (R560): the cold reset sequence starts. EXTEST, CLAMP and HIGHZ behave as BYPASS from now on (R561). -/
def execColdResetRelease (s : State) : Out :=
  let s1 := coldEffect s
  when s.bd.coldLow s { s1 with bd := { s1.bd with coldLow := false }, jt := rescan false s.jt }

/-- WARM_RESET_PIN (R560): the assertion has lasted 1 µs. In Park it has no effect until the release; under the broader cold reset (R500),
or without power, it is the level of the pin alone. -/
def execWarmResetPin (s : State) : Out :=
  let s1 := if s.bd.power == .park || s.bd.power == .off || s.bd.coldLow then s else warmReset s 2
  when (!s.bd.warmLow) s { s1 with bd := { s1.bd with warmLow := true } }

/-- WARM_RESET_RELEASE (R560): bring-up starts from step 3; in Park, a Park exit starts (R493). -/
def execWarmResetRelease (s : State) : Out :=
  when s.bd.warmLow s { s with bd := { s.bd with warmLow := false, exitDue := s.bd.exitDue || s.bd.power == .park } }

/-! ### Bring-up (R36 to R38, R563, R564) -/

/-- Whether a bring-up step can happen: power is on and no reset pin is low. -/
def bringUp (s : State) : Bool := !s.bd.coldLow && !s.bd.warmLow && s.bd.power != .off && s.bd.power != .park

/-- R552: reset_done, when the last step of a warm reset or a Park exit completes. -/
def finishBoot (s : State) : State :=
  if s.bd.resetDue && bootDone s then raiseIrq { s with bd := { s.bd with resetDue := false } } 10 else s

/-- ROOT_PLL_LOCK (R36): the divided clocks run. After a loss of lock only a cold reset resumes (R37); on Park exit the rails are on
first (R513). -/
def execRootPllLock (s : State) : Out :=
  when (bringUp s && !s.bd.rootLock && !s.bd.unlocked && s.bd.railsOff.isEmpty) s
    (finishBoot { s with bd := { s.bd with refPresent := true, rootLock := true, divRun := true } })

/-- ROOT_PLL_UNLOCK (R37): the clocks stop; what was in flight stops where it is. -/
def execRootPllUnlock (s : State) : Out :=
  when (bringUp s && s.bd.rootLock) s
    (raiseIrq { s with bd := { s.bd with rootLock := false, divRun := false, rootUnlockSeen := true, unlocked := true } } 0)

/-- FUSE_DONE (R563): MCLK is the reference until lock (R36), so that its edges have been seen (log 114). -/
def execFuseDone (s : State) : Out :=
  when (bringUp s && !s.bd.boot.fuseDone) s
    (finishBoot { s with bd := { s.bd with refPresent := true, boot := { s.bd.boot with fuseDone := true } } })

/-- Whether a step after div_run is still to come. -/
def clockedStep (s : State) (done : Bool) : Bool := bringUp s && s.bd.divRun && !done

/-- STAKE_CLEAR_DONE (R564): every line is zero, but for the keep region after a warm reset or a Park exit. -/
def execStakeClearDone (s : State) : Out :=
  let m := if s.bd.boot.keepExcluded then (s.mem.zero stakeBase keepLo).zero keepHi stakeEnd else s.mem.zero stakeBase stakeEnd
  when (clockedStep s s.bd.boot.stakeClear) s
    (finishBoot { s with mem := m, bd := { s.bd with boot := { s.bd.boot with stakeClear := true } } })

/-- STACKS_READY (R564): every stack has trained, or one has not (boot_err). -/
def execStacksReady (ok : Bool) (s : State) : Out :=
  when (clockedStep s s.bd.boot.stacksReady) s (finishBoot (
    if ok then { s with
      bs := (List.range 32).map (fun n => (n, { s.base n with phyReady := true })),
      bd := { s.bd with boot := { s.bd.boot with stacksReady := true } } }
    else { s with bd := { s.bd with boot := { s.bd.boot with bootErr := true } } }))

/-- PLAIT_READY (R564): the firmware runs, or has failed its self-check (boot_err). -/
def execPlaitReady (ok : Bool) (s : State) : Out :=
  when (clockedStep s s.bd.boot.plaitReady) s (finishBoot (
    if ok then { s with bd := { s.bd with boot := { s.bd.boot with plaitReady := true }, plaitSeen := s.now } }
    else { s with bd := { s.bd with boot := { s.bd.boot with bootErr := true } } }))

/-! ### Caps and limits (R33, R494 to R497) -/

/-- Whether Border's sensors and reports run. -/
def monitored (s : State) : Bool := !s.bd.coldLow && s.bd.power != .off && s.bd.power != .park

/-- R494: the stack cap and the software cap. -/
def stackCap (s : State) : Nat := if s.bs.any (fun p => p.2.hot) then 8 else 16
def softCap (s : State) : Nat := s.active.throttleMax

/-- R494: the keep ratio that the caps ask for. -/
def keepRatio (s : State) : Nat := min (min s.bd.thermalCap s.bd.elecCap) (min (stackCap s) (softCap s))

/-- KEEP_RATIO_APPLY (R29, R33): at a boundary of the 16-pulse pattern. -/
def execKeepRatioApply (s : State) : Out :=
  when (s.bd.divRun && s.bd.phase == 0) s { s with bd := { s.bd with keep := keepRatio s } }

/-- The hottest of some readings and its sensor, the lowest number on a tie. -/
def hottest (ts : List Nat) : Nat × Nat :=
  (ts.zip (List.range ts.length)).foldl (fun (h : Nat × Nat) p => if h.1 < p.1 then p else h) (0, 0)

/-- R495: what a reading does to the thermal cap and its times, in readings of 10 µs. -/
def thermal (c : CfgSet) (b : Border) (t : Nat) : Border :=
  if c.thrOn ≤ t then
    if b.hotNow then { b with sinceFall := b.sinceFall + 1, coolReads := 0 }
    else { b with hotNow := true, sinceFall := 0, coolReads := 0, thermalCap := max 1 (b.thermalCap - 1) }
  else if t + c.thrHyst ≤ c.thrOn then { b with hotNow := false, coolReads := b.coolReads + 1 }
  else { b with hotNow := false, coolReads := 0 }

/-- JUNCTION_SENSOR_READ (R495, R496): the readings of the 136 sensors, or of the first of them. -/
def execJunctionSensorRead (temps : List Nat) (s : State) : Out :=
  let (t, n) := hottest temps
  let s1 := { s with bd := { thermal s.active s.bd t with junction := t, sensor := n } }
  when (monitored s && !temps.isEmpty && temps.length ≤ 136 && t < 256) s (if 110 ≤ t then parkFor s1 n 2 else s1)

/-- THERMAL_CAP_FALL (R495): again 100 µs after the last fall. -/
def execThermalCapFall (s : State) : Out :=
  let b := s.bd
  when (monitored s && b.hotNow && 10 ≤ b.sinceFall) s
    { s with bd := { b with thermalCap := max 1 (b.thermalCap - 1), sinceFall := b.sinceFall - 10 } }

/-- THERMAL_CAP_RISE (R495): at the end of each full 1 ms of cool readings. -/
def execThermalCapRise (s : State) : Out :=
  let b := s.bd
  when (monitored s && 101 ≤ b.coolReads) s
    { s with bd := { b with thermalCap := min 16 (b.thermalCap + 1), coolReads := b.coolReads - 100 } }

/-- R497: the largest keep ratio at which the estimate is at or below a target; the clocked part is proportional to the ratio. -/
def cutCap (clocked rest keep goal : Nat) : Nat :=
  ((List.range 16).map (16 - ·)).find? (fun k => rest * keep + clocked * k ≤ goal * keep) |>.getD 1

/-- R497: Border cuts to cut_target. -/
def cutPower (s : State) : State :=
  let b := s.bd
  { s with bd := { b with elecCap := cutCap b.clockedW b.restW (max 1 b.keep) s.active.cutTarget } }

/-- R497: an excursion's length in reports of 1 µs; after it, a cool-down of four times that. -/
def excursionStep (b : Border) (p : Nat) : Border :=
  if 1200 < p then
    { b with excursion := true, excursionUs := b.excursionUs + 1, cooldownLeft := b.cooldownLeft - 1 }
  else if b.excursion then
    { b with excursion := false, excursionCut := false, cooldown := true,
             cooldownLeft := max (b.cooldownLeft - 1) (4 * b.excursionUs), excursionUs := 0 }
  else { b with cooldownLeft := b.cooldownLeft - 1 }

/-- R497: the other parts of the estimate, from the last telemetry of each present rail. -/
def restPower (s : State) : Nat := sumNat (((List.range 8).filter (railPresent s)).map (tget 0 s.bd.pmbWatts))

/-- ENERGY_REPORT (R497): the clocked part of the estimate, in W, for the last 1 µs; the rest is the regulators' telemetry. -/
def execEnergyReport (clocked : Nat) (s : State) : Out :=
  let rest := restPower s
  let p := clocked + rest
  let b := excursionStep s.bd p
  let w := b.avgWindow ++ [p]
  let s1 := { s with bd := { b with
    clockedW := clocked, restW := rest, nowW := p, avgWindow := w.drop (w.length - 1000),
    excursionCut := b.excursionCut || 1420 < p } }
  when (monitored s) s (if 1420 < p || s1.bd.cooldown || s1.bd.excursionCut then cutPower s1 else s1)

/-- EXCURSION_LIMIT (R497): an excursion reaches excursion_us. -/
def execExcursionLimit (s : State) : Out :=
  let b := s.bd
  when (monitored s && b.excursion && !b.excursionCut && s.active.excursionUs ≤ b.excursionUs) s
    (cutPower { s with bd := { b with excursionCut := true } })

/-- COOL_DOWN_END (R497). -/
def execCoolDownEnd (s : State) : Out :=
  let b := s.bd
  when (monitored s && b.cooldown && b.cooldownLeft == 0) s
    { s with bd := { b with cooldown := false, elecCap := if b.excursionCut then b.elecCap else 16 } }

/-! ### The regulators (R512, R514) -/

/-- R514: a regulator fault: protective Park, and CLEAR_FAULTS to the rail. -/
def railFault (s : State) (r : Nat) : State :=
  sendRail (parkFor { s with bd := { s.bd with pmbFault := s.bd.pmbFault ||| 2 ^ r } } r 4) r .clearFaults

/-- R512 to R514: what one poll of a rail finds: its telemetry, a fault, its power-good, or no answer. -/
def pollRail (s : State) (r : Nat) (a : RailAnswer) : State :=
  if !railPresent s r && !s.bd.railsOff.contains r then s
  else if a.answers then
    let s := { s with bd := { s.bd with pmbMissed := tset 0 s.bd.pmbMissed r 0, pmbWatts := tset 0 s.bd.pmbWatts r a.watts } }
    if a.outputFault then railFault s r else if a.powerGood then railUp s r else s
  else
    let n := tget 0 s.bd.pmbMissed r + 1
    let s := { s with bd := { s.bd with pmbMissed := tset 0 s.bd.pmbMissed r n } }
    if n < 3 then s else raiseIrq { s with bd := { s.bd with pmbNoAnswer := s.bd.pmbNoAnswer ||| 2 ^ r } } 6

/-- Whether Border reads the rails: when software has enabled it, and on Park exit, while it turns rails on (R513). -/
def polling (s : State) : Bool :=
  !s.bd.coldLow && s.bd.power != .off && (s.bd.pmbEnable || (!s.bd.railsOff.isEmpty && bringUp s))

/-- PMBUS_POLL (R512 to R514): the answers of rails 0 to 7. -/
def execPmbusPoll (rails : List RailAnswer) (s : State) : Out :=
  when (polling s && rails.length == 8) s
    ((rails.zip (List.range 8)).foldl (fun (s : State) p => pollRail s p.2 p.1) s)

/-- R517: a write of BD_PMB_CTRL. -/
def writePmbCtrl (s : State) (v : Nat) : State := { s with bd := { s.bd with pmbFast := bit v 1, pmbEnable := bit v 0 } }

/-- PMBUS_ENABLE (R512): a write of 1 to enable. -/
def execPmbusEnable (v : Word) (s : State) : Out := when (s.windowOpen 10 && bit v.toNat 0) s (writePmbCtrl s v.toNat)

/-- BD_POWER.avg_w: the mean of the last 1 ms. -/
def avgPower (s : State) : Nat := if s.bd.avgWindow.isEmpty then 0 else sumNat s.bd.avgWindow / s.bd.avgWindow.length

end Sys2Proof.Machine
end

