-- ==== Sys2Proof/Machine/Resilience.lean ====
section
/-! DEFINITION. The resilience agent (chapter 15): heartbeats, checkpoints and adoption. -/

namespace Sys2Proof.Machine

/-! ### Heartbeats (R519 to R521) -/

/-- A HELLO on one port that is up, with the engine's ID; the object field carries the port number (log 43). Like every message it waits
for credits (R427). -/
def helloOn (s : State) (p : Nat) : State :=
  let o := mkMsg s 0x31 0 (s.port p).peer 0 p 0 0 0 []
  if portUp s p then sendMsg s { o with m := { o.m with port := p } } else s

def helloAll (s : State) : State := (List.range 16).foldl helloOn s

/-- HEARTBEAT (R519). -/
def execHeartbeat (s : State) : Out :=
  let s1 := helloAll s
  when (hoopOn s && !s.bd.plaitHung) s { s1 with bd := { s1.bd with beat := (s1.bd.beat + 1) % 65536 } }

/-- Three heartbeat periods, in CCLK. -/
def silence (s : State) : Nat := 3 * s.active.heartbeatMs * 525000

/-- PORT_SILENCE (R520, R522). -/
def execPortSilence (p : Nat) (s : State) : Out :=
  let x := s.port p
  when (hoopOn s && p < 16 && portUp s p && !bit s.bd.silent p && x.lastHello + silence s ≤ s.now) s
    (raiseIrq (suspect { s with bd := { s.bd with silent := s.bd.silent ||| 2 ^ p, silentSeen := s.bd.silentSeen ||| 2 ^ p } }
      2 p x.peer) 3)

/-- Whether Plait's firmware runs. -/
def firmwareRuns (s : State) : Bool :=
  hoopOn s && s.bd.boot.plaitReady && !s.bd.engineReset && (s.bd.power == .run || s.bd.power == .idle)

/-- PLAIT_REPORT (R521). -/
def execPlaitReport (s : State) : Out :=
  when (firmwareRuns s) s { s with bd := { s.bd with plaitSeen := s.now, plaitHung := false } }

/-- PLAIT_HUNG (R521). -/
def execPlaitHung (s : State) : Out :=
  when (firmwareRuns s && !s.bd.plaitHung && s.bd.plaitSeen + silence s ≤ s.now) s
    (raiseIrq { s with bd := { s.bd with plaitHung := true } } 2)

/-! ### The checkpoint image (R526 to R528) -/

def zeros (n : Nat) : List Word := List.replicate n 0#32

/-- Words padded with zeros to a length. -/
def padTo (n : Nat) (ws : List Word) : List Word := (ws ++ zeros (n - ws.length)).take n

/-- A 64-bit item in two words. -/
def pairWords (n : Nat) : List Word := [wd n, wd (n / 2 ^ 32)]

/-- The image entry of a window: a closing one is recorded as closed. -/
def imageWindow (w : Window) : List Word :=
  windowWords { w with state := if w.state = 1 then 1 else 0, mapFirst := 0, inflight := 0 }

/-- The image entries of a context: its 16 segments and its root. -/
def imageContext (s : State) (x : Nat) : List Word :=
  ((List.range 16).map (fun i =>
    match tget none s.sp.segments (x * 16 + i) with
    | some g => [1#32, 0#32] ++ pairWords g.vbase ++ pairWords g.target ++ pairWords g.length
    | none => zeros 8)).flatten ++
  (match rootOf s.sp x with
   | some r => [1#32, 0#32, 0#32, 0#32] ++ pairWords r ++ [0#32, 0#32]
   | none => zeros 8)

/-- The route fields, in the order of R528. -/
def routeIds : List Nat := [0x01, 0x02, 0x03, 0x04, 0x20, 0x21]

/-- The image entry of a Tally slot. -/
def imageSlot (x : Slot) : List Word := padTo 32 ([x.scale, wd (b2n x.hold + x.history.length * 2 ^ 8)] ++ x.history)

/-- The four sections in the order of word 4, as (byte offset, words). -/
def imageSection (s : State) : Nat → Nat × List Word
  | 0 => (0x1000, ((List.range 4096).map (fun w => imageWindow (s.window w))).flatten)
  | 1 => (0x21000, ((List.range 64).map (imageContext s)).flatten)
  | 2 => (0x2A000, padTo 1024 (routeIds.map (fun i => wd (s.active.get i))) ++
      ((List.range 256).map (fun r => padTo 16 (ringEntry s r))).flatten ++
      ((List.range 256).map (fun g => padTo 16 (groupEntry s g))).flatten)
  | _ => (0x33000, ((List.range 256).map (fun n => imageSlot (s.slot n))).flatten)

/-- R527: the bytes of the four sections, and where each begins. -/
def sectionSpan : Nat → Nat × Nat
  | 0 => (0x1000, 0x20000)
  | 1 => (0x21000, 0x9000)
  | 2 => (0x2A000, 0x9000)
  | _ => (0x33000, 0x8000)

abbrev imageMagic : Nat := 0x31434B48
abbrev imageSize : Nat := 0x3B000

/-- R528: the header, with its check word. -/
def imageHeader (id chosen time : Nat) (crc : Word) : List Word :=
  padTo 1024 [wd imageMagic, crc, wd (id % 2 ^ 17 + chosen * 2 ^ 20), 1#32, wd time, wd (time / 2 ^ 32 % 2 ^ 15)]

/-- R528: the CRC-32C of an image of a header, whose check word is taken as zero, and four sections, absent ones as zeros. -/
def imageCrc (header : List Word) (sections : List (List Word)) : Word :=
  crc32c (wordBytes (header.set 1 0#32 ++ sections.flatten))

/-- The words of section `i` when chosen, padded to its span, and zeros otherwise. -/
def sectionOr (s : State) (chosen i : Nat) : List Word :=
  padTo ((sectionSpan i).2 / 4) (if bit chosen i then (imageSection s i).2 else [])

/-- What a CHECKPOINT writes: the header, and each chosen section over the whole of its span, unlisted bits zero (R528). -/
def checkpointParts (s : State) (chosen : Nat) : List (Nat × List Word) :=
  let h := imageHeader s.active.engineId chosen s.cp.time
  let crc := imageCrc (h 0#32) ((List.range 4).map (sectionOr s chosen))
  (0, h crc) :: ((List.range 4).filter (bit chosen)).map (fun i => ((sectionSpan i).1, sectionOr s chosen i))

/-- The ranges of an image that a CHECKPOINT writes, as (byte offset, bytes). -/
def checkpointSpans (chosen : Nat) : List (Nat × Nat) := (0, 4096) :: ((List.range 4).filter (bit chosen)).map sectionSpan

/-- The ranges that a CHECKPOINT writes, translated. -/
def translateParts (s : State) (c : Cmd) : List (Nat × Nat) → State × Option (List (Nat × Nat)) × Xlate
  | [] => (s, some [], .at 0)
  | (o, n) :: t =>
    match translateRange s (ctxOf s c) (plaitAccess c 2 (c.addr 2 + o) true) (c.addr 2 + o) n with
    | (s, some ps, _) =>
      match translateParts s c t with
      | (s, some qs, r) => (s, some (ps ++ qs), r)
      | r => r
    | r => r

def checkpointStep (s : State) (c : Cmd) : State :=
  let chosen := fld (c.word 4) 3 0
  match translateParts s c (checkpointSpans chosen) with
  | (s, some ps, _) =>
    match writeMeets s ps (wordBytes ((checkpointParts s chosen).map (·.2)).flatten) with
    | (s, none) => succeed s c
    | (s, some pa) => eccEnd s c.id pa
  | (s, none, .faulted) => s
  | (s, none, _) => wait_ s c

/-- CHECKPOINT (R526). -/
def execCheckpoint (q : Nat) (s : State) : Out := startOrPoll s q Op.checkpoint checkpointStep

/-- BD_RES_STATUS.adopt_busy and checkpoint_busy (R543). -/
def runsOp (s : State) (op : Nat) : Bool := s.cp.table.any (fun c => c.started && c.status.isNone && c.opcode == op)

/-! ### ADOPT (R529 to R534) -/

/-- A word of an image at a byte offset. -/
def imageWord (im : List Word) (o : Nat) : Nat := (im.getD (o / 4) 0#32).toNat

def imagePair (im : List Word) (o : Nat) : Nat := imageWord im o + 2 ^ 32 * fld (imageWord im (o + 4)) 19 0

/-- The sections that an image's header names. -/
def imageChosen (im : List Word) : Nat := fld (imageWord im 8) 23 20

/-- The image is read through Plait's translation: its header, then the sections it names; the others are taken as zeros. -/
def readImage (s : State) (c : Cmd) : State × Option (List Word) :=
  match plaitRead s c 3 (c.addr 3) 4096 with
  | (s, none) => (s, none)
  | (s, some hb) =>
    let h := wordsOf hb
    let part (t : State × Option (List Word)) (i : Nat) : State × Option (List Word) :=
      match t with
      | (s, none) => (s, none)
      | (s, some ws) =>
        let (o, n) := sectionSpan i
        if !bit (imageChosen h) i then (s, some (ws ++ zeros (n / 4))) else
        match plaitRead s c 3 (c.addr 3 + o) n with
        | (s, some bs) => (s, some (ws ++ wordsOf bs))
        | (s, none) => (s, none)
    (List.range 4).foldl part (s, some h)

/-- The valid context entries of an image: (context, index, base, target, length); index 16 is the root. -/
def imageContexts (im : List Word) : List (Nat × Nat × Nat × Nat × Nat) :=
  (List.range (64 * 17)).filterMap (fun k =>
    let o := 0x21000 + 32 * k
    if bit (imageWord im o) 0 then some (k / 17, k % 17, imagePair im (o + 8), imagePair im (o + 16), imagePair im (o + 24)) else none)

/-- The windows that an image records as open. -/
def imageWindows (im : List Word) : List Nat := (List.range 4096).filter (fun w => fld (imageWord im (0x1000 + 32 * w)) 1 0 == 1)

/-- The torus directions of R529: those along an axis of size 2 or more. -/
def fabricDirs (x y z : Nat) : List Nat :=
  (if 2 ≤ x then [0, 1] else []) ++ (if 2 ≤ y then [2, 3] else []) ++ (if 2 ≤ z then [4, 5] else [])

/-- The neighbour of position `n` in a direction, in the torus of the image. -/
def imageNeighbour (im : List Word) (n dir : Nat) : Nat :=
  let x := max 1 (imageWord im 0x2A004)
  let y := max 1 (imageWord im 0x2A008)
  let z := max 1 (imageWord im 0x2A00C)
  let (a, b, c) := (n % x, n / x % y, n / (x * y))
  let k (a b c : Nat) : Nat := a + x * (b + y * c)
  match dir / 2 with
  | 0 => k (stepAxis x a (dir % 2 == 1)) b c
  | 1 => k a (stepAxis y b (dir % 2 == 1)) c
  | _ => k a b (stepAxis z c (dir % 2 == 1))

def imageDirs (im : List Word) : List Nat := fabricDirs (imageWord im 0x2A004) (imageWord im 0x2A008) (imageWord im 0x2A00C)

/-- The ports of a direction that lead to the expected neighbour. -/
def adoptPorts (s : State) (im : List Word) (n dir : Nat) : List Nat :=
  (portsOf dir).filter (fun p => portUp s p && (s.port p).peer == imageNeighbour im n dir)

/-- One context entry installed, as XL_MAP would without withdrawal; none where a check of R415 fails. -/
def installContext (s : State) (e : Nat × Nat × Nat × Nat × Nat) : Option State :=
  let (x, i, b, t, l) := e
  if i = 16 then (match rootCheck s x t with
    | some _ => none
    | none => some (commitWithdraw s (.root x (if t = 0 then none else some t))))
  else match segmentCheck s x i b t l with
    | some _ => none
    | none => some (commitWithdraw s (.segment (x * 16 + i) (if l = 0 then none else some ⟨b, t, l⟩)))

def installContexts (s : State) : List (Nat × Nat × Nat × Nat × Nat) → Option State
  | [] => some s
  | e :: es => match installContext s e with | some s => installContexts s es | none => none

/-- R541: the checks of the image. -/
def imageCheck (s : State) (n : Nat) (im : List Word) : Option Nat :=
  let header := im.take 1024
  let chosen := imageChosen im
  if imageWord im 0 != imageMagic || imageWord im 12 % 256 != 1 || imageCrc header [im.drop 1024] != im.getD 1 0#32 then some 0x0510
  else if !bit chosen 2 || !bit (imageWord im 0x2A000) 16 || fld (imageWord im 0x2A000) 15 0 != n then some 0x0511
  else if (imageDirs im).any (fun d => (adoptPorts s im n d).isEmpty) then some 0x0513
  else if (installContexts s (imageContexts im)).isNone then some 0x0514
  else if !s.sp.ready && (!(imageWindows im).isEmpty || (imageContexts im).any (fun e => e.2.1 == 16)) then some 0x0514
  else none

/-- R532: every other queue Disabled and every window closed. -/
def adoptBlocked (s : State) (c : Cmd) : Bool :=
  s.cp.queues.any (fun p => p.1 != c.queue && p.2.st != .disabled) || s.sp.windows.any (fun w => w.2.state != 0)

/-- R532, step 4: a Tally slot from the image. -/
def adoptSlot (im : List Word) (s : State) (n : Nat) : State :=
  let o := 0x33000 + 128 * n
  if n = 0 then s else
  s.setSlot n { s.slot n with
    scale := wd (imageWord im o), hold := bit (imageWord im (o + 4)) 0,
    history := (List.range (min 16 (fld (imageWord im (o + 4)) 12 8))).map (fun i => wd (imageWord im (o + 8 + 4 * i))) }

/-- A table of the image. -/
def imageTable (im : List Word) (o : Nat) : List (Nat × List Word) :=
  (List.range 256).filterMap (fun i =>
    let e := (List.range 16).map (fun k => wd (imageWord im (o + 64 * i + 4 * k)))
    if e.all (· == 0#32) then none else some (i, e))

/-- R532, step 1: the enabled torus ports of the directions of R529 that do not lead to the expected neighbour. -/
def adoptStrays (s : State) (im : List Word) (n : Nat) : List Nat :=
  ((imageDirs im).map portsOf).flatten.filter (fun p =>
    (s.port p).enable && (imageDirs im).all (fun d => !(adoptPorts s im n d).contains p))

/-- R532, steps 4 to 6: the commit. -/
def adoptCommit (s : State) (c : Cmd) (im : List Word) : State :=
  let n := fld (c.word 2) 15 0
  let old := ownId s
  let s := if bit (imageChosen im) 3 then (List.range 256).foldl (adoptSlot im) s else s
  let s := { s with hp := { s.hp with rings := imageTable im 0x2B000, groups := imageTable im 0x2F000 } }
  let s := s.setShadow ((routeIds.zip (List.range 6)).foldl
    (fun (d : CfgSet) p => d.put p.1 (imageWord im (0x2A000 + 4 * p.2))) s.shadow)
  let s := helloAll (swapSets s)
  succeed { s with bd := { s.bd with adopted := true, formerId := old, adoptedId := n } } c

/-- R532, step 3: the windows of the image are opened one by one, as WIN_OPEN would, with its checks (log 44); `f` bounds their number. -/
def adoptWindows : Nat → State → Cmd → Adopt → State
  | 0, s, c, a => setRun s c.id (.adopt a)
  | f + 1, s, c, a =>
    match a.left with
    | [] => adoptCommit (setRun s c.id (.adopt a)) c a.image
    | w :: ws =>
      let o := 0x1000 + 32 * w
      let ctx := fld (imageWord a.image o) 13 8
      let base := imagePair a.image (o + 8)
      let len := imagePair a.image (o + 16)
      match windowCheck s w base len with
      | some d => reject (setRun s c.id (.adopt a)) c d
      | none =>
      match windowTranslate (setRun s c.id (.adopt a)) c ctx base (len / 4096 - a.pages.length) a.pages.length a.pages with
      | (s, ps, .at _) =>
        let s := openWindow s w ctx (fld (imageWord a.image (o + 4)) 15 0) base len (bit (imageWord a.image o) 16) ps
        adoptWindows f s c { a with opened := a.opened ++ [w], left := ws, pages := [] }
      | (s, ps, .waits) => setRun s c.id (.adopt { a with pages := ps })
      | (s, _, .faulted) => s

/-- R532, steps 1 and 2: the ports that lead elsewhere are disabled, and the context entries are installed. -/
def adoptBegin (s : State) (c : Cmd) (im : List Word) : State :=
  let es := imageContexts im
  let ports := adoptStrays s im (fld (c.word 2) 15 0)
  let s := ports.foldl stopPort ((installContexts s es).getD s)
  adoptWindows 4097 s c
    { image := im, ports := ports, segments := (es.filter (fun e => e.2.1 != 16)).map (fun e => e.1 * 16 + e.2.1),
      roots := (es.filter (fun e => e.2.1 == 16)).map (·.1), left := imageWindows im }

def adoptStep (s : State) (c : Cmd) : State :=
  match c.run with
  | .adopt a => adoptWindows 4097 s c a
  | _ =>
    if adoptBlocked s c then reject s c 0x0512 else
    match readImage s c with
    | (s, none) => wait_ s c
    | (s, some im) =>
      match imageCheck s (fld (c.word 2) 15 0) im with
      | some d => reject s c d
      | none => adoptBegin s c im

/-- The ADOPT commands of a queue whose work waits. -/
def adoptingOf (s : State) (q : Nat) : List Cmd :=
  (s.ofQueue q).filter (fun c => c.started && c.status.isNone && c.opcode == Op.adopt)

/-- ADOPT (R532). -/
def execAdopt (q : Nat) (s : State) : Out :=
  match startable s q Op.adopt with
  | some _ => startCmd s q Op.adopt adoptStep
  | none => when s.plaitUp s ((adoptingOf s q).foldl adoptStep s)

end Sys2Proof.Machine
end

