-- ==== Sys2Proof/Machine/Handle.lean ====
section
/-! DEFINITION. The Handle port's modules (R553 to R555, R558). -/

namespace Sys2Proof.Machine

/-- Whether the Handle port works: power is on, no reset pin is low, and the engine is not in Park. -/
def handleOn (s : State) : Bool :=
  !s.bd.coldLow && !s.warmHeld && s.bd.power != .off && s.bd.power != .park

/-- R555: the messages and records that waited for a module go out, in order, and the waits of commands end. -/
def flushHost (s : State) : State :=
  let ws := s.hd.waiting
  ws.foldl (fun (s : State) w => hostWrite s w.1 w.2) { s with hd := { s.hd with waiting := [], held := [] } }

/-- R552, R558: modules leave up. -/
def modulesDown (s : State) (up : Nat) : State :=
  raiseIrq { s with hd := { s.hd with moduleUp := up, repaired := s.hd.repaired &&& up, downSeen := true } } 9

/-- R558: a write of HD_CTRL. A module that is no longer enabled leaves up. -/
def writeHdCtrl (s : State) (v : Nat) : State :=
  let en := fld v 15 0
  let s := { s with hd := { s.hd with moduleEn := en } }
  let up := s.hd.moduleUp &&& en
  if up = s.hd.moduleUp then s else modulesDown s up

/-- HANDLE_MODULE_ENABLE (R558). -/
def execHandleModuleEnable (v : Word) (s : State) : Out := when (s.windowOpen 11) s (writeHdCtrl s v.toNat)

/-- HANDLE_MODULE_UP (R553): an enabled module has trained at 32 GT/s, perhaps on a repair lane. -/
def execHandleModuleUp (m : Nat) (repaired : Bool) (s : State) : Out :=
  when (handleOn s && m < 16 && bit s.hd.moduleEn m && !bit s.hd.moduleUp m) s
    (flushHost { s with hd := { s.hd with
      moduleUp := s.hd.moduleUp ||| 2 ^ m, repaired := s.hd.repaired ||| (if repaired then 2 ^ m else 0) } })

/-- HANDLE_MODULE_DOWN (R555). -/
def execHandleModuleDown (m : Nat) (s : State) : Out :=
  when (handleOn s && m < 16 && bit s.hd.moduleUp m) s (modulesDown s (s.hd.moduleUp ^^^ 2 ^ m))

/-- R555: a command whose transfer has waited for 200 µs (105,000 CCLK), and the packet word of its reference. -/
def handleWait (s : State) (id : Nat) : Option Nat :=
  (s.hd.held.find? (fun h => h.1 == id && h.2.1 + 105000 ≤ s.now)).map (·.2.2)

/-- HANDLE_TIMEOUT (R555). -/
def execHandleTimeout (id : Nat) (s : State) : Out :=
  match handleWait s id with
  | some w => when (s.clocked && !handleUp s) s
      (failCommand { s with hd := { s.hd with held := s.hd.held.filter (fun h => h.1 != id) } } id St.hostTimeout w)
  | none => .next s

end Sys2Proof.Machine
end

