-- ==== Sys2Proof/Machine/Ring.lean ====
section
/-! DEFINITION. RING_SWEEP and REPLAY (R439 to R452, R462, R535 to R541): the steps of a sweep, the shards, the commit of a step, and the
finish. -/

namespace Sys2Proof.Machine

/-! ### Directions (R442, R443): 0 clockwise, from the predecessor to the successor; 1 anticlockwise -/

/-- The direction of a shard that comes from an engine. -/
def fromDir (e : List Word) (src : Nat) : Option Nat := if src = ringPred e then some 0 else if src = ringSucc e then some 1 else none

/-- R443: the directions in which shards move during a step. -/
def moveDirs (e : List Word) (t : Nat) : List Nat :=
  if ringLast e ≤ t then [] else if ringMembers e = 2 * (t + 1) then [0] else [0, 1]

def Ring.peer (r : Ring) (d : Nat) : Option Nat := if d = 0 then r.peerCw else r.peerAcw
def Ring.got (r : Ring) (d : Nat) : Nat := if d = 0 then r.gotCw else r.gotAcw
def Ring.parts (r : Ring) (d : Nat) : List Nat := if d = 0 then r.partsCw else r.partsAcw

/-- A part of a shard at an offset counts once, however often it comes (R540). -/
def Ring.addGot (r : Ring) (d off n : Nat) : Ring :=
  if (r.parts d).contains off then r
  else if d = 0 then { r with gotCw := r.gotCw + n, partsCw := off :: r.partsCw }
  else { r with gotAcw := r.gotAcw + n, partsAcw := off :: r.partsAcw }
def Ring.setAck (r : Ring) (d : Nat) : Ring := if d = 0 then { r with ackCw := true } else { r with ackAcw := true }

/-- R536: no work item of a step at or below the committed step is computed. -/
def Ring.skips (r : Ring) (t : Nat) : Bool := match r.skipTo with | some c => t ≤ c | none => false

/-- R538: with a resume step, a shard of the step goes only to a neighbour whose committed step is below it. -/
def Ring.sends (r : Ring) (e : List Word) (d : Nat) : Bool :=
  (moveDirs e r.step).contains d && (r.resume == 0 || (match r.peer d with | some v => v < r.step | none => true))

/-- The same of a neighbour that sends to this member. -/
def Ring.expects (r : Ring) (e : List Word) (d : Nat) : Bool :=
  (moveDirs e r.step).contains d && (r.resume == 0 || !r.skips r.step)

/-- Every item of the step has been combined into the sweep state. -/
def Ring.workDone (r : Ring) : Bool := r.work.finished && r.work.bands.isEmpty

def mapRing (s : State) (id : Nat) (f : Ring → Ring) : State :=
  s.mapCmd id (fun c => { c with run := (match c.run with | .ring r => .ring (f r) | x => x) })

/-- The sweep of a ring that runs. -/
def sweepFor (s : State) (n : Nat) : Option (Cmd × Ring) :=
  s.cp.table.findSome? (fun c =>
    match c.run with
    | .ring r => if c.status.isNone && r.ring == n then some (c, r) else none
    | _ => none)

/-! ### Shards on their way (R443, R445, R448) -/

/-- K or V of the home shard, in dense layout. -/
def homeHalf (s : State) (c : Cmd) (k : Compute) (t : Ten) : State × Option (List Byte) :=
  andThen (collect s (fun s p => readRow s c 65 t (p / c.keysIn) 0 k.dim (p % c.keysIn)) (List.range (k.groups * c.keysIn)))
    (fun s rows => (s, some (codeBytes t.fmt rows.flatten)))

/-- The shard that a member uses in the step, as it passes it on. The home shard sets out with clear partials. -/
def shardToSend (s : State) (c : Cmd) (k : Compute) (r : Ring) (d : Nat) : State × Option (List Byte) :=
  if r.step = 0 then
    andThen (homeHalf s c k (tK c k)) (fun s a => andThen (homeHalf s c k (tV c k)) (fun s b =>
      (s, some (a ++ b ++ List.replicate (if r.bwd then 8 * partialWords c k else 0) 0#8))))
  else readPhys s c (shardBuffer (ringEntry s r.ring) c k r.bwd d r.step) (shardBytes c k r.bwd)

/-- Bytes as messages of a type, from an offset on. -/
def sendParcels (s : State) (c : Cmd) (r : Ring) (type dest base : Nat) (bs : List Byte) : State :=
  (parcels bs.length).foldl (fun (s : State) p =>
    sendMsg s ((mkMsg s type 1 dest (tagOf c.id) r.ring (base + p.1) r.step 0 ((bs.drop p.1).take p.2)).by c)) s

/-- The shards of a step set out: forward at its start, backward once its work is done and written (R372), whose partials travel with
them. -/
def ringSend (s : State) (c : Cmd) (r : Ring) : State :=
  if r.sent || (r.bwd && !(r.workDone && !hasChannels s c.id)) then s else
  let e := ringEntry s r.ring
  let ds := ([0, 1] : List Nat).filter (r.sends e)
  match collect s (fun s d => shardToSend s c r.work r d) ds with
  | (s, none) => s
  | (s, some l) =>
    mapRing ((ds.zip l).foldl (fun (s : State) p => sendParcels s c r 0x10 (ringDest e p.1) 0 p.2) s) c.id
      (fun r => { r with sent := true, dirs := ds })

/-- A part of an incoming shard is written to its buffer; the last one is answered with SHARD_DONE. -/
def takeShard (s : State) (c : Cmd) (r : Ring) (d : Nat) (m : Msg) : State :=
  let e := ringEntry s r.ring
  let total := shardBytes c r.work r.bwd
  let off := m.offset.toNat
  let n := min m.data.length (total - off)
  match writeMeets s [(shardBuffer e c r.work r.bwd d (r.step + 1) + off, n)] (m.data.take n) with
  | (s, some pa) => eccEnd s c.id pa
  | (s, none) =>
    let s := mapRing s c.id (fun r => r.addGot d off n)
    if (r.parts d).contains off || (r.addGot d off n).got d < total then s
    else sendMsg s ((mkMsg s 0x11 0 (ringFrom e d) (tagOf c.id) r.ring 0 r.step 0 []).by c)

/-- SHARD_DATA: of the step in hand it is taken, of a later one kept. -/
def takeShardData (s : State) (m : Msg) : State :=
  match sweepFor s m.object.toNat with
  | none => keepMsg s 0x10 m
  | some (c, r) =>
    let e := ringEntry s r.ring
    if r.waiting || r.step < m.step.toNat then keepMsg s 0x10 m else
    match fromDir e m.src.toNat with
    | some d => if m.step.toNat = r.step && r.expects e d && !r.finishing then takeShard s c r d m else s
    | none => s

/-- SHARD_DONE: an answer to a shard, or the committed step that a neighbour announces (R538). An answer to a shard of a sweep that has ended
is dropped (log 85). -/
def takeShardDone (s : State) (m : Msg) : State :=
  let key := (m.object.toNat, m.src.toNat, m.step.toNat)
  let owed := s.hp.owed.contains key
  let paid : State := { s with hp := { s.hp with owed := s.hp.owed.erase key } }
  match sweepFor s m.object.toNat with
  | none => if owed then paid else keepMsg s 0x11 m
  | some (c, r) =>
    let e := ringEntry s r.ring
    let src := m.src.toNat
    let v := some m.step.toNat
    if r.waiting then
      if owed then paid else
      mapRing s c.id (fun r => { r with peerCw := if src = ringSucc e then v else r.peerCw, peerAcw := if src = ringPred e then v else r.peerAcw })
    else if m.step.toNat ≠ r.step then s
    else if src = ringSucc e && !r.ackCw then mapRing s c.id (·.setAck 0)
    else if src = ringPred e then mapRing s c.id (·.setAck 1)
    else s

/-! ### The partials come home (R448) -/

/-- The last step in which an anticlockwise shard is used. -/
def acwLast (e : List Word) : Nat := if 2 * ringLast e = ringMembers e then ringLast e - 1 else ringLast e

/-- The copies of a shard that travel. -/
def homeDirs (e : List Word) : List Nat := (if ringLast e = 0 then [] else [0]) ++ (if acwLast e = 0 then [] else [1])

/-- The last step of a copy. -/
def copyLast (e : List Word) (d : Nat) : Nat := if d = 0 then ringLast e else acwLast e

/-- The engine ID of a member: the table names the own and the neighbours'; of the others it is free. -/
def memberId (s : State) (e : List Word) (ring p : Nat) : Nat :=
  let n := ringMembers e
  let q := ringPosition e
  if p % n = q then ownId s else if p % n = (q + 1) % n then ringSucc e else if p % n = (q + n - 1) % n then ringPred e
  else (Config.ringMember ring (p % n)).toNat

/-- The member that holds a copy of this member's own shard in the end. -/
def homeSource (s : State) (e : List Word) (ring d : Nat) : Nat :=
  let n := ringMembers e
  memberId s e ring (if d = 0 then ringPosition e + ringLast e else ringPosition e + n - acwLast e)

/-- The offset of the partials in a shard. -/
def partialsAt (c : Cmd) (k : Compute) : Nat := shardKBytes c k + shardVBytes c k

/-- The partials that a member holds after the last step go to the owners of their shards. -/
def sendHomes (s : State) (c : Cmd) (r : Ring) : State :=
  let e := ringEntry s r.ring
  let ds := homeDirs e
  let k := r.work
  match collect s (fun s d => readPhys s c (shardBuffer e c k true d (copyLast e d) + partialsAt c k) (8 * partialWords c k)) ds with
  | (s, none) => s
  | (s, some l) =>
    let s := (ds.zip l).foldl (fun (s : State) p =>
      sendParcels s c r 0x12 (memberId s e r.ring (shardOwner e p.1 (copyLast e p.1))) (partialsAt c k) p.2) s
    mapRing s c.id (fun r => { r with sent := true })

/-- SHARD_HOME. -/
def takeShardHome (s : State) (m : Msg) : State :=
  match sweepFor s m.object.toNat with
  | none => keepMsg s 0x12 m
  | some (c, r) =>
    let e := ringEntry s r.ring
    let d := if m.src.toNat = homeSource s e r.ring 0 then 0 else 1
    let o := m.offset.toNat - partialsAt c r.work
    mapRing s c.id (fun r => { r with homes := r.homes.filter (fun h => !(h.1 == d && h.2.1 == o)) ++ [(d, o, m.data)] })

/-- What has come home of a copy. -/
def homeData (r : Ring) (d n : Nat) : List Byte :=
  ((parcels n).map (fun p => ((r.homes.find? (fun h => h.1 == d && h.2.1 == p.1)).map (fun h => h.2.2.take p.2)).getD [])).flatten

def homesIn (c : Cmd) (r : Ring) (e : List Word) : Bool :=
  (homeDirs e).all (fun d => (homeData r d (8 * partialWords c r.work)).length == 8 * partialWords c r.work)

/-- R448: fl(fl(own + clockwise) + anticlockwise) of the rows of a group, with flags. -/
def homeRows (c : Cmd) (r : Ring) (e : List Word) (isK : Bool) (g : Nat) : List (List Word) × Sticky :=
  let k := r.work
  let first := g * c.keysIn + (if isK then 0 else k.groups * c.keysIn)
  let own := (upTo first c.keysIn).map (fun i => padTo' k.dim 0#32 (tget [] r.own i))
  let copy (d : Nat) : List (List Word) :=
    chunksOf k.dim (wordsOf (((homeData r d (8 * partialWords c k)).drop (4 * k.dim * first)).take (4 * k.dim * c.keysIn)))
  (homeDirs e).foldl (fun (t : List (List Word) × Sticky) d =>
    let x := (t.1.zip (copy d)).map (fun p => (p.1.zip p.2).map (fun q => arrayAdd q.1 q.2))
    (x.map (fun y => y.map (·.1)), t.2.or (joinS ((x.map (fun y => y.map (·.2))).flatten)))) (own, .none)

/-- dK or dV of a group, converted and written. -/
def writeHome (s : State) (c : Cmd) (r : Ring) (isK : Bool) (g : Nat) : State × Option Unit :=
  let x := homeRows c r (ringEntry s r.ring) isK g
  let t := if isK then tDK c r.work else tDV c r.work
  andThen (writeTile s c (passAgent s) t g 0 0 c.keysIn r.work.dim x.1) (fun s _ => (raiseSlotFlags s t.ref.slot x.2, some ()))

/-! ### The finish (R447, R448) -/

/-- The rib that finishes rows: the first online one that holds the step's programs. -/
def finishRib (s : State) (c : Cmd) (k : Compute) : Option Nat :=
  (List.range 32).find? (fun a => (s.array a).online && (k.points.isEmpty || (s.ribOf a).hasBank c.id))

/-- The rows of a query tile are finished from the sweep state. -/
def finishQueryTile (s : State) (c : Cmd) (r : Ring) (item : Nat) : State × Option Unit :=
  let k := r.work
  match finishRib s c k with
  | none => (s, none)
  | some a =>
    let j := ringJob s c k r item
    fetchDone c.id (agentOf a) (andThen (readStates s c k a r r.step false j) (fun s xs =>
      finishAll s c k a j (xs.map (·.state)) (padTo' j.m (List.replicate j.wide 0#32) (xs.map (fun x => padTo' j.wide 0#32 x.o)))))

/-- Of a backward sweep: dK and dV of a group, then dQ of a group. -/
def finishGroup (s : State) (c : Cmd) (r : Ring) (p : Nat × Nat) : State × Option Unit :=
  if p.2 = 0 then andThen (writeHome s c r true p.1) (fun s _ => writeHome s c r false p.1)
  else
    andThen (fetchDone c.id (passAgent s) (andThen (readDqRows s c r.work { group := p.1, ring := some r }) (fun s rows => writeDq s c r.work rows)))
      (fun s bad => (noteNan s c.id bad, some ()))

/-- R452: a sweep that has been decided with an error status tells its neighbours. -/
def leaveOnError (s : State) (c : Cmd) : State :=
  match (s.cmd? c.id).bind (·.status) with
  | some st => if 1 < st.code then leaveBoth s c (ownId s) else s
  | none => s

/-- The finish goes on as far as it can; the command is then decided. -/
def finishLoop : Nat → State → Nat → State
  | 0, s, _ => s
  | n + 1, s, id =>
    match s.cmd? id with
    | none => s
    | some c =>
      match c.run with
      | .ring r =>
        match r.work.finish with
        | [] => if sentDone s id then leaveOnError (decideWork s c r.work) c else s
        | p :: rest =>
          match (if r.bwd then finishGroup s c r p else finishQueryTile s c r p.1) with
          | (s, some ()) => finishLoop n (mapRing s id (fun r => { r with work := { r.work with finish := rest } })) id
          | (s, none) => s
      | _ => s

/-! ### Steps (R442 to R444) -/

/-- The work items of a step. -/
def stepItems (c : Cmd) (k : Compute) (e : List Word) (bwd : Bool) (t : Nat) : Nat :=
  (if bwd then k.groups * bandCount c else sweepsPer c k) * (shardDirs e t).length

/-- The work of a step before its first item. -/
def freshWork (k : Compute) (n : Nat) : Compute :=
  { k with items := n, counter := 0, redo := [], abandoned := [], assigned := [], done := [], combined := [], finish := [],
           bands := [], buffers := [] }

/-- The kept messages of a ring are delivered again. -/
def redeliverRing (s : State) (n : Nat) : State :=
  let r := takeKept s (fun o => (o.type == 0x10 || o.type == 0x11 || o.type == 0x12) && o.m.object.toNat == n)
  r.2.foldl (fun (s : State) o =>
    if o.type = 0x10 then takeShardData s o.m else if o.type = 0x11 then takeShardDone s o.m else takeShardHome s o.m) r.1

/-- A step has begun, and its shards have not set out. -/
def enterStep (s : State) (c : Cmd) (r : Ring) (t : Nat) : State × Ring :=
  let e := ringEntry s r.ring
  let n := if r.skips t then 0 else stepItems c r.work e r.bwd t
  let r := { r with step := t, gotCw := 0, gotAcw := 0, partsCw := [], partsAcw := [], ackCw := false, ackAcw := false, waiting := false,
                    dirs := [], sent := false, ready := false, since := s.now, work := freshWork r.work n }
  let s := { s with hp := { s.hp with owed := s.hp.owed.filter (fun o => o.1 != r.ring) } }
  (setRun s c.id (.ring r), r)

/-- A step begins. -/
def beginStep (s : State) (c : Cmd) (r : Ring) (t : Nat) : State :=
  let x := enterStep s c r t
  redeliverRing (ringSend x.1 c x.2) r.ring

/-- The last step has committed: the outputs are to be written. -/
def beginFinish (s : State) (c : Cmd) (r : Ring) : State :=
  let k := r.work
  let l := if r.bwd then (List.range k.groups).map (fun g => (g, 0)) ++ (List.range k.groups).map (fun g => (g, 1))
    else (List.range (sweepsPer c k)).map (fun i => (i, 0))
  setRun s c.id (.ring { r with finishing := true, sent := false, since := s.now, work := { freshWork k 0 with finish := l } })

/-- R538: both neighbours' committed steps are known: the resume step begins, or the command ends. -/
def resumeStep (s : State) (c : Cmd) (r : Ring) : State :=
  match r.peerCw, r.peerAcw with
  | some a, some b => if a + 1 < r.resume || b + 1 < r.resume then reject s c 0x051B else beginStep s c r r.resume
  | _, _ => s

/-- A sweep goes on as far as it can within its step. -/
def ringMove (s : State) (n : Nat) : State :=
  match sweepFor s n with
  | none => s
  | some (c, r) =>
    if c.stop.isSome then settle s c.id
    else if r.waiting then resumeStep s c r
    else if !r.finishing then ringSend s c r
    else
      let s := if r.bwd && !r.sent then sendHomes s c r else s
      if r.bwd && !homesIn c r (ringEntry s r.ring) then s else finishLoop (r.work.finish.length + 1) s c.id

/-- R444: the conditions of a commit; what the step writes has been written (R372). -/
def stepComplete (s : State) (c : Cmd) (r : Ring) : Bool :=
  let e := ringEntry s r.ring
  !r.waiting && !r.finishing && r.workDone && !hasChannels s c.id && r.sent &&
  ([0, 1] : List Nat).all (fun d => (!r.sends e d || r.acked d) && (!r.expects e d || shardBytes c r.work r.bwd ≤ r.got d))

/-- A step commits. A replayed step that had committed before leaves the number of the last committed step. -/
def commitStep (s : State) (c : Cmd) (r : Ring) : State :=
  let s := if r.skips r.step then s
    else { s with hp := { s.hp with ringSteps := tset {} s.hp.ringSteps r.ring { valid := true, step := r.step } } }
  if r.step < ringLast (ringEntry s r.ring) then beginStep s c r (r.step + 1)
  else ringMove (beginFinish s c r) r.ring

/-- RING_STEP_COMMIT (R444, R447, R448). -/
def execRingStepCommit (n : Nat) (s : State) : Out :=
  if !s.running then .next s else
  let s := ringMove s n
  match sweepFor s n with
  | some (c, r) => .next (if c.stop.isNone && stepComplete s c r then commitStep s c r else s)
  | none => .next s

/-! ### The messages -/

/-- SHARD_DATA (R443). -/
def execShardData (m : Msg) (s : State) : Out := receive s 0x10 m (fun s => ringMove (takeShardData s m) m.object.toNat)
/-- SHARD_DONE (R443, R538). -/
def execShardDone (m : Msg) (s : State) : Out := receive s 0x11 m (fun s => ringMove (takeShardDone s m) m.object.toNat)
/-- SHARD_HOME (R448). -/
def execShardHome (m : Msg) (s : State) : Out := receive s 0x12 m (fun s => ringMove (takeShardHome s m) m.object.toNat)

/-! ### The watchdog (R451) -/

/-- The neighbours toward which messages of a command wait for a credit, or for a port. -/
def creditWaits (s : State) (c : Cmd) : List Nat :=
  (s.hp.waiting.filter (fun o => o.cmd == some c.id)).filterMap (fun o =>
    match portFor s o with
    | some p => if hasCredit s p o then none else some (farEnd s p)
    | none => (routePorts s o.m.dest.toNat).head?.map (farEnd s))

/-- The neighbours that a member waits on: for an announcement, an incoming shard, an answer, a partial, or a credit. -/
def waitedOn (s : State) (c : Cmd) (r : Ring) : List Nat :=
  let e := ringEntry s r.ring
  let of (b : Bool) (n : Nat) : List Nat := if b then [n] else []
  (if r.waiting then of r.peerCw.isNone (ringSucc e) ++ of r.peerAcw.isNone (ringPred e)
  else if r.finishing then
    let n := 8 * partialWords c r.work
    ((homeDirs e).filter (fun d => r.bwd && (homeData r d n).length != n)).map (ringDest e)
  else
    ([0, 1] : List Nat).flatMap (fun d =>
      of (r.expects e d && r.got d < shardBytes c r.work r.bwd) (ringFrom e d) ++ of (r.sent && r.sends e d && !r.acked d) (ringDest e d))) ++
  creditWaits s c

/-- RING_STEP_WATCHDOG (R451, R452, R522). -/
def execRingStepWatchdog (n : Nat) (s : State) : Out :=
  match sweepFor s n with
  | none => .next s
  | some (c, r) =>
    match waitedOn s c r with
    | [] => .next s
    | x :: _ =>
      when (hoopOn s && (r.finishing || r.workDone) && max r.since c.tLast + watchdog s ≤ s.now) s
        (endWithLeave (suspect s 1 (portToward s x) x) c.id St.ringWatchdog (r.step % 2 ^ 16) x)

/-! ### The start (R440, R462, R535) -/

/-- R440: a neighbour is reached in the direction named. -/
def ringReach (s : State) (id dir : Nat) : Bool :=
  dir < 6 && (neighbour s (ownId s) dir == id || (match detourPort s dir with | some p => (s.port p).peer == id | none => false))

/-- A command of the same ring is in flight already: accepted before, or started, and not retired (R46). -/
def ringInFlight (s : State) (c : Cmd) (n : Nat) : Bool :=
  s.cp.table.any (fun x => x.id != c.id && (x.started || x.id < c.id) &&
    ((x.opcode == Op.ringSweep && fld (x.word 15) 7 0 == n) || (x.opcode == Op.replay && fld (x.word 2) 7 0 == n)))

/-- The checks of R462 that need no plan step, but for 0x0406. -/
def ringCheck (s : State) (c : Cmd) (inFlight : Bool) : Option Nat :=
  let e := ringEntry s (fld (c.word 15) 7 0)
  let n := ringMembers e
  if !bit (tw e 0) 0 then some 0x0401
  else if n ≤ ringPosition e || (2 ≤ n && !(ringReach s (ringSucc e) (fld (tw e 2) 18 16) && ringReach s (ringPred e) (fld (tw e 3) 18 16))) then
    some 0x0402
  else if c.queries ≠ tw e 5 || c.keysIn ≠ tw e 5 || (bit (tw e 0) 1 && tw e 5 % 2 = 1) then some 0x0403
  else if inFlight then some 0x0406
  else if 2 ≤ n && !idValid s then some 0x0407
  else none

/-- The shard area fits stake or the stacks, the state area the stacks. -/
def areasFit (e : List Word) (c : Cmd) (k : Compute) (bwd : Bool) : Bool :=
  let hi := shardArea e + 6 * shardBytes c k bwd
  (if shardArea e < stackEnd then hi ≤ stackEnd else stakeBase ≤ shardArea e && hi ≤ stakeEnd) && stateArea e + 2 * stateBytes c k ≤ stackEnd

def ringBwd (c : Cmd) : Bool := bit (c.word 15) 8

/-- The flags of a sweep's drain factors (R126), those of an output with its slot (R127). -/
def ringFlags (s : State) (c : Cmd) (k : Compute) : State := if ringBwd c then bwdFlags s c k else factorFlags s c k

/-- R535: the record of a sweep that starts is kept, and no step has committed. -/
def sweepEntry (s : State) (c : Cmd) (k : Compute) : State :=
  let n := fld (c.word 15) 7 0
  let x : SweepRec := { ring := n, queue := c.queue, words := c.words, args := k.args }
  let s := { s with hp := { s.hp with records := s.hp.records.filter (fun y => y.ring != n) ++ [x], ringSteps := tdel s.hp.ringSteps n } }
  ringFlags s c k

def sweepRing (c : Cmd) (k : Compute) : Ring := { ring := fld (c.word 15) 7 0, bwd := ringBwd c, work := k }

/-- R535: a sweep starts, with step 0. -/
def sweepStart (s : State) (c : Cmd) (k : Compute) : State := beginStep (sweepEntry s c k) c (sweepRing c k) 0

/-- R462: the fit of a ring's areas, which needs the plan step. -/
def areasCheck (s : State) (c : Cmd) (k : Compute) : Option Nat :=
  if areasFit (ringEntry s (fld (c.word 15) 7 0)) c k (ringBwd c) then none else some 0x0403

def ringStep (s : State) (c : Cmd) : State :=
  match ringCheck s c (ringInFlight s c (fld (c.word 15) 7 0)) with
  | some d => reject s c d
  | none => planWith readArgs areasCheck sweepStart s c

/-- The sweeps of a queue that run, by the opcode of their command. -/
def sweepsOf (s : State) (q op : Nat) : List Nat :=
  (s.ofQueue q).filterMap (fun c => match c.run with | .ring r => if c.status.isNone && c.name == op then some r.ring else none | _ => none)

/-- A row that starts a sweep, and otherwise looks again at those that wait or run. -/
def sweepRow (s : State) (q op : Nat) (f : State → Cmd → State) : Out :=
  match startable s q op with
  | some c => .next (f (begin_ s c) (begun s c))
  | none => when s.plaitUp s ((sweepsOf s q op).foldl ringMove ((waitingOf s q op).foldl f s))

/-- RING_SWEEP (R439 to R448). -/
def execRingSweep (q : Nat) (s : State) : Out := sweepRow s q Op.ringSweep ringStep

/-! ### REPLAY (R536 to R541) -/

/-- The packet that a REPLAY runs: of the record, with the tag, the scheduling flags and the events of its own packet. -/
def replayWords (c : Cmd) (x : SweepRec) : List Word :=
  wd ((tw x.words 0 &&& 0x18FF) ||| (c.word 0 &&& 0xFFFF2700)) :: wd (c.word 1) :: x.words.drop 2

/-- Tells a neighbour the committed step. -/
def announce (s : State) (c : Cmd) (r : Ring) (v dest : Nat) : State :=
  sendMsg s ((mkMsg s 0x11 0 dest (tagOf c.id) r.ring 0 v 0 []).by c)

/-- R541: the checks of REPLAY on its resume step. -/
def resumeBad (s : State) (x : SweepRec) (r : Nat) (committed : Option Nat) : Bool :=
  ringLast (ringEntry s x.ring) < r || (r != 0 && (bit (tw x.words 15) 8 || (match committed with | some v => v + 1 < r | none => true)))

/-- R541: what follows RING_SWEEP's checks of the record in a REPLAY: the resume step, then whether the ring is in flight. -/
def replayCheck (x : SweepRec) (resume : Nat) (committed : Option Nat) (s : State) (c : Cmd) (k : Compute) : Option Nat :=
  match areasCheck s c k with
  | some d => some d
  | none => if resumeBad s x resume committed then some 0x0519 else if ringInFlight s c x.ring then some 0x051A else none

/-- A replay runs the packet of its record from now on. -/
def replayEntry (s : State) (c : Cmd) (k : Compute) : State :=
  ringFlags (s.mapCmd c.id (fun x => { x with words := c.words, replays := true })) c k

def replayRing (resume : Nat) (committed : Option Nat) (c : Cmd) (k : Compute) : Ring :=
  { sweepRing c k with resume := resume, skipTo := if ringBwd c then none else committed, work := freshWork k 0 }

/-- A replay starts: from the home shards, or from the resume step once the neighbours' committed steps are known. -/
def replayStart (resume : Nat) (committed : Option Nat) (s : State) (c : Cmd) (k : Compute) : State :=
  let n := fld (c.word 15) 7 0
  let e := ringEntry s n
  let s := replayEntry s c k
  let r := replayRing resume committed c k
  if resume = 0 then beginStep s c r 0 else
  let r := { r with step := resume, waiting := true, since := s.now }
  let s := (distinct [ringSucc e, ringPred e]).foldl (fun (s : State) d => announce s c r (committed.getD 0) d) (setRun s c.id (.ring r))
  ringMove (redeliverRing s n) n

/-- REPLAY (R536, R541): the checks of RING_SWEEP on its record come first (log 55). -/
def replayStep (s : State) (c : Cmd) : State :=
  let n := fld (c.word 2) 7 0
  let r := fld (c.word 3) 15 0
  match s.hp.records.find? (fun x => x.ring == n) with
  | none => reject s c 0x0518
  | some x =>
    let st := tget {} s.hp.ringSteps n
    let committed := if st.valid then some st.step else none
    let c' := { c with words := replayWords c x }
    match ringCheck s c' false with
    | some d => reject s c d
    | none => planWith (fun s _ => (s, some x.args)) (replayCheck x r committed) (replayStart r committed) s c'

/-- REPLAY (R536). -/
def execReplay (q : Nat) (s : State) : Out := sweepRow s q Op.replay replayStep

end Sys2Proof.Machine
end

