-- ==== Sys2Proof/Machine/Registers.lean ====
section
/-! DEFINITION. What a read of a register returns and does, window by window (R11 to R15, R545). -/

namespace Sys2Proof.Machine

/-- One word of a 64-bit register (R11). -/
def half (v : Nat) (high : Bool) : Nat := if high then v / 2 ^ 32 % 2 ^ 32 else v % 2 ^ 32

/-- A 64-bit register with one word replaced. -/
def putHalf (old v : Nat) (high : Bool) : Nat := if high then old % 2 ^ 32 + v * 2 ^ 32 else old / 2 ^ 32 * 2 ^ 32 + v

/-- Register `k` of a bit map of 32-bit registers. -/
def mapWord (k : Nat) (f : Nat → Bool) : Nat := sumNat ((List.range 32).map (fun i => if f (32 * k + i) then 2 ^ i else 0))

/-! ### CP (R54 to R56, R67, R314 to R316) -/

/-- R56: CP_QSTATE. -/
def qstateWord (s : State) (q : Nat) : Nat :=
  let x := s.queue q
  (s.ofQueue q).length * 2 ^ 22 + b2n (replyStall s q) * 2 ^ 28 + b2n x.doorbellErr * 2 ^ 29 + x.st.code * 2 ^ 30

def queueWord (s : State) (q o : Nat) : Option Nat :=
  let x := s.queue q
  match o with
  | 0x00 => some (half x.base false) | 0x04 => some (half x.base true)
  | 0x08 => some (half x.rbase false) | 0x0C => some (half x.rbase true)
  | 0x10 => some x.cfg.toNat
  | 0x14 => some x.doorbell
  | 0x18 => some x.head
  | 0x1C => some x.rread
  | 0x20 => some x.rwrite
  | 0x24 => some (qstateWord s q)
  | 0x28 => some (half x.fault false) | 0x2C => some (half x.fault true)
  | 0x30 => some 0
  | 0x34 => some (x.errTag + x.errStatus * 2 ^ 16)
  | _ => none

/-- R67: CP_EVENT. -/
def eventWord (e : Event) : Nat := e.count + b2n e.fault * 2 ^ 16 + b2n e.underflow * 2 ^ 17 + b2n e.overflow * 2 ^ 18

def cpWord (s : State) (o : Nat) : Option Nat :=
  if 0x20 ≤ o && o < 0x40 then
    if o % 4 = 0 then some (mapWord ((o - 0x20) / 4) (fun q => (s.queue q).st == .halted)) else none
  else if 0x10000 ≤ o && o < 0x14000 then queueWord s ((o - 0x10000) / 0x40) (o % 0x40)
  else if 0x20000 ≤ o && o < 0x24000 then (if o % 4 = 0 then some (eventWord (s.event ((o - 0x20000) / 4))) else none)
  else match o with
  | 0x00 => some (half s.cp.time false) | 0x04 => some (half s.cp.time true)
  | 0x40 => some s.cp.table.length
  | 0x44 => some 0
  | 0x48 => some (s.cp.cache.length + b2n s.cp.flushBusy * 2 ^ 16)
  | 0x4C => some s.cp.diag
  | 0x50 => some s.cp.redo
  | _ => none

/-! ### WV (R161 to R165) -/

/-- 32 columns of a 128-bit value. -/
def columnsWord (b : BitVec 128) (k : Nat) : Nat := b.toNat / 2 ^ (32 * k) % 2 ^ 32

def arrayWord (x : Arr) (o : Nat) : Option Nat :=
  match o with
  | 0x00 => some (wvCfgWord x)
  | 0x04 => some (wvPresentWord x)
  | 0x08 => some (wvStatusWord x)
  | 0x0C => some (b2n x.bistDone * 2 + b2n x.bistRefused * 4)
  | 0x10 => some (columnsWord x.bypass 0) | 0x14 => some (columnsWord x.bypass 1)
  | 0x18 => some (columnsWord x.bypass 2) | 0x1C => some (columnsWord x.bypass 3)
  | 0x20 => some (columnsWord x.bistFail 0) | 0x24 => some (columnsWord x.bistFail 1)
  | 0x28 => some (columnsWord x.bistFail 2) | 0x2C => some (columnsWord x.bistFail 3)
  | _ => none

def wvWord (s : State) (o : Nat) : Option Nat :=
  if o = 0x4000 then some (onlineMap s) else if o < 0x2000 then arrayWord (s.array (o / 0x100)) (o % 0x100) else none

/-! ### RB (R274 to R278) -/

/-- Whether the pass in progress is the last of its program, which leaves a beat of the landing buffer free as it takes it. -/
def Rib.inLastPass (x : Rib) : Bool :=
  match x.pass with
  | some (point, n) =>
    match ((tget {} x.banks (b2n x.bank)).images.find? (fun p => p.1 == point)).map (·.2) with
    | some im => im.passes.length ≤ n + 1
    | none => true
  | none => false

/-- Beats held in the landing buffer: those of drained tiles that the lanes have not consumed. After the last pass none of the tile in hand is
left, also while its write waits. -/
def Rib.landingBeats (x : Rib) : Nat :=
  sumNat ((x.landing.filter (fun t => t.role != roleStake)).map (fun t => cdiv (t.rows * t.cols) 256)) -
    (if (x.inLastPass || x.pass.isNone) && ((x.landing.head?.map (·.role)).getD roleStake) != roleStake then x.beat else 0)

/-- R275: RB_STATUS. -/
def ribStatusWord (x : Rib) : Nat :=
  b2n (!x.landing.isEmpty || x.work.isSome) + b2n x.pass.isSome * 2 + b2n x.chain * 4 + b2n x.bankPending * 2 ^ 4 + b2n x.bank * 2 ^ 5 +
  min 128 x.landingBeats * 2 ^ 8 + b2n x.compat * 2 ^ 16

def ribWordAt (x : Rib) (o : Nat) : Option Nat :=
  match o with
  | 0x00 => some (ribStatusWord x)
  | 0x04 => some (b2n x.active + b2n x.swapPending * 4 + b2n x.wrRefused * 8)
  | 0x08 => some x.seedAddr
  | 0x0C => some (seedWord x.inactive (x.seedAddr / 4)).toNat
  | 0x10 => some x.fpstat.toNat
  | 0x14 => some (rbEccWord x)
  | 0x18 => some (x.eccWord + x.eccArea * 2 ^ 30)
  | _ => none

/-- Reads in the broadcast range return zero. -/
def rbWord (s : State) (o : Nat) : Option Nat :=
  if o < 0x20000 then ribWordAt (s.ribOf (o / 0x1000)) (o % 0x1000)
  else if o < 0x21000 then (ribWordAt {} (o % 0x1000)).map (fun _ => 0) else none

/-! ### ST, SK, BS (R382 to R385) -/

def stWord (s : State) (o : Nat) : Option Nat :=
  match o with
  | 0x00 => some (s.st.ringSize + b2n s.st.pending.isSome * 2 ^ 4)
  | 0x04 => some (s.st.offset + b2n s.st.wrRefused * 2 ^ 31)
  | 0x0C => some (stEccWord s)
  | 0x10 => some (s.st.eccRow + s.st.eccBank * 2 ^ 16)
  | 0x14 => some (s.st.scrubInterval + b2n s.st.scrubEnable * 2 ^ 31)
  | _ => none

/-- R384: SK_STATUS. -/
def skStatusWord (s : State) (n : Nat) : Nat :=
  let x := s.streamer n
  b2n x.eccStop + (x.channels.filter (·.missWait)).length * 2 ^ 8 + x.channels.length * 2 ^ 16 +
  sumNat (x.channels.map (·.moving.length)) * 2 ^ 24 + b2n (n < 4 || 60 ≤ n) * 2 ^ 31

def skWord (s : State) (o : Nat) : Option Nat := if o < 0x4000 && o % 0x100 = 0 then some (skStatusWord s (o / 0x100)) else none

/-- R385: BS_STATUS. -/
def bsStatusWord (b : BaseCtl) : Nat :=
  b2n b.selfRefresh + b.temp * 2 ^ 16 + b.refresh * 2 ^ 28 + b2n b.hot * 2 ^ 30 + b2n b.phyReady * 2 ^ 31

def bsWord (s : State) (o : Nat) : Option Nat :=
  if 0x2000 ≤ o then none else
  let b := s.base (o / 0x100)
  match o % 0x100 with
  | 0x00 => some (bsStatusWord b)
  | 0x04 => some (bsEccWord b)
  | 0x08 => some (half b.eccAddr false) | 0x0C => some (half b.eccAddr true)
  | _ => none

/-! ### CL (R346 to R348) -/

def FreeStack.left (f : FreeStack) : Nat := f.pushed.length + (f.total - f.fresh)

/-- R348: CL_STATUS. -/
def clStatusWord (s : State) : Nat :=
  let c := s.cl
  min 0xFFFFF c.damaged + b2n (coilBusy s) * 2 ^ 27 + b2n c.metaFault * 2 ^ 28 + b2n c.initErr * 2 ^ 29 + b2n c.initBusy * 2 ^ 30 +
  b2n c.ready * 2 ^ 31

def clWord (s : State) (o : Nat) : Option Nat :=
  let c := s.cl
  match o with
  | 0x00 => some (c.headDim + c.frameSize * 2 ^ 4)
  | 0x04 => some 0
  | 0x08 => some (clStatusWord s)
  | 0x10 => some c.stakeBase
  | 0x14 => some c.stakeCount
  | 0x18 => some (half c.stackBase false) | 0x1C => some (half c.stackBase true)
  | 0x20 => some c.stackCount
  | 0x24 => some c.listBlocks
  | 0x28 => some (half c.metaBase false) | 0x2C => some (half c.metaBase true)
  | 0x30 => some c.reserve
  | 0x34 => some c.freeStake.left
  | 0x38 => some c.freeStack.left
  | 0x3C => some c.freeList.left
  | 0x40 => some (openCount s)
  | 0x44 => some (min 0x7FFFFFF c.leaked)
  | 0x48 => some (c.damageSeq + b2n c.damageValid * 2 ^ 31)
  | _ => none

/-! ### SP (R417, R418) -/

def spWord (s : State) (o : Nat) : Option Nat :=
  let p := s.sp
  match o with
  | 0x00 => some (b2n p.enable + b2n p.ready * 2 + b2n p.initBusy * 4 + b2n p.enableErr * 8 + b2n p.badEntry * 16)
  | 0x08 => some (half p.mirrorBase false) | 0x0C => some (half p.mirrorBase true)
  | 0x10 => some (half p.missBase false) | 0x14 => some (half p.missBase true)
  | 0x18 => some 0
  | 0x1C => some (missStatusWord s)
  | 0x20 => some (mapWord 0 p.unacked.contains)
  | 0x24 => some (mapWord 1 p.unacked.contains)
  | 0x28 => some (mapWord 2 p.unacked.contains)
  | 0x30 => some (p.selCtx + p.selSegment * 2 ^ 8 + b2n p.selRoot * 2 ^ 12)
  | 0x38 => some (half p.segVbase false) | 0x3C => some (half p.segVbase true)
  | 0x40 => some (half p.segTarget false) | 0x44 => some (half p.segTarget true)
  | 0x48 => some (half p.segLen false) | 0x4C => some (half p.segLen true)
  | 0x50 => some (b2n p.segRefused * 4)
  | 0x54 => some p.winRefused
  | 0x58 => some (sumNat (p.windows.map (fun w => w.2.pages.length)))
  | _ => none

/-! ### HP (R464 to R466) -/

/-- R465: HP_LINK_STATE. -/
def linkStateWord (s : State) (p : Nat) : Nat :=
  let x := s.port p
  x.state.code + x.lanesOk * 2 ^ 4 + b2n (detourDir s p).isSome * 2 ^ 8 + x.peer * 2 ^ 16

def portWord (s : State) (p o : Nat) : Option Nat :=
  match o with
  | 0x00 => some (linkStateWord s p)
  | 0x04 => some (b2n (s.port p).enable + b2n (s.port p).loopback * 4)
  | 0x08 => some (portErrWord (s.port p))
  | _ => none

/-- R466: HP_RING_STEP. -/
def ringStepWord (s : State) (r : Nat) : Nat :=
  let x := tget {} s.hp.ringSteps r
  x.step + b2n x.valid * 2 ^ 30 + b2n (entryInUse s false r) * 2 ^ 31

def hpWord (s : State) (o : Nat) : Option Nat :=
  if o < 0x1000 then portWord s (o / 0x100) (o % 0x100)
  else if 0x10040 ≤ o && o < 0x10080 then (if o % 4 = 0 then some (tget 0#32 s.hp.tblWords ((o - 0x10040) / 4)).toNat else none)
  else if 0x10400 ≤ o && o < 0x10800 then (if o % 4 = 0 then some (ringStepWord s ((o - 0x10400) / 4)) else none)
  else match o with
  | 0x10000 => some (ownId s + b2n (idValid s) * 2 ^ 31)
  | 0x10004 => some (s.active.torusX - 1 + (s.active.torusY - 1) * 2 ^ 16)
  | 0x10008 => some (s.active.torusZ - 1)
  | 0x1000C => some s.hp.tblSel
  | 0x10010 => some (b2n s.hp.tblRefused * 4)
  | 0x10080 => some (s.hp.wRing + s.hp.wColl * 2 ^ 4 + s.hp.wRemote * 2 ^ 8)
  | 0x10084 => some s.hp.leave
  | _ => none

/-! ### TL (R486 to R489) -/

def CntCfg.toNat (c : CntCfg) : Nat := c.event + c.unit * 2 ^ 8 + b2n c.chain * 2 ^ 16 + b2n c.ovfIrq * 2 ^ 17 + b2n c.allUnits * 2 ^ 18

/-- R488: TL_CTRL. -/
def tlCtrlWord (t : Tally) : Nat := b2n t.freeze + b2n t.userPage * 4 + b2n t.tagEnable * 8 + t.tagRate * 2 ^ 8

def tlOwnWord (s : State) (o : Nat) : Option Nat :=
  let t := s.tl
  if o % 4 ≠ 0 then none
  else if 0x100 ≤ o && o < 0x140 then some (tget {} t.cfg ((o - 0x100) / 4)).toNat
  else if 0x200 ≤ o && o < 0x240 then some (tget 0 t.cnt ((o - 0x200) / 4))
  else if 0x1000 ≤ o && o < 0x1400 then some (s.slot ((o - 0x1000) / 4)).scale.toNat
  else if 0x1400 ≤ o && o < 0x1420 then some (mapWord ((o - 0x1400) / 4) (fun n => (s.slot n).hold))
  else if 0x2000 ≤ o && o < 0x3000 then some (tw (tget [] t.trace ((o - 0x2000) / 64)) (o % 64 / 4))
  else match o with
  | 0x00 => some (tlCtrlWord t)
  | 0x04 => some (tlStatusWord s)
  | 0x08 => some t.flags.toNat
  | 0x0C => some t.flagCount
  | 0x10 => some (half t.aclk false) | 0x14 => some (half t.aclk true)
  | 0x18 => some t.cntHi
  | 0x1C => some t.lfsr
  | 0x300 => some t.ovf
  | _ => none

/-- An offset of the user page that repeats a register. -/
def userRepeats (o : Nat) : Bool := (0x10 ≤ o && o < 0x18) || (0x200 ≤ o && o < 0x240)

def inUserPage (o : Nat) : Bool := 0x8000 ≤ o && o < 0x9000

def tlWord (s : State) (o : Nat) : Option Nat :=
  if inUserPage o then
    if !s.tl.userPage || o % 4 ≠ 0 then none else if userRepeats (o - 0x8000) then tlOwnWord s (o - 0x8000) else some 0
  else tlOwnWord s o

/-! ### BD (R38, R515 to R517, R542, R543, R552, R563) -/

/-- hoop_pll_lock (R38): the PLL of every enabled port is locked. A port whose link is up has its lock, of another the manual does
not say when (log 90). -/
def hoopLocked (s : State) : Bool :=
  s.hp.ports.all (fun x => !x.2.enable || x.2.state == .up || x.2.state == .retrying || Config.hoopPllLock x.1 s.now)

/-- BD_CLK_STATUS (R38). -/
def clkStatusWord (s : State) : Nat :=
  b2n s.bd.refPresent + b2n s.bd.rootLock * 2 + b2n s.bd.divRun * 4 + b2n s.bd.rootUnlockSeen * 8 + b2n (hoopLocked s) * 2 ^ 8 +
  b2n ((List.range 32).all (fun n => (s.base n).phyReady)) * 2 ^ 9 + s.bd.keep * 2 ^ 16

/-- R516: BD_RESET_REPORT, BD_THROTTLE, BD_TEMP and BD_PARK_REASON. -/
def resetReportWord (b : Border) : Nat := b.cause + b.warmCount * 2 ^ 8 + b.engineCount * 2 ^ 16 + b2n b.reportValid * 2 ^ 24
def throttleWord (s : State) : Nat :=
  s.bd.thermalCap + s.bd.elecCap * 2 ^ 5 + stackCap s * 2 ^ 10 + softCap s * 2 ^ 15 + b2n s.bd.excursion * 2 ^ 20 +
  b2n s.bd.cooldown * 2 ^ 21
def tempWord (s : State) : Nat := s.bd.junction + s.bd.sensor * 2 ^ 8 + (s.bs.foldl (fun m p => max m p.2.temp) 0) * 2 ^ 16
def parkReasonWord (b : Border) : Nat := b.parkReason + b.parkWhere * 2 ^ 8 + b2n b.parkValid * 2 ^ 31

/-- R543: BD_RES_STATUS and BD_SUSPECT. -/
def busyWith (s : State) (op : Nat) : Bool := s.cp.table.any (fun c => c.opcode == op && c.started && c.status.isNone)
def resStatusWord (s : State) : Nat :=
  s.bd.beat + b2n (busyWith s Op.checkpoint) * 2 ^ 28 + b2n (busyWith s Op.adopt) * 2 ^ 29 + b2n s.bd.adopted * 2 ^ 30 +
  b2n s.bd.plaitHung * 2 ^ 31
def suspectWord (b : Border) : Nat :=
  b.suspectEngine + b.suspectPort * 2 ^ 20 + b.suspectSource * 2 ^ 28 + b2n b.suspectValid * 2 ^ 31

/-- R563: BD_BOOT_STATUS. -/
def bootWord (b : Boot) : Nat :=
  b2n b.fuseDone + b2n b.stakeClear * 2 + b2n b.stacksReady * 4 + b2n b.plaitReady * 8 + b2n b.bootErr * 16

/-- R517: a word of the clamp report. -/
def clampWord (l : List ClampEntry) (o : Nat) : Nat :=
  let e := l.getD (o / 16) {}
  match o % 16 / 4 with | 0 => e.field | 1 => e.written | 2 => e.clamped | _ => 0

def bdWord (s : State) (o : Nat) : Option Nat :=
  let b := s.bd
  if o % 4 ≠ 0 then none
  else if 0x20 ≤ o && o < 0x40 then some (mapWord ((o - 0x20) / 4) (fun q => b.qmap.getLsbD q))
  else if 0x80 ≤ o && o < 0xA0 then some (tget 0#32 b.scratch ((o - 0x80) / 4)).toNat
  else if 0xA0 ≤ o && o < 0xC0 then some (tget 0 b.pmbAddr ((o - 0xA0) / 4))
  else if 0x1000 ≤ o && o < 0x1400 then some (clampWord b.clampLog (o - 0x1000))
  else match o with
  | 0x00 => some b.target
  | 0x04 => some (b.power.code + b2n b.waiting * 2 ^ 8 + b2n b.doorbellHeld * 2 ^ 9)
  | 0x10 => some 0
  | 0x14 => some (resetReportWord b)
  | 0x40 => some (clkStatusWord s)
  | 0x44 => some (throttleWord s)
  | 0x48 => some (tempWord s)
  | 0x4C => some (min 0xFFFF b.nowW + min 0xFFFF (avgPower s) * 2 ^ 16)
  | 0x50 => some (parkReasonWord b)
  | 0x60 => some (b.cfgSelField + b2n b.cfgSelB * 2 ^ 16)
  | 0x64 => some ((selectedSet s).get b.cfgSelField)
  | 0x68 => some (b2n b.activeB + b2n b.cfgRefused * 2 + b.clampLog.length * 2 ^ 8 + b.swapCount * 2 ^ 16)
  | 0x70 => some (b2n b.pmbEnable + b2n b.pmbFast * 2)
  | 0x74 => some (b.pmbFault + b.pmbNoAnswer * 2 ^ 8)
  | 0x200 => some (resStatusWord s)
  | 0x204 => some (b.silent + b.silentSeen * 2 ^ 16)
  | 0x208 => some (suspectWord b)
  | 0x20C => some (b.adoptedId + b.formerId * 2 ^ 16)
  | 0x300 => some b.irq
  | 0x304 => some b.irqMask
  | 0x308 => some (bootWord b.boot)
  | _ => none

/-! ### HD (R558) -/

def hdWord (s : State) (o : Nat) : Option Nat :=
  match o with
  | 0x00 => some s.hd.moduleEn
  | 0x04 => some (s.hd.moduleUp + s.hd.repaired * 2 ^ 16)
  | 0x08 => some s.hd.scope
  | 0x0C => some (hdErrWord s)
  | 0x10 => some (half s.hd.msgAddr false) | 0x14 => some (half s.hd.msgAddr true)
  | _ => none

/-! ### The register space (R545) -/

def windowSize : Nat := 0x100000
def winOf (addr : Nat) : Nat := addr / windowSize
def offOf (addr : Nat) : Nat := addr % windowSize

/-- The value of the register at an address; none where no register lies. ST_MDATA answers by R382. -/
def regWord (s : State) (addr : Nat) : Option Nat :=
  let o := offOf addr
  match winOf addr with
  | 0 => cpWord s o
  | 1 => wvWord s o
  | 2 => rbWord s o
  | 3 => stWord s o
  | 4 => skWord s o
  | 5 => bsWord s o
  | 6 => clWord s o
  | 7 => spWord s o
  | 8 => hpWord s o
  | 9 => tlWord s o
  | 10 => bdWord s o
  | 11 => hdWord s o
  | _ => none

/-- The state that a row leaves. -/
def outState (o : Out) (s : State) : State := match o with | .next t => t | _ => s

/-- What a read does beside returning the value: the registers of access RC, RB_SEED_DATA and the counters (R274, R482). -/
def readEffect (s : State) (addr : Nat) : State :=
  let o := offOf addr
  let act (x : Out) : State := outState x s
  match winOf addr with
  | 0 => if o = 0x50 then act (execCpRedoRead 0 s) else s
  | 2 =>
    if o < 0x20000 && o % 0x1000 = 0x0C then act (execRbSeedDataRead (o / 0x1000) s)
    else if o < 0x20000 && o % 0x1000 = 0x14 then act (execRbEccRead (o / 0x1000) 0 s) else s
  | 3 => if o = 0x0C then act (execStEccRead 0 s) else s
  | 5 => if o % 0x100 = 0x04 then act (execBsEccRead (o / 0x100) 0 0 s) else s
  | 7 => if o = 0x1C then act (execSpMissStatusRead 0 0 s) else if o = 0x54 then act (execSpWinRefusedRead 0 s) else s
  | 8 => if o < 0x1000 && o % 0x100 = 0x08 then act (execHpPortErrRead (o / 0x100) 0 0 0 s) else s
  | 9 =>
    let o := if inUserPage o then o - 0x8000 else o
    if o = 0x04 && !inUserPage (offOf addr) then act (execTlStatusRead 0 s)
    else if o = 0x0C && !inUserPage (offOf addr) then act (execTlFlagCountRead 0 s)
    else if 0x200 ≤ o && o < 0x240 then act (execTlCntRead ((o - 0x200) / 4) s) else s
  | 11 => if o = 0x0C then act (execHdErrRead 0 0 s) else s
  | _ => s

end Sys2Proof.Machine
end

