-- ==== Sys2Proof/Machine/Mgmt.lean ====
section
/-! DEFINITION. What a write of a register does, window by window, and the two paths to the registers: the management port (R546 to
R549) and the register path (R556). -/

namespace Sys2Proof.Machine

/-! ### CP -/

/-- R51: a write of CP_QCFG. The fields but enable take only a Disabled queue. -/
def writeQcfg (s : State) (q : Nat) (v : Word) : State :=
  let x := s.queue q
  if bit v.toNat 31 then outState (execQueueEnable q v s) s
  else if x.cfg.enable then outState (execQueueDisable q v s) s
  else if x.st == .disabled then s.setQueue q { x with cfg := qcfgOf v.toNat } else s

/-- The bits of a ring base: 51:12 (R54). -/
def ringBase (old v : Nat) (high : Bool) : Nat := putHalf old (if high then v % 2 ^ 20 else v / 4096 * 4096) high

def writeQueue (s : State) (q o : Nat) (v : Word) : State :=
  let x := s.queue q
  let n := v.toNat
  let idle := x.st == .disabled
  match o with
  | 0x00 => if idle then s.setQueue q { x with base := ringBase x.base n false } else s
  | 0x04 => if idle then s.setQueue q { x with base := ringBase x.base n true } else s
  | 0x08 => if idle then s.setQueue q { x with rbase := ringBase x.rbase n false } else s
  | 0x0C => if idle then s.setQueue q { x with rbase := ringBase x.rbase n true } else s
  | 0x10 => writeQcfg s q v
  | 0x14 => outState (execDoorbell q v s) s
  | 0x1C => s.setQueue q { x with rread := n % 2 ^ 17 }
  | 0x24 => s.setQueue q { x with doorbellErr := x.doorbellErr && !bit n 29 }
  | 0x30 => outState (execResume q v s) s
  | _ => s

def writeCp (s : State) (o : Nat) (v : Word) : State :=
  if 0x10000 ≤ o && o < 0x14000 then writeQueue s ((o - 0x10000) / 0x40) (o % 0x40) v
  else if 0x20000 ≤ o && o < 0x24000 then outState (execCpEventWrite ((o - 0x20000) / 4) v s) s
  else if o = 0x44 then outState (execFlush v s) s else s

/-! ### WV, RB -/

def writeWv (s : State) (o : Nat) (v : Word) : State :=
  if 0x2000 ≤ o then s else
  let a := o / 0x100
  match o % 0x100 with
  | 0x00 => writeWvCfg s a v
  | 0x08 => if fld v.toNat 31 28 = 0 then s.setArray a { s.array a with faultCount := 0 } else s
  | 0x0C => writeWvBist s a v
  | 0x10 => writeWvBypass s a 0 v
  | 0x14 => writeWvBypass s a 1 v
  | 0x18 => writeWvBypass s a 2 v
  | 0x1C => writeWvBypass s a 3 v
  | _ => s

def writeRb (s : State) (o : Nat) (v : Word) : State :=
  if o < 0x20000 then s.setRib (o / 0x1000) ((s.ribOf (o / 0x1000)).writeReg (o % 0x1000) v) else ribBroadcast s (o % 0x1000) v

/-! ### ST, SK, BS -/

def writeSt (s : State) (o : Nat) (v : Word) : State :=
  let n := v.toNat
  match o with
  | 0x00 => outState (execStRingCfgWrite v s) s
  | 0x04 => { s with st := { s.st with offset := fld n 30 2 * 4, wrRefused := s.st.wrRefused && !bit n 31 } }
  | 0x0C => { s with st := { s.st with uncorr := s.st.uncorr && !bit n 31, scrubUncorr := s.st.scrubUncorr && !bit n 30 } }
  | 0x14 => { s with st := { s.st with scrubEnable := bit n 31, scrubInterval := max 1 (fld n 9 0) } }
  | _ => s

def writeSk (s : State) (o : Nat) (v : Word) : State :=
  let x := s.streamer (o / 0x100)
  s.setStreamer (o / 0x100) { x with eccStop := x.eccStop && !bit v.toNat 0 }

def writeBs (s : State) (o : Nat) (v : Word) : State :=
  let b := s.base (o / 0x100)
  if o % 0x100 = 0x04 then s.setBase (o / 0x100) { b with uncorr := b.uncorr && !bit v.toNat 31 } else s

/-! ### CL (R343, R346) -/

/-- The registers that R343 closes while ready or init_busy reads 1. -/
def setCoil (c : Coil) (o v : Nat) : Coil :=
  if c.ready || c.initBusy then c else
  match o with
  | 0x00 => { c with headDim := fld v 1 0, frameSize := fld v 5 4 }
  | 0x10 => { c with stakeBase := fld v 30 0 }
  | 0x14 => { c with stakeCount := fld v 25 0 }
  | 0x18 => { c with stackBase := putHalf c.stackBase v false }
  | 0x1C => { c with stackBase := putHalf c.stackBase (fld v 19 0) true }
  | 0x20 => { c with stackCount := fld v 25 0 }
  | 0x24 => { c with listBlocks := fld v 25 0 }
  | 0x28 => { c with metaBase := putHalf c.metaBase v false }
  | 0x2C => { c with metaBase := putHalf c.metaBase (fld v 19 0) true }
  | 0x30 => { c with reserve := fld v 25 0 }
  | _ => c

def writeCl (s : State) (o : Nat) (v : Word) : State :=
  match o with
  | 0x04 => outState (execCoilInit v s) s
  | 0x08 => { s with cl := { s.cl with initErr := s.cl.initErr && !bit v.toNat 29 } }
  | _ => { s with cl := setCoil s.cl o v.toNat }

/-! ### SP (R417 to R421) -/

/-- A page address in two words: bits 11:0 are reserved. -/
def pageHalf (old v top : Nat) (high : Bool) : Nat := putHalf old (if high then v % 2 ^ top else v / 4096 * 4096) high

def setSplint (p : Splint) (o v : Nat) : Splint :=
  match o with
  | 0x08 => if p.enable then p else { p with mirrorBase := pageHalf p.mirrorBase v 20 false }
  | 0x0C => if p.enable then p else { p with mirrorBase := pageHalf p.mirrorBase v 20 true }
  | 0x10 => if p.enable then p else { p with missBase := pageHalf p.missBase v 19 false }
  | 0x14 => if p.enable then p else { p with missBase := pageHalf p.missBase v 19 true }
  | 0x30 => { p with selCtx := fld v 5 0, selSegment := fld v 11 8, selRoot := bit v 12 }
  | 0x38 => { p with segVbase := pageHalf p.segVbase v 20 false }
  | 0x3C => { p with segVbase := pageHalf p.segVbase v 20 true }
  | 0x40 => { p with segTarget := pageHalf p.segTarget v 20 false }
  | 0x44 => { p with segTarget := pageHalf p.segTarget v 20 true }
  | 0x48 => { p with segLen := pageHalf p.segLen v 20 false }
  | 0x4C => { p with segLen := pageHalf p.segLen v 20 true }
  | _ => p

def writeSp (s : State) (o : Nat) (v : Word) : State :=
  match o with
  | 0x00 => if bit v.toNat 0 then outState (execSplintEnable v s) s else outState (execSplintDisable v s) s
  | 0x18 => outState (execMissRetry v s) s
  | 0x50 => segCtrl s v.toNat
  | _ => { s with sp := setSplint s.sp o v.toNat }

/-! ### HP, TL -/

def writeHp (s : State) (o : Nat) (v : Word) : State :=
  let n := v.toNat
  if o < 0x1000 then (if o % 0x100 = 0x04 then writePortCtrl s (o / 0x100) n else s)
  else if 0x10040 ≤ o && o < 0x10080 then { s with hp := { s.hp with tblWords := tset 0#32 s.hp.tblWords ((o - 0x10040) / 4) v } }
  else match o with
  | 0x1000C => { s with hp := { s.hp with tblSel := fld n 8 0 } }
  | 0x10010 => writeTblCtrl s n
  | 0x10080 => { s with hp := { s.hp with wRing := max 1 (fld n 3 0), wColl := max 1 (fld n 7 4), wRemote := max 1 (fld n 11 8) } }
  | _ => s

/-- R481, R489: TL_CNT_CFG of a written word; chain on an even counter is stored as 0. -/
def cntCfgOf (n v : Nat) : CntCfg :=
  { event := fld v 7 0, unit := fld v 15 8, chain := bit v 16 && n % 2 == 1, ovfIrq := bit v 17, allUnits := bit v 18 }

def writeTl (s : State) (o : Nat) (v : Word) : State :=
  let n := v.toNat
  if 0x100 ≤ o && o < 0x140 then
    { s with tl := { s.tl with cfg := tset {} s.tl.cfg ((o - 0x100) / 4) (cntCfgOf ((o - 0x100) / 4) n) } }
  else if 0x200 ≤ o && o < 0x240 then outState (execTlCntWrite ((o - 0x200) / 4) v 0 s) s
  else match o with
  | 0x00 => writeTlCtrl s n
  | 0x08 => { s with tl := { s.tl with flags := .ofNat (s.tl.flags.toNat &&& (127 ^^^ (n % 128))) } }
  | 0x1C => outState (execTlTagSeedWrite v s) s
  | 0x300 => { s with tl := { s.tl with ovf := s.tl.ovf &&& (65535 ^^^ (n % 65536)) } }
  | _ => s

/-! ### BD -/

/-- R516: a keyed write of BD_RESET_CTRL. -/
def writeReset (s : State) (v : Word) : State :=
  if bit v.toNat 0 then outState (execWarmResetRegister v s) s else outState (execEngineResetRegister v s) s

def setBorder (b : Border) (o v : Nat) : Border :=
  if 0x80 ≤ o && o < 0xA0 then { b with scratch := tset 0#32 b.scratch ((o - 0x80) / 4) (wd v) }
  else if 0xA0 ≤ o && o < 0xC0 then { b with pmbAddr := tset 0 b.pmbAddr ((o - 0xA0) / 4) (fld v 7 0) }
  else match o with
  | 0x04 => { b with doorbellHeld := b.doorbellHeld && !bit v 9 }
  | 0x40 => { b with rootUnlockSeen := b.rootUnlockSeen && !bit v 3 }
  | 0x60 => { b with cfgSelB := bit v 16, cfgSelField := fld v 15 0 }
  | 0x68 => { b with cfgRefused := b.cfgRefused && !bit v 1 }
  | 0x74 => { b with pmbFault := b.pmbFault &&& (255 ^^^ fld v 7 0), pmbNoAnswer := b.pmbNoAnswer &&& (255 ^^^ fld v 15 8) }
  | 0x204 => { b with silentSeen := b.silentSeen &&& (65535 ^^^ fld v 31 16) }
  | 0x300 => { b with irq := b.irq &&& (2047 ^^^ fld v 10 0) }
  | 0x304 => { b with irqMask := fld v 10 0 }
  | _ => b

def writeBd (s : State) (o : Nat) (v : Word) : State :=
  match o with
  | 0x00 => if fld v.toNat 2 0 < 4 then writeTarget s (fld v.toNat 2 0) else s
  | 0x10 => writeReset s v
  | 0x64 => writeCfgData s v.toNat
  | 0x70 => writePmbCtrl s v.toNat
  | _ => { s with bd := setBorder s.bd o v.toNat }

/-! ### HD -/

def setHandle (h : Handle) (o v : Nat) : Handle :=
  match o with
  | 0x08 => { h with scope := min 2 (fld v 1 0) }
  | 0x0C => { h with downSeen := h.downSeen && !bit v 31 }
  | 0x10 => { h with msgAddr := putHalf h.msgAddr (v / 16 * 16) false }
  | 0x14 => { h with msgAddr := putHalf h.msgAddr (v % 2 ^ 19) true }
  | _ => h

def writeHd (s : State) (o : Nat) (v : Word) : State :=
  if o = 0x00 then writeHdCtrl s v.toNat else { s with hd := setHandle s.hd o v.toNat }

/-! ### The register space -/

/-- A write of the register at an address, by its access codes (R13). -/
def regWrite (s : State) (addr : Nat) (v : Word) : State :=
  let o := offOf addr
  match winOf addr with
  | 0 => writeCp s o v
  | 1 => writeWv s o v
  | 2 => writeRb s o v
  | 3 => writeSt s o v
  | 4 => writeSk s o v
  | 5 => writeBs s o v
  | 6 => writeCl s o v
  | 7 => writeSp s o v
  | 8 => writeHp s o v
  | 9 => if inUserPage o then s else writeTl s o v
  | 10 => writeBd s o v
  | _ => writeHd s o v

/-- R545, R548: what an access draws before it acts: error, busy, or nothing. -/
def accessCode (s : State) (addr : Nat) : Option Resp :=
  if 12 ≤ winOf addr then some .error
  else if s.windowBusy (winOf addr) then some .busy
  else if addr = 0x300008 || (regWord s addr).isSome then none else some .error

/-- A read, with its response. -/
def readAccess (s : State) (addr : Nat) : State :=
  match accessCode s addr with
  | some code => respond s code 0#32
  | none => if addr = 0x300008 then stakeRead s else respond (readEffect s addr) .ok (wd ((regWord s addr).getD 0))

/-- A write, with its response. -/
def writeAccess (s : State) (addr : Nat) (v : Word) : State :=
  match accessCode s addr with
  | some code => respond s code 0#32
  | none => if addr = 0x300008 then stakeWrite s v else respond (regWrite s addr v) .ok 0#32

/-- Power is on and no reset pin is low, so that the register space answers (R560). -/
def answers (s : State) : Bool := !s.bd.coldLow && !s.warmHeld && s.bd.power != .off

/-! ### REGISTER_WRITE (R13, R15) -/

/-- R15: the W1C bits of a register that the engine sets in the MCLK of a write read as 1 afterwards. -/
def stickySet (s : State) (addr : Nat) (b : Nat) : State :=
  let o := offOf addr
  match winOf addr, o with
  | 3, 0x04 => { s with st := { s.st with wrRefused := s.st.wrRefused || bit b 31 } }
  | 3, 0x0C => { s with st := { s.st with uncorr := s.st.uncorr || bit b 31, scrubUncorr := s.st.scrubUncorr || bit b 30 } }
  | 6, 0x08 => { s with cl := { s.cl with initErr := s.cl.initErr || bit b 29 } }
  | 7, 0x00 => { s with sp := { s.sp with enableErr := s.sp.enableErr || bit b 3, badEntry := s.sp.badEntry || bit b 4 } }
  | 7, 0x50 => { s with sp := { s.sp with segRefused := s.sp.segRefused || bit b 2 } }
  | 8, 0x10010 => { s with hp := { s.hp with tblRefused := s.hp.tblRefused || bit b 2 } }
  | 9, 0x08 => { s with tl := { s.tl with flags := s.tl.flags.or (.ofNat (b % 128)) } }
  | 9, 0x300 => { s with tl := { s.tl with ovf := s.tl.ovf ||| b % 65536 } }
  | 10, 0x04 => { s with bd := { s.bd with doorbellHeld := s.bd.doorbellHeld || bit b 9 } }
  | 10, 0x40 => { s with bd := { s.bd with rootUnlockSeen := s.bd.rootUnlockSeen || bit b 3 } }
  | 10, 0x68 => { s with bd := { s.bd with cfgRefused := s.bd.cfgRefused || bit b 1 } }
  | 10, 0x74 => { s with bd := { s.bd with pmbFault := s.bd.pmbFault ||| fld b 7 0, pmbNoAnswer := s.bd.pmbNoAnswer ||| fld b 15 8 } }
  | 10, 0x204 => { s with bd := { s.bd with silentSeen := s.bd.silentSeen ||| fld b 31 16 } }
  | 10, 0x300 => { s with bd := { s.bd with irq := s.bd.irq ||| fld b 10 0 } }
  | 11, 0x0C => { s with hd := { s.hd with downSeen := s.hd.downSeen || bit b 31 } }
  | 0, _ =>
    if 0x10000 ≤ o && o < 0x14000 && o % 0x40 = 0x24 then
      let q := (o - 0x10000) / 0x40
      s.setQueue q { s.queue q with doorbellErr := (s.queue q).doorbellErr || bit b 29 }
    else if 0x20000 ≤ o && o < 0x24000 then
      let e := (o - 0x20000) / 4
      let x := s.event e
      s.setEvent e { x with fault := x.fault || bit b 16, underflow := x.underflow || bit b 17, overflow := x.overflow || bit b 18 }
    else s
  | 1, _ =>
    if o < 0x2000 && o % 0x100 = 0x0C then
      s.setArray (o / 0x100) { s.array (o / 0x100) with bistRefused := (s.array (o / 0x100)).bistRefused || bit b 2 }
    else s
  | 2, _ =>
    let x := s.ribOf (o / 0x1000)
    if 0x20000 ≤ o then s
    else if o % 0x1000 = 0x04 then s.setRib (o / 0x1000) { x with wrRefused := x.wrRefused || bit b 3 }
    else if o % 0x1000 = 0x10 then s.setRib (o / 0x1000) { x with fpstat := x.fpstat.or (.ofNat (b % 32)) }
    else if o % 0x1000 = 0x14 then s.setRib (o / 0x1000) { x with uncorr := x.uncorr || bit b 31 }
    else s
  | 4, _ => s.setStreamer (o / 0x100) { s.streamer (o / 0x100) with eccStop := (s.streamer (o / 0x100)).eccStop || bit b 0 }
  | 5, _ =>
    if o % 0x100 = 0x04 then s.setBase (o / 0x100) { s.base (o / 0x100) with uncorr := (s.base (o / 0x100)).uncorr || bit b 31 } else s
  | _, _ => s

/-- REGISTER_WRITE (R13, R15): a write of a register; `same` names the W1C bits that the engine sets in that MCLK. -/
def execRegisterWrite (addr : BitVec 24) (v same : Word) (s : State) : Out :=
  when (answers s) s
    (let t := writeAccess s addr.toNat v
     if (accessCode s addr.toNat).isNone then stickySet t addr.toNat same.toNat else t)

/-! ### MANAGEMENT_FRAME (R547, R548) -/

/-- The CRC-8 of a request: op, address and, of a write, data, most significant bit first. -/
def requestCrc (op : BitVec 2) (addr : BitVec 24) (data : Word) : Byte :=
  crc8 (bitsDown 2 op.toNat ++ bitsDown 24 addr.toNat ++ (if op = 1#2 then bitsDown 32 data.toNat else []))

/-- A frame's request. One whose CRC fails is discarded. -/
def frame (s : State) (op : BitVec 2) (addr : BitVec 24) (data : Word) (crc : Byte) : State :=
  if crc ≠ requestCrc op addr data then respond s .crc 0#32
  else if op = 0#2 then readAccess s addr.toNat
  else if op = 1#2 then writeAccess s addr.toNat data
  else respond s .error 0#32

/-- R548: the two bits of a response code. -/
def Resp.bits (r : Resp) : Nat := match r with | .ok => 0 | .busy => 1 | .error => 2 | .crc => 3

/-- R547: the response on MP_DO, as a view of the last answer: a start bit of 0, the code, the data and their CRC-8. -/
def responseBits (s : State) : List Bool :=
  let half := bitsDown 2 s.bus.code.bits ++ bitsDown 32 s.bus.data.toNat
  false :: half ++ bitsDown 8 (crc8 half).toNat

/-- MANAGEMENT_FRAME (R547). -/
def execManagementFrame (op : BitVec 2) (addr : BitVec 24) (data : Word) (crc : BitVec 8) (s : State) : Out :=
  when (answers s) s (frame s op addr data crc)

/-! ### REGISTER_PATH_ACCESS (R556, R558) -/

/-- Whether HD_PATH_CFG admits an address. -/
def inScope (scope addr : Nat) : Bool :=
  match scope with
  | 0 => true
  | 1 => winOf addr == 0 || (winOf addr == 9 && inUserPage (offOf addr))
  | _ => false

def pathAccess (s : State) (write : Bool) (addr : Nat) (data : Word) : State :=
  if !inScope s.hd.scope addr then respond s .error 0#32
  else if write then writeAccess s addr data else readAccess s addr

/-- REGISTER_PATH_ACCESS (R556): through a Handle module that is up. -/
def execRegisterPathAccess (write : Bool) (addr : BitVec 24) (data : Word) (s : State) : Out :=
  when (answers s && handleUp s) s (pathAccess s write addr.toNat data)

end Sys2Proof.Machine
end

