-- ==== Sys2Proof/Machine/Transfers.lean ====
section
/-! DEFINITION. The Skein streamers (R365 to R372): what a channel issues, what a complete transfer leaves, and the page entries of the K/V
streamers (R339). -/

namespace Sys2Proof.Machine

def onePage (l : Loc) (n : Nat) : Bool := l.start / 4096 == (l.start + n - 1) / 4096

/-- R368: two transfers queued back to back merge. -/
def mergeable (a b : Transfer) : Bool :=
  a.data.isSome == b.data.isSome &&
  a.bytes < 4096 && b.bytes < 4096 && a.src.plus a.bytes == b.src && a.dst.plus a.bytes == b.dst && a.bytes + b.bytes ≤ 4096 &&
  onePage a.src (a.bytes + b.bytes) && onePage a.dst (a.bytes + b.bytes)

/-- A merged transfer. -/
def Transfer.merge (a b : Transfer) : Transfer := { a with bytes := a.bytes + b.bytes, data := a.data.map (· ++ b.data.getD []) }

/-- R368: the next transfer of a queue, merged while the conditions hold, and the rest. -/
def mergeFrom (t : Transfer) : List Transfer → Transfer × List Transfer
  | [] => (t, [])
  | u :: us => if mergeable t u then mergeFrom (t.merge u) us else (t, u :: us)

/-- Transfers outstanding of a streamer (R367). -/
def Streamer.outstanding (k : Streamer) : Nat := sumNat (k.channels.map (fun c => c.moving.length))

/-- The access of a streamer for a command. -/
def streamerAccess (s : State) (sk id : Nat) (t : Transfer) (write : Bool) : Waiter :=
  let c := (s.cmd? id).getD {}
  { agent := sk, queue := c.queue, tag := c.tag, cmd := some id, va := 0, write := write, word := t.word }

/-! ### Pages of a cursor (R370, R371) -/

/-- The slot of a ring that holds a key block. -/
def SlotRing.slotOf (x : SlotRing) (block : Nat) : Option Nat := (List.range x.plan.length).find? (fun n => (x.planOf n).block == block)

/-- The transfers of a page of a cursor: the rows of its K half and of its V half that its slots hold. -/
def pageMoves (s : State) (u : Cursor) (p : PageEntry) : List Transfer :=
  let half (id base : Nat) : List Transfer :=
    let x := s.ringAt id
    let v := (x.planOf 0).view
    ((List.range p.slots).map (· + 64 * p.block)).filterMap (fun tok =>
      match if u.lo ≤ tok then x.slotOf ((tok - u.lo) / u.keys) else none with
      | some n => some { src := .phys (base + tok % 64 * v.rowBytes), dst := .slot id n ((tok - u.lo) % u.keys * (64 * v.lines)), bytes := v.rowBytes }
      | none => none)
  half u.kRing p.frame ++ half u.vRing (p.frame + 64 * ((s.ringAt u.kRing).planOf 0).view.rowBytes)

/-- The slot that a transfer fills is free (R369); a ring that has ended takes nothing. -/
def destFree (s : State) (t : Transfer) : Bool :=
  match t.dst with
  | .slot r n _ => (s.ringAt r).free n
  | _ => true

/-- The transfers of the first page that has any, once every slot that it fills is free, and the pages left. -/
def takePage (s : State) (u : Cursor) : List PageEntry → List Transfer × List PageEntry
  | [] => ([], [])
  | p :: ps =>
    let ts := pageMoves s u p
    if ts.isEmpty then takePage s u ps else if ts.all (destFree s) then (ts, ps) else ([], p :: ps)

/-- A cursor's channel takes up its next page. -/
def nextPage (s : State) (c : Channel) : Channel :=
  match c.cursor, c.queued with
  | some u, [] => let x := takePage s u c.pages; { c with queued := x.1, pages := x.2 }
  | _, _ => c

/-- What the completion of a command's last transfer leads to: a Coil command commits (R325), and work that was over but for it ends (R372). -/
def lastTransfer (s : State) (id : Nat) : State :=
  if hasChannels s id then s else
  match s.cmd? id with
  | some k => if k.run == .coilMove then coilMoved s k else endWork s id
  | none => s

/-- A channel with nothing left. -/
def Channel.over (c : Channel) : Bool :=
  c.queued.isEmpty && c.moving.isEmpty && c.pages.isEmpty && (match c.cursor with | some u => u.last < u.next | none => true)

/-- A channel with nothing left closes. -/
def closeIfDone (s : State) (sk i : Nat) (c : Channel) : State :=
  if !c.over then s else
  lastTransfer (s.setStreamer sk { s.streamer sk with channels := (s.streamer sk).channels.eraseIdx i }) c.cmd

/-! ### TRANSFER_ISSUE -/

/-- What a channel's attempt to issue gives. -/
inductive Issue where
  | issued | blocked | ended
  deriving DecidableEq, Repr

def setChannel (s : State) (sk i : Nat) (c : Channel) : State :=
  s.setStreamer sk { s.streamer sk with channels := (s.streamer sk).channels.set i c }

/-- A channel issues its next transfer (R369, R371): it is blocked while the slot that it fills is not free, a piece waits on a
translation, or its page queue is empty. -/
def issueChannel (s : State) (sk i : Nat) (c : Channel) : State × Issue :=
  let c := nextPage s c
  match c.queued with
  | [] => if c.over then (closeIfDone s sk i c, .ended) else (setChannel s sk i c, .blocked)
  | t :: ts =>
    if !destFree s t then (setChannel s sk i c, .blocked) else
    let (t, rest) := mergeFrom t ts
    match placePieces s (streamerAccess s sk c.cmd t false) t.bytes t.src with
    | (s, some src, _) =>
      match placePieces s (streamerAccess s sk c.cmd t true) t.bytes t.dst with
      | (s, some dst, _) =>
        (setChannel (noteEvent s 0x21 sk (cdiv t.bytes 64)) sk i
          { c with queued := rest, moving := c.moving ++ [{ t := t, src := src, dst := dst }], missWait := false }, .issued)
      | (s, none, .faulted) => (s, .ended)
      | (s, none, _) => (setChannel s sk i { c with missWait := true }, .blocked)
    | (s, none, .faulted) => (s, .ended)
    | (s, none, _) => (setChannel s sk i { c with missWait := true }, .blocked)

/-- The channels in turn: a blocked channel leaves the others free to issue, and the turn goes past the one that issued (R369). -/
def issueFrom (s : State) (sk : Nat) : List Nat → State
  | [] => s
  | i :: is =>
    match issueChannel s sk i ((s.streamer sk).channels.getD i {}) with
    | (s, .blocked) => issueFrom s sk is
    | (s, .issued) => s.setStreamer sk { s.streamer sk with turn := i + 1 }
    | (s, .ended) => s

/-- The numbers of a streamer's channels, from its turn on. -/
def Streamer.order (k : Streamer) : List Nat :=
  let n := k.channels.length
  (List.range n).map (fun i => (k.turn + i) % n)

/-- TRANSFER_ISSUE (R366, R367): a streamer issues the next transfer of a channel that is not blocked. -/
def execTransferIssue (sk : Nat) (s : State) : Out :=
  when (s.running && sk < 64 && (s.streamer sk).outstanding < 8) s (issueFrom s sk (s.streamer sk).order)

/-! ### TRANSFER_COMPLETE -/

/-- A channel that reads a failing line stops (R379, R384). -/
def channelStopped (s : State) (sk id pa : Nat) : State :=
  eccEnd (s.setStreamer sk { s.streamer sk with eccStop := true }) id pa

/-- The device-physical address of a byte of a list of pieces. -/
def pieceAt : List (Nat × Nat) → Nat → Nat
  | [], _ => 0
  | (pa, n) :: ps, off => if off < n then pa + off else pieceAt ps (off - n)

/-- The data of a transfer, where it lies when the transfer is complete. -/
def movedBytes (s : State) (m : Moving) : List Byte := m.t.data.getD (readPieces s.mem m.src)

/-- The data is written: into a slot, or over the destination's pieces; the place of a line that could not be written. -/
def putMoved (s : State) (id : Nat) (m : Moving) : State × Option Nat :=
  match m.t.dst with
  | .slot r n off => if (s.ringAt r).cmd = id then slotWrite s r n off (movedBytes s m) else (s, none)
  | _ =>
    writeMeets (keepOld s id m.dst) m.dst (movedBytes s m)

/-- A moving transfer ends: its data is checked (R377, R379), written (R380) and visible (R372). A finding lies at byte `place` of its
source. -/
def finishMove (s : State) (sk i : Nat) (c : Channel) (m : Moving) (rest : List Moving) (f : Finding) : State :=
  let found := !m.src.isEmpty && f.place < m.t.bytes
  let pa := pieceAt m.src f.place
  match readMeets (if found then meetAt s pa f else s) m.src with
  | (s, some pa) => channelStopped s sk c.cmd pa
  | (s, none) =>
    match putMoved s c.cmd m with
    | (s, some pa) => eccWriteEnd s c.cmd pa
    | (s, none) =>
      let c := { c with moving := rest }
      let s := noteLines (noteLines s 0x30 m.src) 0x31 m.dst
      closeIfDone (setChannel s sk i c) sk i c

/-- TRANSFER_COMPLETE (R367, R372): the oldest outstanding transfer of a channel is complete. -/
def execTransferComplete (sk ch : Nat) (f : Finding) (s : State) : Out :=
  if !(s.running && sk < 64) then .next s else
  match (s.streamer sk).channels[ch]? with
  | none => .next s
  | some c =>
    match c.moving with
    | m :: rest =>
      let host := (m.src ++ m.dst).any (fun p => regionOf p.1 == .host)
      .next (if host && !handleUp s then holdOnHandle s (streamerAccess s sk c.cmd m.t false) else finishMove s sk ch c m rest f)
    | [] => .next s

/-! ### PAGE_ENTRY_DELIVERY -/

/-- The first cursor of a streamer that can take a page entry: token blocks left and room in its page queue of 32 (R339). -/
def hungryChannel (k : Streamer) : Option (Nat × Channel × Cursor) :=
  (List.range k.channels.length).findSome? (fun i =>
    let c := k.channels.getD i {}
    match c.cursor with
    | some u => if u.next ≤ u.last && c.pages.length < 32 then some (i, c, u) else none
    | none => none)

/-- The hold of a command on a sequence. -/
def snapOf (s : State) (id seq : Nat) : Snapshot :=
  match s.cmd? id with
  | some c => ((workOf c).snaps.find? (fun n => n.seq == seq)).getD { seq := seq }
  | none => { seq := seq }

/-- PAGE_ENTRY_DELIVERY (R339, R370): Coil delivers the next page entry of a cursor. A list block that fails ends the reader (R341); a
finding lies at byte `place` of what Coil reads of the page list. -/
def execPageEntryDelivery (sk : Nat) (f : Finding) (s : State) : Out :=
  if !(s.running && kvStreamers.contains sk) then .next s else
  match hungryChannel (s.streamer sk) with
  | none => .next s
  | some (i, c, u) =>
    let d := readerDesc s (snapOf s c.cmd u.seq)
    let p := u.next * d.groups + u.group
    let ps := listRanges s.cl d p (p + 1)
    let s := if f.place < sumNat (ps.map (·.2)) then meetAt s (pieceAt ps f.place) f else s
    match pagesLost s c.cmd u.seq d p (p + 1) false with
    | (s, true) => .next s
    | (s, false) => .next (setChannel s sk i
        { c with cursor := some { u with next := u.next + 1 }, pages := c.pages ++ [pageEntry s.cl d u.group u.next u.snapshot] })

end Sys2Proof.Machine
end

