-- ==== Sys2Proof/Machine/Dispatch.lean ====
section
/-! DEFINITION. One arm per constructor of Instr: the meaning of each command. -/

namespace Sys2Proof.Machine

def exec (i : Instr) (s : State) : Host.Outcome State Fault Refusal :=
  match i with
  | .doorbell q v => Sys2Proof.Machine.execDoorbell q v s
  | .packetAccept => Sys2Proof.Machine.execPacketAccept s
  | .commandRetire id inconsistent => Sys2Proof.Machine.execCommandRetire id inconsistent s
  | .nop q => Sys2Proof.Machine.execNop q s
  | .fence q => Sys2Proof.Machine.execFence q s
  | .signal q => Sys2Proof.Machine.execSignal q s
  | .waitEvents q => Sys2Proof.Machine.execWaitEvents q s
  | .gemm q => Sys2Proof.Machine.execGemm q s
  | .gemm2 q => Sys2Proof.Machine.execGemm2 q s
  | .convert q => Sys2Proof.Machine.execConvert q s
  | .rowstat q => Sys2Proof.Machine.execRowstat q s
  | .softmax q => Sys2Proof.Machine.execSoftmax q s
  | .attnFwd q => Sys2Proof.Machine.execAttnFwd q s
  | .attnBwd q => Sys2Proof.Machine.execAttnBwd q s
  | .attnDecode q => Sys2Proof.Machine.execAttnDecode q s
  | .scanFwd q => Sys2Proof.Machine.execScanFwd q s
  | .scanBwd q => Sys2Proof.Machine.execScanBwd q s
  | .seqOpen q => Sys2Proof.Machine.execSeqOpen q s
  | .seqClose q => Sys2Proof.Machine.execSeqClose q s
  | .kvAppend q => Sys2Proof.Machine.execKvAppend q s
  | .kvFork q => Sys2Proof.Machine.execKvFork q s
  | .kvTrim q => Sys2Proof.Machine.execKvTrim q s
  | .kvEvict q => Sys2Proof.Machine.execKvEvict q s
  | .kvPin q => Sys2Proof.Machine.execKvPin q s
  | .xlMap q => Sys2Proof.Machine.execXlMap q s
  | .xlInval q => Sys2Proof.Machine.execXlInval q s
  | .winOpen q => Sys2Proof.Machine.execWinOpen q s
  | .winClose q => Sys2Proof.Machine.execWinClose q s
  | .windowCloseComplete w => Sys2Proof.Machine.execWindowCloseComplete w s
  | .ringSweep q => Sys2Proof.Machine.execRingSweep q s
  | .ringStepCommit r => Sys2Proof.Machine.execRingStepCommit r s
  | .allreduce q => Sys2Proof.Machine.execAllreduce q s
  | .allreduceV q => Sys2Proof.Machine.execAllreduceV q s
  | .putRemote q => Sys2Proof.Machine.execPutRemote q s
  | .getRemote q => Sys2Proof.Machine.execGetRemote q s
  | .cfgWriteShadow q => Sys2Proof.Machine.execCfgWriteShadow q s
  | .cfgSwap q => Sys2Proof.Machine.execCfgSwap q s
  | .tallySnap q => Sys2Proof.Machine.execTallySnap q s
  | .scaleUpdate q => Sys2Proof.Machine.execScaleUpdate q s
  | .checkpoint q => Sys2Proof.Machine.execCheckpoint q s
  | .adopt q => Sys2Proof.Machine.execAdopt q s
  | .replay q => Sys2Proof.Machine.execReplay q s
  | .engineReset q => Sys2Proof.Machine.execEngineReset q s
  | .queueAbort q => Sys2Proof.Machine.execQueueAbort q s
  | .abortComplete q => Sys2Proof.Machine.execAbortComplete q s
  | .queueEnable q v => Sys2Proof.Machine.execQueueEnable q v s
  | .queueDisable q v => Sys2Proof.Machine.execQueueDisable q v s
  | .queueDisableComplete q => Sys2Proof.Machine.execQueueDisableComplete q s
  | .resume q v => Sys2Proof.Machine.execResume q v s
  | .cpEventWrite e v => Sys2Proof.Machine.execCpEventWrite e v s
  | .workItemAssign a f => Sys2Proof.Machine.execWorkItemAssign a f s
  | .arrayReform a form => Sys2Proof.Machine.execArrayReform a form s
  | .latchCopy a t => Sys2Proof.Machine.execLatchCopy a t s
  | .drainComplete a f => Sys2Proof.Machine.execDrainComplete a f s
  | .arrayFault a t cause => Sys2Proof.Machine.execArrayFault a t cause s
  | .arrayProgressTimeout a t => Sys2Proof.Machine.execArrayProgressTimeout a t s
  | .arrayOffline a => Sys2Proof.Machine.execArrayOffline a s
  | .wvCfgWrite a v => Sys2Proof.Machine.execWvCfgWrite a v s
  | .wvColBypassWrite a k v => Sys2Proof.Machine.execWvColBypassWrite a k v s
  | .heldArrayWriteApply a => Sys2Proof.Machine.execHeldArrayWriteApply a s
  | .wvBistRun a v => Sys2Proof.Machine.execWvBistRun a v s
  | .bistDone a failed => Sys2Proof.Machine.execBistDone a failed s
  | .programLoad a id => Sys2Proof.Machine.execProgramLoad a id s
  | .bankSwitch a => Sys2Proof.Machine.execBankSwitch a s
  | .passStart a f => Sys2Proof.Machine.execPassStart a f s
  | .beat a f => Sys2Proof.Machine.execBeat a f s
  | .sweepFinish a f => Sys2Proof.Machine.execSweepFinish a f s
  | .dPass id => Sys2Proof.Machine.execDPass id s
  | .bandStart id => Sys2Proof.Machine.execBandStart id s
  | .dqPartialCombine a => Sys2Proof.Machine.execDqPartialCombine a s
  | .dqFinish id => Sys2Proof.Machine.execDqFinish id s
  | .decodeCombine id tile f => Sys2Proof.Machine.execDecodeCombine id tile f s
  | .partialCombine a f => Sys2Proof.Machine.execPartialCombine a f s
  | .finishItem a f => Sys2Proof.Machine.execFinishItem a f s
  | .slotReady a r f g => Sys2Proof.Machine.execSlotReady a r f g s
  | .slotFree a r f => Sys2Proof.Machine.execSlotFree a r f s
  | .seedSwap a v => Sys2Proof.Machine.execSeedSwap a v s
  | .seedSwapExchange a => Sys2Proof.Machine.execSeedSwapExchange a s
  | .rbSeedDataWrite a v => Sys2Proof.Machine.execRbSeedDataWrite a v s
  | .rbSeedDataRead a => Sys2Proof.Machine.execRbSeedDataRead a s
  | .rbBroadcastWrite off v => Sys2Proof.Machine.execRbBroadcastWrite off v s
  | .ribNop a x => Sys2Proof.Machine.execRibNop a x s
  | .mov a x => Sys2Proof.Machine.execMov a x s
  | .sel a x => Sys2Proof.Machine.execSel a x s
  | .ldb a x => Sys2Proof.Machine.execLdb a x s
  | .stb a x => Sys2Proof.Machine.execStb a x s
  | .konst a x => Sys2Proof.Machine.execKonst a x s
  | .rowv a x => Sys2Proof.Machine.execRowv a x s
  | .colv a x => Sys2Proof.Machine.execColv a x s
  | .laneidx a x => Sys2Proof.Machine.execLaneidx a x s
  | .lswp a x => Sys2Proof.Machine.execLswp a x s
  | .fadd a x => Sys2Proof.Machine.execFadd a x s
  | .fsub a x => Sys2Proof.Machine.execFsub a x s
  | .fmul a x => Sys2Proof.Machine.execFmul a x s
  | .ffma a x => Sys2Proof.Machine.execFfma a x s
  | .fdiv a x => Sys2Proof.Machine.execFdiv a x s
  | .fsqrt a x => Sys2Proof.Machine.execFsqrt a x s
  | .fmin a x => Sys2Proof.Machine.execFmin a x s
  | .fmax a x => Sys2Proof.Machine.execFmax a x s
  | .fcmp a x => Sys2Proof.Machine.execFcmp a x s
  | .fsgn a x => Sys2Proof.Machine.execFsgn a x s
  | .fscale a x => Sys2Proof.Machine.execFscale a x s
  | .fexpo a x => Sys2Proof.Machine.execFexpo a x s
  | .fcvt a x => Sys2Proof.Machine.execFcvt a x s
  | .dadd a x => Sys2Proof.Machine.execDadd a x s
  | .dsub a x => Sys2Proof.Machine.execDsub a x s
  | .dmul a x => Sys2Proof.Machine.execDmul a x s
  | .dfma a x => Sys2Proof.Machine.execDfma a x s
  | .ddiv a x => Sys2Proof.Machine.execDdiv a x s
  | .dsqrt a x => Sys2Proof.Machine.execDsqrt a x s
  | .dcmp a x => Sys2Proof.Machine.execDcmp a x s
  | .turn a x => Sys2Proof.Machine.execTurn a x s
  | .iadd a x => Sys2Proof.Machine.execIadd a x s
  | .isub a x => Sys2Proof.Machine.execIsub a x s
  | .imul a x => Sys2Proof.Machine.execImul a x s
  | .iand a x => Sys2Proof.Machine.execIand a x s
  | .ior a x => Sys2Proof.Machine.execIor a x s
  | .ixor a x => Sys2Proof.Machine.execIxor a x s
  | .ish a x => Sys2Proof.Machine.execIsh a x s
  | .icmp a x => Sys2Proof.Machine.execIcmp a x s
  | .exp a x => Sys2Proof.Machine.execExp a x s
  | .exp2 a x => Sys2Proof.Machine.execExp2 a x s
  | .log2 a x => Sys2Proof.Machine.execLog2 a x s
  | .rcp a x => Sys2Proof.Machine.execRcp a x s
  | .rsqrt a x => Sys2Proof.Machine.execRsqrt a x s
  | .tanh a x => Sys2Proof.Machine.execTanh a x s
  | .sint a x => Sys2Proof.Machine.execSint a x s
  | .cost a x => Sys2Proof.Machine.execCost a x s
  | .gact a x => Sys2Proof.Machine.execGact a x s
  | .wexp a x => Sys2Proof.Machine.execWexp a x s
  | .wlog a x => Sys2Proof.Machine.execWlog a x s
  | .rsum a x => Sys2Proof.Machine.execRsum a x s
  | .rmax a x => Sys2Proof.Machine.execRmax a x s
  | .racc a x => Sys2Proof.Machine.execRacc a x s
  | .rowfin a x => Sys2Proof.Machine.execRowfin a x s
  | .stg a x => Sys2Proof.Machine.execStg a x s
  | .drop a x => Sys2Proof.Machine.execDrop a x s
  | .addF32 pa vals => Sys2Proof.Machine.execAddF32 pa vals s
  | .testSet pa bit => Sys2Proof.Machine.execTestSet pa bit s
  | .inc32 pa word => Sys2Proof.Machine.execInc32 pa word s
  | .scrub bank row f => Sys2Proof.Machine.execScrub bank row f s
  | .transferIssue sk => Sys2Proof.Machine.execTransferIssue sk s
  | .transferComplete sk ch f => Sys2Proof.Machine.execTransferComplete sk ch f s
  | .pageEntryDelivery sk f => Sys2Proof.Machine.execPageEntryDelivery sk f s
  | .stRingCfgWrite v => Sys2Proof.Machine.execStRingCfgWrite v s
  | .ringCfgApply => Sys2Proof.Machine.execRingCfgApply s
  | .stMdataWrite v => Sys2Proof.Machine.execStMdataWrite v s
  | .stMdataRead f => Sys2Proof.Machine.execStMdataRead f s
  | .managementStakeWaitExpiry => Sys2Proof.Machine.execManagementStakeWaitExpiry s
  | .stackTempRead n t => Sys2Proof.Machine.execStackTempRead n t s
  | .parityRetry n pa => Sys2Proof.Machine.execParityRetry n pa s
  | .coilInit v => Sys2Proof.Machine.execCoilInit v s
  | .coilInitDone => Sys2Proof.Machine.execCoilInitDone s
  | .translation agent ctx va write q tag word => Sys2Proof.Machine.execTranslation agent ctx va write q tag word s
  | .missRetry v => Sys2Proof.Machine.execMissRetry v s
  | .missFault v => Sys2Proof.Machine.execMissFault v s
  | .missTimeout seq => Sys2Proof.Machine.execMissTimeout seq s
  | .agentWithdrawalAck agent => Sys2Proof.Machine.execAgentWithdrawalAck agent s
  | .splintEnable v => Sys2Proof.Machine.execSplintEnable v s
  | .splintReady => Sys2Proof.Machine.execSplintReady s
  | .splintDisable v => Sys2Proof.Machine.execSplintDisable v s
  | .segmentStore v => Sys2Proof.Machine.execSegmentStore v s
  | .segmentLoad v => Sys2Proof.Machine.execSegmentLoad v s
  | .portEnable p v => Sys2Proof.Machine.execPortEnable p v s
  | .portTrainingDone p peer => Sys2Proof.Machine.execPortTrainingDone p peer s
  | .portTrainingTimeout p => Sys2Proof.Machine.execPortTrainingTimeout p s
  | .portReset p v => Sys2Proof.Machine.execPortReset p v s
  | .linkBlock p b => Sys2Proof.Machine.execLinkBlock p b s
  | .laneAlignmentLoss p lane => Sys2Proof.Machine.execLaneAlignmentLoss p lane s
  | .putData m => Sys2Proof.Machine.execPutData m s
  | .putAck m => Sys2Proof.Machine.execPutAck m s
  | .putNack m => Sys2Proof.Machine.execPutNack m s
  | .getReq m => Sys2Proof.Machine.execGetReq m s
  | .getData m => Sys2Proof.Machine.execGetData m s
  | .getNack m => Sys2Proof.Machine.execGetNack m s
  | .shardData m => Sys2Proof.Machine.execShardData m s
  | .shardDone m => Sys2Proof.Machine.execShardDone m s
  | .shardHome m => Sys2Proof.Machine.execShardHome m s
  | .chunkData m f => Sys2Proof.Machine.execChunkData m f s
  | .chunkSignal m => Sys2Proof.Machine.execChunkSignal m s
  | .counts m => Sys2Proof.Machine.execCounts m s
  | .slotGrant m => Sys2Proof.Machine.execSlotGrant m s
  | .leave m => Sys2Proof.Machine.execLeave m s
  | .hello m => Sys2Proof.Machine.execHello m s
  | .ringStepWatchdog r => Sys2Proof.Machine.execRingStepWatchdog r s
  | .putGetWatchdog id => Sys2Proof.Machine.execPutGetWatchdog id s
  | .tableStore v => Sys2Proof.Machine.execTableStore v s
  | .tableLoad v => Sys2Proof.Machine.execTableLoad v s
  | .tallyEventArrival code unit n => Sys2Proof.Machine.execTallyEventArrival code unit n s
  | .tlCntWrite n v events => Sys2Proof.Machine.execTlCntWrite n v events s
  | .tlCntRead n => Sys2Proof.Machine.execTlCntRead n s
  | .clearCounters v => Sys2Proof.Machine.execClearCounters v s
  | .freeze v => Sys2Proof.Machine.execFreeze v s
  | .tlTagSeedWrite v => Sys2Proof.Machine.execTlTagSeedWrite v s
  | .tlFlagCountRead arriving => Sys2Proof.Machine.execTlFlagCountRead arriving s
  | .cpRedoRead arriving => Sys2Proof.Machine.execCpRedoRead arriving s
  | .rbEccRead a arriving => Sys2Proof.Machine.execRbEccRead a arriving s
  | .stEccRead arriving => Sys2Proof.Machine.execStEccRead arriving s
  | .bsEccRead n retries corrected => Sys2Proof.Machine.execBsEccRead n retries corrected s
  | .hpPortErrRead p retries uncorrectable corrected => Sys2Proof.Machine.execHpPortErrRead p retries uncorrectable corrected s
  | .spWinRefusedRead arriving => Sys2Proof.Machine.execSpWinRefusedRead arriving s
  | .spMissStatusRead late unknown => Sys2Proof.Machine.execSpMissStatusRead late unknown s
  | .tlStatusRead arriving => Sys2Proof.Machine.execTlStatusRead arriving s
  | .hdErrRead before arriving => Sys2Proof.Machine.execHdErrRead before arriving s
  | .flush v => Sys2Proof.Machine.execFlush v s
  | .verificationFlushDone => Sys2Proof.Machine.execVerificationFlushDone s
  | .targetRun => Sys2Proof.Machine.execTargetRun s
  | .targetIdle => Sys2Proof.Machine.execTargetIdle s
  | .targetRest => Sys2Proof.Machine.execTargetRest s
  | .targetPark => Sys2Proof.Machine.execTargetPark s
  | .powerStateEntry => Sys2Proof.Machine.execPowerStateEntry s
  | .returnToRun => Sys2Proof.Machine.execReturnToRun s
  | .parkExit => Sys2Proof.Machine.execParkExit s
  | .protectivePark => Sys2Proof.Machine.execProtectivePark s
  | .warmResetRegister v => Sys2Proof.Machine.execWarmResetRegister v s
  | .engineResetRegister v => Sys2Proof.Machine.execEngineResetRegister v s
  | .engineResetDone => Sys2Proof.Machine.execEngineResetDone s
  | .powerUp => Sys2Proof.Machine.execPowerUp s
  | .powerRemoval => Sys2Proof.Machine.execPowerRemoval s
  | .coldResetAssert => Sys2Proof.Machine.execColdResetAssert s
  | .coldResetRelease => Sys2Proof.Machine.execColdResetRelease s
  | .warmResetPin => Sys2Proof.Machine.execWarmResetPin s
  | .warmResetRelease => Sys2Proof.Machine.execWarmResetRelease s
  | .rootPllLock => Sys2Proof.Machine.execRootPllLock s
  | .rootPllUnlock => Sys2Proof.Machine.execRootPllUnlock s
  | .fuseDone => Sys2Proof.Machine.execFuseDone s
  | .stakeClearDone => Sys2Proof.Machine.execStakeClearDone s
  | .stacksReady ok => Sys2Proof.Machine.execStacksReady ok s
  | .plaitReady ok => Sys2Proof.Machine.execPlaitReady ok s
  | .junctionSensorRead temps => Sys2Proof.Machine.execJunctionSensorRead temps s
  | .thermalCapFall => Sys2Proof.Machine.execThermalCapFall s
  | .thermalCapRise => Sys2Proof.Machine.execThermalCapRise s
  | .energyReport clocked => Sys2Proof.Machine.execEnergyReport clocked s
  | .excursionLimit => Sys2Proof.Machine.execExcursionLimit s
  | .coolDownEnd => Sys2Proof.Machine.execCoolDownEnd s
  | .keepRatioApply => Sys2Proof.Machine.execKeepRatioApply s
  | .pmbusPoll rails => Sys2Proof.Machine.execPmbusPoll rails s
  | .pmbusEnable v => Sys2Proof.Machine.execPmbusEnable v s
  | .bdCfgDataWrite v => Sys2Proof.Machine.execBdCfgDataWrite v s
  | .heartbeat => Sys2Proof.Machine.execHeartbeat s
  | .portSilence p => Sys2Proof.Machine.execPortSilence p s
  | .plaitReport => Sys2Proof.Machine.execPlaitReport s
  | .plaitHung => Sys2Proof.Machine.execPlaitHung s
  | .handleModuleEnable v => Sys2Proof.Machine.execHandleModuleEnable v s
  | .handleModuleUp m repaired => Sys2Proof.Machine.execHandleModuleUp m repaired s
  | .handleModuleDown m => Sys2Proof.Machine.execHandleModuleDown m s
  | .handleTimeout id => Sys2Proof.Machine.execHandleTimeout id s
  | .managementFrame op addr data crc => Sys2Proof.Machine.execManagementFrame op addr data crc s
  | .registerPathAccess write addr data => Sys2Proof.Machine.execRegisterPathAccess write addr data s
  | .registerWrite addr v same => Sys2Proof.Machine.execRegisterWrite addr v same s
  | .bypass die => Sys2Proof.Machine.execBypass die s
  | .idcode die => Sys2Proof.Machine.execIdcode die s
  | .samplePreload die => Sys2Proof.Machine.execSamplePreload die s
  | .extest die => Sys2Proof.Machine.execExtest die s
  | .clamp die => Sys2Proof.Machine.execClamp die s
  | .highz die => Sys2Proof.Machine.execHighz die s
  | .powerStateEntered => Sys2Proof.Machine.execPowerStateEntered s
  | .reformDone a => Sys2Proof.Machine.execReformDone a s

end Sys2Proof.Machine
end

