-- ==== Sys2Proof/Safety.lean ====
section
/-! DEFINITION. What the statements speak of: the start of a packet command, the invariant that every step keeps, and the parts of the
state that a family of commands leaves alone. -/

namespace Sys2Proof.Machine

/-- Command `c` is the one that queue `q` starts next, its opcode is `op`, it may start now (R63, R68, R69, R506), the command
table knows it by its number, and it has done nothing yet. -/
def Starts (s : State) (q op : Nat) (c : Cmd) : Prop :=
  startable s q op = some c ∧ s.cmd? c.id = some c ∧ c.run = .none ∧ c.undo = []

/-- The entry of a command has status `code`, `detail` and `count`, and its start time is CP_TIME. -/
def Decided (s t : State) (c : Cmd) (code detail count : Nat) : Prop :=
  ∃ d, t.cmd? c.id = some d ∧ d.words = c.words ∧ d.queue = c.queue ∧ d.started = true ∧ d.tStart = s.cp.time ∧
    ∃ h, d.status = some ⟨code, detail, count, h⟩

/-- A command has started and waits, undecided. -/
def Waits (s t : State) (c : Cmd) : Prop :=
  ∃ d, t.cmd? c.id = some d ∧ d.words = c.words ∧ d.started = true ∧ d.tStart = s.cp.time ∧ d.status = none ∧ d.run = .waiting

/-- Nothing but Plait's state changed. -/
def OnlyPlait (s t : State) : Prop := t = { s with cp := t.cp }

/-! ### The lanes of a rib (R233, R239, R243) -/

/-- The value of a lane of a vector register. -/
def laneAt (s : State) (a n l : Nat) : Word := ((s.ribOf a).reg n).getD l 0#32

/-- The lanes of registers `n` and `n + 1` as an FP64 pattern, low word first (R244). -/
def pairAt64 (s : State) (a n l : Nat) : Nat := (laneAt s a n l).toNat + 2 ^ 32 * (laneAt s a (n + 1) l).toNat

/-- Whether an instruction writes a lane: its predicate register's bit, inverted by pn (R243). -/
def laneOn (s : State) (a : Nat) (x : RibArgs) (l : Nat) : Bool := ((s.ribOf a).pred x.pr.toNat).getD l false != x.pn

/-- Register `n` takes `f` in the lanes that the instruction writes, and keeps its value in the others. -/
def LanesTake (s t : State) (a : Nat) (x : RibArgs) (n : Nat) (f : Nat → Word) : Prop :=
  ∀ l, l < 256 → laneAt t a n l = if laneOn s a x l = true then f l else laneAt s a n l

/-- The vector registers but those of `ns` keep their values. -/
def RegsKept (s t : State) (a : Nat) (ns : List Nat) : Prop := ∀ n, n ∉ ns → (t.ribOf a).reg n = (s.ribOf a).reg n

/-- The predicate registers keep their values. -/
def PredsKept (s t : State) (a : Nat) : Prop := ∀ n, (t.ribOf a).pred n = (s.ribOf a).pred n

/-- What no lane instruction changes: the other ribs, the tiles, programs and seed tables of its own, memory and every other part of the
state but the sticky flags of Tally. -/
def LaneFrame (s t : State) (a : Nat) : Prop :=
  (∀ b, b ≠ a → t.ribOf b = s.ribOf b) ∧
  (t.ribOf a).landing = (s.ribOf a).landing ∧ (t.ribOf a).banks = (s.ribOf a).banks ∧ (t.ribOf a).seedA = (s.ribOf a).seedA ∧
  (t.ribOf a).seedB = (s.ribOf a).seedB ∧ (t.ribOf a).pass = (s.ribOf a).pass ∧
  (∀ n, (t.slot n) = { s.slot n with flags := (t.slot n).flags }) ∧
  t = { s with rib := t.rib, tl := { s.tl with slots := t.tl.slots, flags := t.tl.flags, onWay := t.tl.onWay } }

/-- The instruction raises no flag: neither in RB_FPSTAT nor among the sticky flags. -/
def NoFlags (s t : State) (a : Nat) : Prop :=
  (t.ribOf a).fpstat = (s.ribOf a).fpstat ∧ t.tl.flags = s.tl.flags ∧ t.tl.onWay = s.tl.onWay ∧ ∀ n, t.slot n = s.slot n

/-- The lanes of the beat in hand that lie in bounds (R234). -/
def insideLanes (s : State) (a : Nat) : List Nat := (List.range 256).filter (s.ribOf a).regs.inside

/-- RB_FPSTAT gathers the IEEE 754 flags of the lanes in bounds (R277). -/
def FpFlags (s t : State) (a : Nat) (f : Nat → FFlags) : Prop :=
  (t.ribOf a).fpstat = (s.ribOf a).fpstat.or (joinF ((insideLanes s a).map f))

/-- The start of plan step command `c` passes every check in state `s` (R287 to R299): it leaves `u`, with the work `k`. -/
def Planned (s : State) (c : Cmd) (u : State) (k : Compute) : Prop :=
  ∀ fin : State → Cmd → Compute → State, planGo fin s c = fin u c k

/-- The entry of command `c` is undecided and does the work `k`. -/
def Works (s : State) (c : Cmd) (k : Compute) : Prop := ∃ d, s.cmd? c.id = some d ∧ d.status = none ∧ d.run = .compute k

/-- The message `m` arrives on a port of this engine and is for it, not discarded by a detour (R430, R431, R531). -/
def Arrives (s : State) (m : Msg) : Prop := arrives s m = true ∧ discarded s m = false ∧ m.dest.toNat = ownId s

/-! ### Relations between fields that every step keeps -/

/-- The doorbell that Plait acts on is at most a ring's length ahead of the head (R42 to R44). One stored in Rest, which takes its place until
Plait acts on it, is there only in Rest, on the way there or to Park, or on the way back (R492); from Rest, Park alone is waited for. -/
def DoorbellsFit (s : State) : Prop :=
  (∀ q, q < 256 →
    let x := s.queue q
    x.head < 2 ^ 17 ∧ x.doorbell < 2 ^ 17 ∧ (∀ v, x.held = some v → v < 2 ^ 17) ∧
    (x.unread = true → (inRest s = true ∨ s.bd.power = .returning) ∧ x.held.isSome = true) ∧
    (x.st ≠ .disabled → ahead (if x.unread = true then x.held.getD 0 else x.doorbell) x.head ≤ 2 ^ x.cfg.log2Size)) ∧
  ((s.bd.power = .rest ∨ s.bd.power = .entering 2) → s.bd.waiting = true → s.bd.target = 3)

/-- The commands in the command table bear different numbers, given before the next one. -/
def CommandsNumbered (s : State) : Prop :=
  (s.cp.table.map (·.id)).Nodup ∧ ∀ c ∈ s.cp.table, c.id < s.cp.nextId

end Sys2Proof.Machine
end

