-- ==== Sys2Proof/Certificates/Slice0/Obligations.lean ====
section
/-! DEFINITION. The statements for the provers. Those that rest on a choice of the model name its log entry. -/

open Sys2Proof Sys2Proof.Machine

/-- A step takes the command at the front of the queue and runs it with the queue's rest. -/
def Obligations.StepRunsTheFrontCommand : Prop :=
  ∀ (c : Instr) (rest : List Instr) (s : State), s.pending = c :: rest → step s = exec c { s with pending := rest }

/-- The model's own reading (log 2) of R54, R33 and R479: a step on an empty queue is one CCLK. Where the divider runs, CP_TIME and the
place in the pattern advance by one and, in Run, TL_ACLK takes the ACLK pulses that R33 keeps in it, which also count as stalls of a
command for each array of it that stalls (R485; log 156 says which do); the links that are up send idle blocks (R427; log 132), an error
may arise in stored data (log 136), and nothing else of the ports, of the command table or of the queues changes. Where it does not run,
only the reference input is seen (R38; log 114), and stored data age. -/
def Obligations.IdleStepIsOneCclk : Prop :=
  (∀ s : State, s.pending = [] → s.bd.divRun = false → step s = .next { s with
    mem := s.mem.struck (Config.upset s.free), free := s.free + 1,
    bd := { s.bd with refPresent := s.bd.refPresent || (s.bd.power != .off && !s.bd.coldLow) } }) ∧
  (∀ s : State, s.pending = [] → s.bd.divRun = true →
    ∃ t, step s = .next t ∧ t.cp = { s.cp with time := (s.cp.time + 1) % 2 ^ 64, table := t.cp.table } ∧
      (s.bd.power ≠ .run → t.cp.table = s.cp.table) ∧
      (s.bd.power = .run → (∀ c ∈ s.cp.table, c.stalls < 2 ^ 32) → t.cp.table = s.cp.table.map (fun c =>
        { c with stalls := min 0xFFFFFFFF (c.stalls + pulses s.bd.keep s.bd.phase * (stalledFor s).count c.id) })) ∧
      t.bd.phase = (s.bd.phase + 1) % 8 ∧
      t.tl.aclk = (if s.bd.power = .run then (s.tl.aclk + ((List.range 2).map (fun j =>
        if (2 * s.bd.phase + j) * s.bd.keep / 16 < (2 * s.bd.phase + j + 1) * s.bd.keep / 16 then 2 else 0)).sum) % 2 ^ 64 else s.tl.aclk) ∧
      t.mem = s.mem.struck (Config.upset s.free) ∧ t.pending = [] ∧ t.sp = s.sp ∧ t.hp = { s.hp with ports := t.hp.ports } ∧
      (∀ p, t.port p = { s.port p with arrived := (t.port p).arrived, outHeader := (t.port p).outHeader }) ∧
      (∀ p, portUp s p = false → t.port p = s.port p) ∧ t.cl = s.cl ∧ t.arr = s.arr ∧ t.rib = s.rib ∧ t.rings = s.rings ∧
      t.st = s.st ∧ t.hd = s.hd ∧ t.jt = s.jt)

/-- The reset values that the register tables give (R54, R55, R67, R163, R383, R465 to R467, R484, R488, R503, R507, R516, R552). That no
command waits is the model's choice (log 3), and so is that memory lists nothing (log 5); both relations between fields that every step
keeps hold. -/
def Obligations.ResetValues : Prop :=
  let s := State.reset
  s.cp.time = 0 ∧
  (∀ q, s.queue q = { cfg := { log2Size := 4 } } ∧ (s.queue q).st = .disabled) ∧
  (∀ e, s.event e = { count := 0, fault := false, underflow := false, overflow := false }) ∧
  s.cp.table = [] ∧ s.cp.cache = [] ∧
  (∀ a, (s.array a).faultCount = 0 ∧ (s.array a).lastFault = 0) ∧
  s.st.ringSize = 1 ∧
  (∀ n, (s.slot n).scale = 0x3F800000#32 ∧ (s.slot n).format = 0xFF) ∧
  s.tl.tagRate = 8 ∧ s.tl.lfsr = 1 ∧ s.tl.flags = {} ∧
  s.hp.wRing = 4 ∧ s.hp.wColl = 2 ∧ s.hp.wRemote = 1 ∧
  s.bd.keep = 16 ∧ s.bd.irq = 0 ∧ s.bd.irqMask = 0x7FF ∧ s.bd.power = .run ∧
  s.active.ringWatchdogUs = 20000 ∧ s.active.heartbeatMs = 10 ∧ s.active.histBase = 0xFFFFFFD8 ∧
  (∀ w, (s.window w).state = 0) ∧ (∀ n, (s.desc n).state = 0) ∧ s.pending = [] ∧ s.mem.cells = [] ∧ s.mem.wf = true ∧
  DoorbellsFit s ∧ CommandsNumbered s

/-- DOORBELL (R44, R84, R490 to R492): a legal tail is recorded, and in Idle the engine returns to Run, with its target left waiting (R491);
one for an Aborting queue is held; one in Rest is stored and flagged. -/
def Obligations.DoorbellRecordsTheTail : Prop :=
  (∀ (q : Nat) (v : Word) (s : State), s.windowOpen 0 = true → s.bd.power = .run → (s.queue q).st ≠ .aborting →
    (v.toNat % 2 ^ 17 + 2 ^ 17 - (s.queue q).head % 2 ^ 17) % 2 ^ 17 ≤ 2 ^ (s.queue q).cfg.log2Size →
    exec (.doorbell q v) s = .next (s.setQueue q { s.queue q with doorbell := v.toNat % 2 ^ 17 })) ∧
  (∀ (q : Nat) (v : Word) (s : State), s.windowOpen 0 = true → s.bd.power = .idle → (s.queue q).st ≠ .aborting →
    (v.toNat % 2 ^ 17 + 2 ^ 17 - (s.queue q).head % 2 ^ 17) % 2 ^ 17 ≤ 2 ^ (s.queue q).cfg.log2Size →
    ∃ t, exec (.doorbell q v) s = .next t ∧ t.queue q = { s.queue q with doorbell := v.toNat % 2 ^ 17 } ∧
      (∀ p, p ≠ q → t.queue p = s.queue p) ∧ t.bd = { s.bd with power := .returning, waiting := s.bd.target != 0 } ∧
      t = { s with cp := t.cp, bd := t.bd }) ∧
  (∀ (q : Nat) (v : Word) (s : State), s.windowOpen 0 = true → s.bd.power = .run ∨ s.bd.power = .idle → (s.queue q).st = .aborting →
    exec (.doorbell q v) s = .next (s.setQueue q { s.queue q with held := some (v.toNat % 2 ^ 17) })) ∧
  (∀ (q : Nat) (v : Word) (s : State), s.windowOpen 0 = true → s.bd.power = .rest →
    ∃ t, exec (.doorbell q v) s = .next t ∧ (t.queue q).doorbell = v.toNat % 2 ^ 17 ∧ (t.queue q).st = (s.queue q).st ∧
      t.bd.doorbellHeld = true ∧ t.bd.irq = s.bd.irq ||| 2 ^ 8 ∧ t.cp.table = s.cp.table ∧ t.mem = s.mem)

/-- R44: in Run or Idle, a doorbell value further ahead of CP_QHEAD than the ring is long is ignored: doorbell_err is set, a Running queue
halts, and one completion message goes out. (In Rest the value is stored: R492.) That the message waits while no Handle module is up is
the model's choice (log 45). -/
def Obligations.DoorbellErrorHaltsTheQueue : Prop :=
  ∀ (q : Nat) (v : Word) (s : State), s.windowOpen 0 = true → s.bd.power = .run ∨ s.bd.power = .idle → (s.queue q).st ≠ .aborting →
    2 ^ (s.queue q).cfg.log2Size < (v.toNat % 2 ^ 17 + 2 ^ 17 - (s.queue q).head % 2 ^ 17) % 2 ^ 17 →
    ∃ t, exec (.doorbell q v) s = .next t ∧
      t.queue q = { s.queue q with
        doorbellErr := true, st := if (s.queue q).st = .running then .halted else (s.queue q).st } ∧
      (∀ p, p ≠ q → t.queue p = s.queue p) ∧ t.cp.table = s.cp.table ∧ t.cp.events = s.cp.events ∧
      (if s.hd.moduleUp = 0 then t.hd.waiting.length = s.hd.waiting.length + 1 ∧ t.mem = s.mem
       else t.hd = { s.hd with sent := s.hd.sent + 1 } ∧
         ∀ a, (a < 0x8000000000000 + s.hd.msgAddr ∨ 0x8000000000000 + s.hd.msgAddr + 16 ≤ a) → t.mem.read a = s.mem.read a)

/-- PACKET_ACCEPT (R46, R86): the queue that the arbiter picks has the 64 bytes at its head fetched through its context, and CP_QHEAD
advances. A packet that passes the issue-time checks enters the command table undecided; one that fails them is decided PLAN_REJECTED
with the detail of the first check, and with the count that R90 gives its opcode, ALLREDUCE its elements (log 129). -/
def Obligations.PacketAcceptEntersTheCommand : Prop :=
  ∀ (s u v : State) (q : Nat) (ps : List (Nat × Nat)) (x : Xlate), s.running = true →
    arbitrate s s.cp.lastAccept (mayAccept s) = some q →
    translateRange s (s.queue q).cfg.xlCtx
      { agent := 64, queue := q, va := (s.queue q).base + 64 * ((s.queue q).head % 2 ^ (s.queue q).cfg.log2Size) }
      ((s.queue q).base + 64 * ((s.queue q).head % 2 ^ (s.queue q).cfg.log2Size)) 64 = (u, some ps, x) →
    readMeets u ps = (v, none) → (u.queue q).st = .running → (∀ y ∈ u.cp.table, y.id ≠ u.cp.nextId) →
    ∃ t c, exec .packetAccept s = .next t ∧ t.cmd? u.cp.nextId = some c ∧
      c.id = u.cp.nextId ∧ c.queue = q ∧ c.words = wordsOf (readPieces v.mem ps) ∧ c.started = false ∧ c.tAccept = u.cp.time ∧
      (t.queue q).head = ((u.queue q).head + 1) % 2 ^ 17 ∧ t.mem = v.mem ∧ t.cp.nextId = u.cp.nextId + 1 ∧
      (issueCheck (u.queue q).cfg { queue := q, words := c.words, id := c.id } = none →
        c.status = none ∧ t.cp.table.length = u.cp.table.length + 1 ∧ (t.queue q).st = (u.queue q).st) ∧
      (∀ d, issueCheck (u.queue q).cfg { queue := q, words := c.words, id := c.id } = some d →
        (∃ h, c.status = some ⟨0x10, d, if c.opcode = 0x51 then c.word 4 else 0, h⟩) ∧ (t.queue q).st = .halted)

/-- COMMAND_RETIRE (R71, R88, R64): a decided command with a reply has the four words of R88 written to the entry of its queue's reply ring
at CP_RWRITE, which advances; its signal event is decremented or faulted; its table entry is freed. Whether Plait's firmware is found
inconsistent (log 130) matters only to a command that is not yet decided.
R71, R93: a quiet command that ends with OK retires without a reply; nothing of memory changes. -/
def Obligations.RetireWritesTheReply : Prop :=
  (∀ (s u v : State) (id : Nat) (b : Bool) (c : Cmd) (r : Status) (ps : List (Nat × Nat)) (x : Xlate), s.plaitUp = true →
    s.cmd? id = some c → c.status = some r → c.noReply = false → (c.quiet = false ∨ r.code ≠ 0) →
    c.irq = false → r.halts = false → c.gathers = [] → c.opcode ≠ 0x7E →
    translateRange s (s.queue c.queue).cfg.xlCtx
      { agent := 64, queue := c.queue, tag := c.tag,
        va := (s.queue c.queue).rbase + 16 * ((s.queue c.queue).rwrite % 2 ^ (s.queue c.queue).cfg.log2Size),
        write := true, reply := some id }
      ((s.queue c.queue).rbase + 16 * ((s.queue c.queue).rwrite % 2 ^ (s.queue c.queue).cfg.log2Size)) 16 = (u, some ps, x) →
    u.cmd? id = some c →
    writeMeets u ps (wordBytes [
      wd (c.tag + r.code * 2 ^ 16 + c.name * 2 ^ 24),
      wd (r.detail % 2 ^ 16 + c.tDecided / 2 ^ 32 % 2 ^ 15 * 2 ^ 16 +
        (if (s.queue c.queue).rwrite / 2 ^ (s.queue c.queue).cfg.log2Size % 2 = 0 then 2 ^ 31 else 0)),
      wd r.count, wd c.tDecided]) = (v, none) →
    ∃ t, exec (.commandRetire id b) s = .next t ∧ t.cmd? id = none ∧ t.mem = v.mem ∧
      (t.queue c.queue) = { u.queue c.queue with rwrite := ((s.queue c.queue).rwrite + 1) % 2 ^ 17 } ∧
      (∀ p, p ≠ c.queue → t.queue p = u.queue p) ∧
      (∀ e, t.event e = if c.signalEn = true ∧ e = c.signalEvent then
          (if 1 < r.code then { u.event e with fault := true }
           else if (u.event e).count = 0 then { u.event e with underflow := true }
           else { u.event e with count := (u.event e).count - 1 })
        else u.event e)) ∧
  (∀ (s : State) (id : Nat) (b : Bool) (c : Cmd) (r : Status), s.plaitUp = true → s.cmd? id = some c → c.status = some r →
    c.quiet = true → r.code = 0 → c.irq = false → r.halts = false → c.gathers = [] → c.opcode ≠ 0x7E →
    ∃ t, exec (.commandRetire id b) s = .next t ∧ t.cmd? id = none ∧ t.mem = s.mem ∧ t.cp.queues = s.cp.queues ∧
      t.arr = s.arr ∧ t.rib = s.rib ∧ t.sp = s.sp ∧ t.hd = s.hd ∧ t.bd = s.bd)

/-- NOP, FENCE and WAIT (R74): NOP is decided OK as it starts; FENCE is, unless all_queues is set and an earlier command of any queue is in
flight; WAIT is once every enabled event is released. One that is not yet decided waits. Only Plait's state changes. -/
def Obligations.OrderingCommandsComplete : Prop :=
  (∀ (s : State) (q : Nat) (c : Cmd), Starts s q 0x01 c →
    ∃ t, exec (.nop q) s = .next t ∧ Decided s t c 0 0 0 ∧ OnlyPlait s t ∧ t.cp.queues = s.cp.queues ∧ t.cp.events = s.cp.events) ∧
  (∀ (s : State) (q : Nat) (c : Cmd), Starts s q 0x02 c →
    ∃ t, exec (.fence q) s = .next t ∧ OnlyPlait s t ∧ t.cp.queues = s.cp.queues ∧ t.cp.events = s.cp.events ∧
      (if c.word 2 % 2 = 1 ∧ ∃ d ∈ s.cp.table, d.id < c.id then Waits s t c else Decided s t c 0 0 0)) ∧
  (∀ (s : State) (q : Nat) (c : Cmd), Starts s q 0x04 c →
    ∃ t, exec (.waitEvents q) s = .next t ∧ OnlyPlait s t ∧ t.cp.queues = s.cp.queues ∧ t.cp.events = s.cp.events ∧
      (if (∀ w ∈ [2, 3], ∀ h ∈ [0, 16], c.word w / 2 ^ (h + 15) % 2 = 1 →
            (s.event (c.word w / 2 ^ h % 2 ^ 12)).count = 0 ∧ (s.event (c.word w / 2 ^ h % 2 ^ 12)).fault = false)
       then Decided s t c 0 0 0 else Waits s t c))

/-- SIGNAL (R74, R67): operation 0 sets the count, 1 adds and saturates at 0xFFFF with the overflow bit, 2 subtracts and saturates at 0 with
the underflow bit; no other event changes, and the command is decided OK.
CP_EVENT writes (R67): the count is stored and each 1 clears its flag. -/
def Obligations.EventCountsChange : Prop :=
  (∀ (s : State) (q : Nat) (c : Cmd), Starts s q 0x03 c →
    let e := c.word 2 % 2 ^ 12
    let v := c.word 3 % 2 ^ 16
    let n := (s.event e).count
    ∃ t, exec (.signal q) s = .next t ∧ Decided s t c 0 0 0 ∧ OnlyPlait s t ∧ t.cp.queues = s.cp.queues ∧
      (∀ d, d ≠ e → t.event d = s.event d) ∧
      (c.word 2 / 2 ^ 12 % 4 = 0 → t.event e = { s.event e with count := v }) ∧
      (c.word 2 / 2 ^ 12 % 4 = 1 → t.event e =
        { s.event e with count := min 0xFFFF (n + v), overflow := (s.event e).overflow || decide (0xFFFF < n + v) }) ∧
      (c.word 2 / 2 ^ 12 % 4 = 2 → t.event e =
        { s.event e with count := n - v, underflow := (s.event e).underflow || decide (n < v) })) ∧
  (∀ (e : Nat) (v : Word) (s : State), s.windowOpen 0 = true →
    exec (.cpEventWrite e v) s = .next (s.setEvent e {
      count := v.toNat % 2 ^ 16, fault := (s.event e).fault && !v.getLsbD 16,
      underflow := (s.event e).underflow && !v.getLsbD 17, overflow := (s.event e).overflow && !v.getLsbD 18 }))

/-- QUEUE_ENABLE, QUEUE_DISABLE, QUEUE_DISABLE_COMPLETE and RESUME (R49 to R52, R55): the moves of a queue between its states, with the
registers that enabling clears. Nothing else changes.
QUEUE_ABORT (R83): the target moves to Aborting and its unaccepted packets are discarded by moving CP_QHEAD to the last doorbell value;
every undecided command of it ends with RESET_ABORT or at its next tile boundary; its count so far is those packets and the commands
that have ended with RESET_ABORT (R90). That a command which holds no incomplete tile is at a tile boundary is the model's choice (log
131).
ABORT_COMPLETE (R49, R83, R84): a drained target returns to Running, or to Disabled with enable 0, its QUEUE_ABORT ends with OK and its
count, and a doorbell held meanwhile is applied. -/
def Obligations.QueueStatesMove : Prop :=
  ((∀ (q : Nat) (v : Word) (s : State), s.windowOpen 0 = true → v.getLsbD 31 = true → (s.queue q).cfg.enable = false →
    (s.queue q).st = .disabled →
    exec (.queueEnable q v) s = .next (s.setQueue q { s.queue q with
      cfg := { enable := true, priv := v.getLsbD 30, serviceOk := v.getLsbD 29, burnoeg := v.getLsbD 28,
               prio := v.toNat / 2 ^ 24 % 4, irqVector := v.toNat / 2 ^ 16 % 2 ^ 8, xlCtx := v.toNat / 2 ^ 10 % 2 ^ 6,
               inflightM1 := v.toNat / 2 ^ 5 % 2 ^ 5, log2Size := max 4 (min 16 (v.toNat % 2 ^ 5)) },
      head := 0, rwrite := 0, rread := 0, doorbell := 0, held := none, unread := false, st := .running })) ∧
  (∀ (q : Nat) (v : Word) (s : State), s.windowOpen 0 = true → v.getLsbD 31 = true → (s.queue q).cfg.enable = false →
    (s.queue q).st ≠ .disabled →
    ∃ t, exec (.queueEnable q v) s = .next t ∧ (t.queue q).head = 0 ∧ (t.queue q).rwrite = 0 ∧ (t.queue q).rread = 0 ∧
      (t.queue q).doorbell = 0 ∧ (t.queue q).cfg.enable = true ∧ (t.queue q).st = (s.queue q).st ∧
      (∀ p, p ≠ q → t.queue p = s.queue p) ∧ t.cp.table = s.cp.table ∧ t.mem = s.mem) ∧
  (∀ (q : Nat) (v : Word) (s : State), s.windowOpen 0 = true → v.getLsbD 31 = false → (s.queue q).cfg.enable = true →
    exec (.queueDisable q v) s = .next (s.setQueue q { s.queue q with cfg := { (s.queue q).cfg with enable := false } })) ∧
  (∀ (q : Nat) (s : State), s.plaitUp = true → (s.queue q).cfg.enable = false →
    ((s.queue q).st = .running ∨ (s.queue q).st = .halted) → s.ofQueue q = [] →
    exec (.queueDisableComplete q) s = .next (s.setQueue q { s.queue q with st := .disabled })) ∧
  (∀ (q : Nat) (v : Word) (s : State), s.windowOpen 0 = true → v.getLsbD 0 = true → (s.queue q).st = .halted →
    exec (.resume q v) s = .next (s.setQueue q { s.queue q with st := .running }))) ∧
  (∀ (s : State) (q p : Nat) (c : Cmd), Starts s q 0x7F c → p = c.word 2 % 2 ^ 8 → p ≠ q → (s.queue p).st ≠ .disabled →
    (s.cp.table.map (·.id)).Nodup →
    ∃ t d, exec (.queueAbort q) s = .next t ∧ (t.queue p).st = .aborting ∧ (t.queue p).head = (s.queue p).doorbell ∧
      t.queue q = s.queue q ∧ t.cmd? c.id = some d ∧ d.status = none ∧
      d.run = .aborting p (((s.queue p).doorbell + 2 ^ 17 - (s.queue p).head % 2 ^ 17) % 2 ^ 17 +
        ((s.ofQueue p).filter (fun x => x.status.isNone &&
          (t.cmd? x.id).any (fun y => y.status.any (fun r => r.code == 0x60 && r.detail == 2)))).length) ∧
      (∀ x ∈ s.ofQueue p, x.status = none → ∃ y, t.cmd? x.id = some y ∧ (y.status.isSome = true ∨ y.stop.isSome = true))) ∧
  (∀ (q : Nat) (s : State), s.plaitUp = true → (s.queue q).st = .aborting → s.ofQueue q = [] →
    (∀ v, (s.queue q).held = some v →
      (v + 2 ^ 17 - (s.queue q).head % 2 ^ 17) % 2 ^ 17 ≤ 2 ^ (s.queue q).cfg.log2Size) →
    ∃ t, exec (.abortComplete q) s = .next t ∧
      t.queue q = { s.queue q with
        st := if (s.queue q).cfg.enable = true then .running else .disabled, held := none,
        doorbell := (s.queue q).held.getD (s.queue q).doorbell } ∧
      (∀ c n, s.cmd? c.id = some c → c.run = .aborting q n → c.status = none →
        ∃ d h, t.cmd? c.id = some d ∧ d.status = some ⟨0, 0, n, h⟩) ∧
      t.mem = s.mem ∧ t.cp.events = s.cp.events)

/-- FLUSH, VERIFICATION_FLUSH_DONE and ENGINE_RESET (R315, R85, R501): the cache is emptied and flush_busy stands until the flush is done;
ENGINE_RESET with its confirming bit is decided OK before its effect, and without it PLAN_REJECTED (0x0502). -/
def Obligations.FlushAndEngineReset : Prop :=
  (∀ (v : Word) (s : State), s.windowOpen 0 = true → v.getLsbD 0 = true →
    exec (.flush v) s = .next { s with cp := { s.cp with cache := [], flushBusy := true } }) ∧
  (∀ s : State, s.bd.divRun = true →
    exec .verificationFlushDone s = .next { s with cp := { s.cp with flushBusy := false } }) ∧
  (∀ (s : State) (q : Nat) (c : Cmd), Starts s q 0x7E c → c.word 2 % 2 = 1 →
    ∃ t, exec (.engineReset q) s = .next t ∧ Decided s t c 0 0 0 ∧ OnlyPlait s t ∧ t.cp.queues = s.cp.queues) ∧
  (∀ (s : State) (q : Nat) (c : Cmd), Starts s q 0x7E c → c.word 2 % 2 = 0 →
    ∃ t, exec (.engineReset q) s = .next t ∧ Decided s t c 0x10 0x0502 0 ∧ (t.queue c.queue).st = .halted)

/-- WV_CFG_WRITE, WV_COL_BYPASS_WRITE and HELD_ARRAY_WRITE_APPLY (R29, R146, R148, R162): a write to an array with nothing in flight takes
effect at once, in place of an older value that is held; one to a busy array is held and takes effect once the array is free. A form
code of 3 keeps the form.
WV_BIST_RUN and BIST_DONE (R165): the test runs only on an array that is offline by register and has no tile in flight; a run on an
online or busy array sets bist_refused. The end records the failing columns and leaves WV_COL_BYPASS as it was.
ARRAY_REFORM and REFORM_DONE (R137, R138): an array with nothing in flight takes another form, with form_lock only that of WV_CFG; when
it is done, both accumulator tiles hold no result. -/
def Obligations.ArrayControls : Prop :=
  ((∀ (a : Nat) (v : Word) (s : State), s.windowOpen 1 = true → a < 32 →
    ∃ t, exec (.wvCfgWrite a v) s = .next t ∧ t = { s with arr := t.arr } ∧ (∀ b, b ≠ a → t.array b = s.array b) ∧
      ((s.array a).busy = true → t.array a = { s.array a with heldCfg := some v }) ∧
      ((s.array a).busy = false → t.array a = { s.array a with
        form := if v.toNat % 4 = 3 then (s.array a).form else v.toNat % 4, heldCfg := none,
        formLock := v.getLsbD 4, offline := v.getLsbD 8, offlineCause := if v.getLsbD 8 = true then (s.array a).offlineCause else 0 })) ∧
  (∀ (a k : Nat) (v : Word) (s : State), s.windowOpen 1 = true → a < 32 → k < 4 →
    ∃ t, exec (.wvColBypassWrite a k v) s = .next t ∧ t = { s with arr := t.arr } ∧ (∀ b, b ≠ a → t.array b = s.array b) ∧
      ((s.array a).busy = true → (t.array a).bypass = (s.array a).bypass ∧ (k, v) ∈ (t.array a).heldBypass) ∧
      ((s.array a).busy = false → (∀ p ∈ (t.array a).heldBypass, p.1 ≠ k) ∧ ∀ i, i < 128 → (t.array a).bypass.getLsbD i =
        if i / 32 = k then v.getLsbD (i % 32) else (s.array a).bypass.getLsbD i)) ∧
  (∀ (a : Nat) (s : State), s.bd.divRun = true → a < 32 → (s.array a).busy = false →
    ∃ t, exec (.heldArrayWriteApply a) s = .next t ∧ t = { s with arr := t.arr } ∧ (∀ b, b ≠ a → t.array b = s.array b) ∧
      (t.array a).heldCfg = none ∧ (t.array a).heldBypass = [] ∧
      (∀ v, (s.array a).heldCfg = some v → (t.array a).formLock = v.getLsbD 4 ∧ (t.array a).offline = v.getLsbD 8 ∧
        (t.array a).form = if v.toNat % 4 = 3 then (s.array a).form else v.toNat % 4) ∧
      ((∀ p ∈ (s.array a).heldBypass, p.1 < 4) → ∀ i, i < 128 → (t.array a).bypass.getLsbD i =
        (((s.array a).heldBypass.reverse.find? (fun p => p.1 == i / 32)).map (fun p => p.2.getLsbD (i % 32))).getD
          ((s.array a).bypass.getLsbD i)))) ∧
  ((∀ (a : Nat) (v : Word) (s : State), s.windowOpen 1 = true → a < 32 → v.getLsbD 0 = true →
    ((s.array a).online = true ∨ (s.array a).busy = true) →
    exec (.wvBistRun a v) s = .next (s.setArray a { s.array a with bistRefused := true })) ∧
  (∀ (a : Nat) (v : Word) (s : State), s.windowOpen 1 = true → a < 32 → v.getLsbD 0 = true →
    (s.array a).online = false → (s.array a).busy = false → (s.array a).offline = true →
    exec (.wvBistRun a v) s = .next (s.setArray a { s.array a with
      bistRefused := (s.array a).bistRefused && !v.getLsbD 2, bistRunning := true, bistDone := false })) ∧
  (∀ (a : Nat) (f : BitVec 128) (s : State), s.bd.divRun = true → a < 32 → (s.array a).bistRunning = true →
    exec (.bistDone a f) s = .next (s.setArray a { s.array a with bistRunning := false, bistDone := true, bistFail := f }))) ∧
  ((∀ (a f : Nat) (s : State), s.bd.divRun = true → a < 32 → f < 3 → (s.array a).busy = false → (s.array a).reforming = none →
    (s.array a).current ≠ f → ((s.array a).formLock = true → (s.array a).form = f) →
    exec (.arrayReform a f) s = .next (s.setArray a { s.array a with reforming := some f })) ∧
  (∀ (a f : Nat) (s : State), s.bd.divRun = true → a < 32 → (s.array a).reforming = some f →
    exec (.reformDone a) s = .next (s.setArray a { s.array a with reforming := none, current := f, acc0 := none, acc1 := none })))

/-- ARRAY_FAULT, ARRAY_PROGRESS_TIMEOUT and ARRAY_OFFLINE (R159, R160, R303): a fault is counted and its cause kept, from the fourth on the
array takes no further tile; the struck tile is discarded, its item goes on the redo list and CP_REDO counts it. Once no tile is held,
the array is offline with reason 2. That a fault without a struck tile counts too is the model's choice (log 80).
R304, R295: the fourth time that an item is abandoned, its command ends with TILE_ILLEGAL, cause 7; where other tiles of it are still in
flight, at their next boundary. What is in flight then (log 131), and that the count is that of the tiles completed (R90; log 65), are
the model's reading. -/
def Obligations.ArrayFaultsAreCounted : Prop :=
  ((∀ (a t cause : Nat) (s : State), s.running = true → a < 32 → t < 3 → 1 ≤ cause → cause ≤ 3 → struckTile (s.array a) t = none →
    exec (.arrayFault a t cause) s = .next (s.setArray a { s.array a with
      faultCount := min 15 ((s.array a).faultCount + 1), lastFault := cause,
      retiring := (s.array a).retiring || decide (4 ≤ min 15 ((s.array a).faultCount + 1)) })) ∧
  (∀ (a t cause : Nat) (s : State) (x : Tile) (c : Cmd) (k : Compute), s.running = true → a < 32 → t < 3 → 1 ≤ cause → cause ≤ 3 →
    struckTile (s.array a) t = some x → s.cmd? x.cmd = some c → c.run = .compute k → k.bands = [] → timesOf k x.item < 3 →
    ∃ u d l, exec (.arrayFault a t cause) s = .next u ∧ struckTile (u.array a) t = none ∧
      (u.array a).faultCount = min 15 ((s.array a).faultCount + 1) ∧ (u.array a).lastFault = cause ∧
      u.cp.redo = min 0xFFFF (s.cp.redo + 1) ∧ u.cmd? x.cmd = some d ∧ d.status = c.status ∧ d.run = .compute l ∧
      l.redo = x.item :: k.redo ∧ x.item ∉ l.assigned ∧ u.mem = s.mem) ∧
  (∀ (a t : Nat) (s : State) (x : Tile) (c : Cmd) (k : Compute), s.running = true → a < 32 → t < 2 →
    struckTile (s.array a) t = some x → s.cmd? x.cmd = some c → c.run = .compute k → k.bands = [] → timesOf k x.item < 3 →
    ∃ u, exec (.arrayProgressTimeout a t) s = .next u ∧ struckTile (u.array a) t = none ∧
      (u.array a).faultCount = min 15 ((s.array a).faultCount + 1) ∧ (u.array a).lastFault = 4 ∧
      u.cp.redo = min 0xFFFF (s.cp.redo + 1)) ∧
  (∀ (a : Nat) (s : State), s.bd.divRun = true → a < 32 → (s.array a).retiring = true → (s.array a).acc0 = none →
    (s.array a).acc1 = none → (s.array a).latch = none → s.cp.table = [] →
    exec (.arrayOffline a) s = .next (s.setArray a { s.array a with retiring := false, offlineCause := 2 }))) ∧
  (∀ (a t cause : Nat) (s : State) (x : Tile) (c : Cmd) (k : Compute), s.running = true → a < 32 → t < 3 → 1 ≤ cause → cause ≤ 3 →
    struckTile (s.array a) t = some x → s.cmd? x.cmd = some c → c.run = .compute k → c.status = none → c.stop = none → c.opcode < 0x40 →
    k.bands = [] → k.snaps = [] → timesOf k x.item = 3 →
    ∃ u d h, exec (.arrayFault a t cause) s = .next u ∧ u.cmd? x.cmd = some d ∧ u.mem = s.mem ∧
      (if tileInFlight (clearOn (discardOn x.cmd x.item (countFault s a cause) a) x.cmd a) x.cmd = true
       then d.status = none ∧ d.stop = some (0x11, tileDetail 7 a)
       else d.status = some ⟨0x11, tileDetail 7 a, k.tiles, h⟩))

/-- LATCH_COPY (R139, R141, R189, R216): the finished accumulator tile moves into the free drain latch; the state tile of a scan stays in
place; with the last tile of a chain, the array is free for the next one, unless the tile of the chain before is still on its way out
(log 79).
DRAIN_COMPLETE (R139, R236): a partial of a split product lands in the rib as it is; an output tile without an epilogue is scaled,
converted and written, and its item is done. Either way the latch is free again. Which memory the written bytes reach by a streamer is
log 50's reading; here they are what the output stage made of them.
SLOT_READY and SLOT_FREE of an operand ring without a prologue (R134, R154, R364): the tail advances over a slot whose every line is
written, which then holds its codes, and over no other; the head advances over a slot that every member has read, and over no other. The
numbers of the rings (here those of operands and of what a rib asks for) are the model's (log 116).
SLOT_READY and SLOT_FREE of the P ring of a chain (R228, R176): a P slot whose rows are all written joins the ready slots; once the slot
of its key block in the V ring is ready too, the array adds its product, after the decrements, to accumulator tile 1. That SLOT_READY
fills a P slot and SLOT_FREE consumes it is the model's reading (log 79). -/
def Obligations.LatchesAndSlotRings : Prop :=
  ((∀ (a : Nat) (s : State) (x : Tile), s.running = true → a < 32 → (s.array a).latch = none → (s.array a).acc0 = some x →
    tileComplete s a 0 = true →
    exec (.latchCopy a 0) s = .next (s.setArray a { s.array a with latch := some x, acc0 := none })) ∧
  (∀ (a : Nat) (s : State) (x : Tile), s.running = true → a < 32 → (s.array a).latch = none → (s.array a).acc1 = some x →
    tileComplete s a 1 = true → scanOf s a = none → sweepOf s a = none →
    exec (.latchCopy a 1) s = .next (s.setArray a { s.array a with latch := some x, acc1 := none })) ∧
  (∀ (a : Nat) (s : State) (x : Tile) (c : Cmd) (w : Work) (sw : Sweep), s.running = true → a < 32 → (s.array a).latch = none →
    (s.array a).acc1 = some x → tileComplete s a 1 = true → scanOf s a = none → sweepOf s a = some (c, w, sw) →
    ((s.array a).ending = none →
      ∃ t, exec (.latchCopy a 1) s = .next t ∧
        t.array a = { s.array a with latch := some x, acc1 := none, work := none, ending := some w } ∧
        (∀ b, b ≠ a → t.array b = s.array b) ∧ t = { s with arr := t.arr, rings := t.rings, sk := t.sk }) ∧
    ((s.array a).ending.isSome = true → exec (.latchCopy a 1) s = .next s)) ∧
  (∀ (a : Nat) (s : State) (x : Tile), s.running = true → a < 32 → (s.array a).latch = none → (s.array a).acc1 = some x →
    tileComplete s a 1 = true → (scanOf s a).isSome = true →
    ∃ t, exec (.latchCopy a 1) s = .next t ∧ (t.array a).latch = some x ∧ (t.array a).acc1 = some x ∧
      t = { s with arr := t.arr } ∧ (∀ b, b ≠ a → t.array b = s.array b)) ∧
  (∀ (a n : Nat) (s : State) (x : Tile), s.running = true → a < 32 → n < 2 → (s.array a).latch = some x → exec (.latchCopy a n) s = .next s)) ∧
  ((∀ (a : Nat) (f : Finding) (s : State) (x : Tile) (c : Cmd), s.running = true → a < 32 → (s.array a).latch = some x →
    s.cmd? x.cmd = some c → f.corrected = 0 → f.uncorrectable = false → x.role = rolePartial → (s.ribOf a).room = true →
    exec (.drainComplete a f) s = .next ((s.setRib a ((s.ribOf a).land x)).setArray a { s.array a with latch := none })) ∧
  (∀ (a : Nat) (f : Finding) (s v : State) (x : Tile) (c : Cmd) (k : Compute), s.running = true → a < 32 → (s.array a).latch = some x →
    f.corrected = 0 → f.uncorrectable = false →
    s.cmd? x.cmd = some c → c.status = none → c.stop = none → c.run = .compute k → x.role = roleOut → (v.array a).ending = none →
    imageAt s a c.id 3 = none →
    writeOut s c a (outAt s a c k x.item) (drainTile (outFactor s a c k x.item) x.rowsIn x.colsIn x.matrix).1 = (v, some ()) →
    v.cmd? x.cmd = some { c with undo := ((v.cmd? x.cmd).getD c).undo, gathers := ((v.cmd? x.cmd).getD c).gathers } →
    k.done.length + 1 < k.items →
    ∃ t d l, exec (.drainComplete a f) s = .next t ∧ (t.array a).latch = none ∧ t.mem = v.mem ∧ t.cmd? x.cmd = some d ∧
      d.run = .compute l ∧ x.item ∈ l.done ∧ l.tiles = k.tiles + 1)) ∧
  ((∀ (a r : Nat) (f g : Finding) (s : State) (c : Cmd), s.running = true → a < 32 → r < 16 → (r < 3 ∨ 5 < r) → ringKeyOf s a r ≠ 0 →
    (s.ringAt (ringKeyOf s a r)).tail < (s.ringAt (ringKeyOf s a r)).plan.length →
    (s.ringAt (ringKeyOf s a r)).free (s.ringAt (ringKeyOf s a r)).tail = true →
    ((s.ringAt (ringKeyOf s a r)).slot (s.ringAt (ringKeyOf s a r)).tail).got =
      ((s.ringAt (ringKeyOf s a r)).planOf (s.ringAt (ringKeyOf s a r)).tail).bytes →
    (s.ringAt (ringKeyOf s a r)).point = none → s.cmd? (s.ringAt (ringKeyOf s a r)).cmd = some c →
    ∃ t, exec (.slotReady a r f g) s = .next t ∧ t = { s with rings := t.rings } ∧
      (∀ i, i ≠ ringKeyOf s a r → t.ringAt i = s.ringAt i) ∧
      (t.ringAt (ringKeyOf s a r)).tail = (s.ringAt (ringKeyOf s a r)).tail + 1 ∧
      (t.ringAt (ringKeyOf s a r)).head = (s.ringAt (ringKeyOf s a r)).head ∧
      ((t.ringAt (ringKeyOf s a r)).slot (s.ringAt (ringKeyOf s a r)).tail).codes =
        slotTile ((s.ringAt (ringKeyOf s a r)).planOf (s.ringAt (ringKeyOf s a r)).tail).view
          ((s.ringAt (ringKeyOf s a r)).slot (s.ringAt (ringKeyOf s a r)).tail)) ∧
  (∀ (a r : Nat) (f g : Finding) (s : State), s.running = true → a < 32 → r < 16 → (r < 3 ∨ 5 < r) → ringKeyOf s a r ≠ 0 →
    ((s.ringAt (ringKeyOf s a r)).slot (s.ringAt (ringKeyOf s a r)).tail).got ≠
      ((s.ringAt (ringKeyOf s a r)).planOf (s.ringAt (ringKeyOf s a r)).tail).bytes →
    exec (.slotReady a r f g) s = .next s) ∧
  (∀ (a r : Nat) (f : Finding) (s : State), s.running = true → a < 32 → r < 16 → (r ≠ 3 ∨ sweepOf s a = none) → ringKeyOf s a r ≠ 0 →
    (s.ringAt (ringKeyOf s a r)).head < (s.ringAt (ringKeyOf s a r)).tail →
    (∀ p ∈ (s.ringAt (ringKeyOf s a r)).members, (s.ringAt (ringKeyOf s a r)).head < p.2) →
    exec (.slotFree a r f) s = .next (s.setRing (ringKeyOf s a r) { s.ringAt (ringKeyOf s a r) with
      head := (s.ringAt (ringKeyOf s a r)).head + 1,
      slots := tdel (s.ringAt (ringKeyOf s a r)).slots (s.ringAt (ringKeyOf s a r)).head })) ∧
  (∀ (a r : Nat) (f : Finding) (s : State), s.running = true → a < 32 → r < 16 → (r ≠ 3 ∨ sweepOf s a = none) → ringKeyOf s a r ≠ 0 →
    (∃ p ∈ (s.ringAt (ringKeyOf s a r)).members, p.2 ≤ (s.ringAt (ringKeyOf s a r)).head) →
    ∃ t, exec (.slotFree a r f) s = .next t ∧ t = { s with rings := t.rings } ∧ ∀ i, t.ringAt i = s.ringAt i)) ∧
  ((∀ (a : Nat) (f g : Finding) (s : State) (c : Cmd) (w : Work) (sw : Sweep) (p : PSlot), s.running = true → a < 32 →
    sweepOf s a = some (c, w, sw) → sw.building = some p → (jobOf s a c (workOf c) w.item).m ≤ p.p.length →
    (s.ringAt (w.ring ringP)).free (s.ringAt (w.ring ringP)).tail = true →
    ∃ t, exec (.slotReady a 3 f g) s = .next t ∧
      (t.array a) = { s.array a with work := some { w with sweep := some { sw with building := none, ready := sw.ready ++ [p] } } } ∧
      (t.ringAt (w.ring ringP)).tail = (s.ringAt (w.ring ringP)).tail + 1 ∧ t.mem = s.mem ∧ t.cp = s.cp) ∧
  (∀ (a : Nat) (f : Finding) (s v : State) (c : Cmd) (w : Work) (sw : Sweep) (p : PSlot) (l : List PSlot) (x : Tile) (y z : RingSlot),
    s.running = true → a < 32 → sweepOf s a = some (c, w, sw) → sw.ready = p :: l → (s.array a).acc1 = some x →
    nextSlots s c a f [w.ring ringP, w.ring ringValue] = (v, some [y, z]) →
    ∃ t t', exec (.slotFree a 3 f) s = .next t ∧ (t.array a).acc1 = some t' ∧
      t'.vals = (x.ofMatrix (secondProduct (jobOf s a c (workOf c) w.item) (fmtOf (workOf c).pFmt) z.fmt p
        (valueCols (jobOf s a c (workOf c) w.item) z.codes) x.matrix).1).vals ∧
      (t.array a).work = some { w with sweep := some { sw with ready := l } } ∧ t.mem = v.mem))

/-- GEMM, GEMM2, CONVERT, ROWSTAT, SOFTMAX, ATTN_FWD, ATTN_BWD, ATTN_DECODE, SCAN_FWD and SCAN_BWD (R75, R287, R299): a command whose plan
passes its checks starts with the work that its plan and its shape give; for a split GEMM the combine headers are zeroed first.
R290, check 1: a plan step command whose step record names another kind ends with PLAN_REJECTED (0x10), detail 0x0101, and CP_VER_DIAG
records the place; its queue halts. -/
def Obligations.PlanCommandsStart : Prop :=
  ((∀ (q : Nat) (p : Instr × Nat) (s u : State) (c : Cmd) (k : Compute),
    p ∈ [(.gemm2 q, 0x11), (.convert q, 0x12), (.rowstat q, 0x13), (.softmax q, 0x14), (.attnFwd q, 0x20), (.attnBwd q, 0x21),
         (.attnDecode q, 0x22), (.scanFwd q, 0x24), (.scanBwd q, 0x25)] →
    Starts s q p.2 c → Planned (begin_ s c) (begun s c) u k → (∃ d, u.cmd? c.id = some d ∧ d.status = none ∧ d.stop = none) →
    k.done = [] → k.finish = [] → 0 < k.items →
    ∃ t, exec p.1 s = .next t ∧ Works t c k ∧ t.mem = u.mem ∧ t.cp.queues = u.cp.queues) ∧
  (∀ (q : Nat) (s u v : State) (c : Cmd) (k : Compute), Starts s q 0x10 c → Planned (begin_ s c) (begun s c) u k →
    zeroHeaders u (begun s c) k = (v, some ()) → (∃ d, v.cmd? c.id = some d ∧ d.status = none ∧ d.stop = none) →
    k.done = [] → k.finish = [] → 0 < k.items →
    ∃ t, exec (.gemm q) s = .next t ∧ Works t c k ∧ t.mem = v.mem ∧ t.cp.queues = v.cp.queues)) ∧
  (∀ (q : Nat) (p : Instr × Nat) (s u : State) (c e : Cmd) (bs : List Byte),
    p ∈ [(.gemm q, 0x10), (.gemm2 q, 0x11), (.convert q, 0x12), (.rowstat q, 0x13), (.softmax q, 0x14), (.attnFwd q, 0x20),
         (.attnBwd q, 0x21), (.attnDecode q, 0x22), (.scanFwd q, 0x24), (.scanBwd q, 0x25)] →
    Starts s q p.2 c → c.stepCopy = [] → plaitRead (begin_ s c) (begun s c) 2 (c.addr 2) 256 = (u, some bs) →
    bs.length = 256 → (bs.headD 0).toNat ≠ p.2 → u.cmd? c.id = some e → e.status = none → e.run = .none → e.undo = [] →
    e.words = c.words → e.queue = q → (u.queue q).st = .running →
    ∃ t d, exec p.1 s = .next t ∧ t.cmd? c.id = some d ∧ (∃ h, d.status = some ⟨0x10, 0x0101, 0, h⟩) ∧
      (t.queue q).st = .halted ∧ t.cp.diag = 0x0101 ∧ t.mem = u.mem)

/-- WORK_ITEM_ASSIGN (R134, R142, R144, R171, R302, R303): a free array, the lowest-numbered that any command can use, takes the next item
of the command that the arbiter serves, with the free arrays that join its multicast group; every item taken counts as assigned and
leaves the redo list. A GEMM item starts in a free accumulator tile at +0, and the counter advances but for an item of the redo list. An
array in the middle of a product or a chain goes on with it once the slots that it reads next are ready, and holds while they are not.
In Burnoeg mode, a command whose step names a tile that another one's operation holds ends with HAZARD (R158); that it is at a tile
boundary with no tile in flight is log 131's reading. -/
def Obligations.WorkItemsAreAssigned : Prop :=
  (∀ (a item : Nat) (f : Finding) (s u v : State) (c e : Cmd) (k m : Compute), s.running = true → a < 32 → endUnheld s = u →
    readyStrip u a = none → (u.array a).work = none → (∀ b, b < a → ribOn u b = true → chooseItem u b = none) →
    chooseItem u a = some c → stepKind c ≠ 0x21 → computeOf c.run = some k → nextItem k = some item →
    accClash u a c k = false → tileOverflow u c k = none → assignKind u c k (assignment u a c k item) = (v, some ()) →
    v.cmd? c.id = some e → computeOf e.run = some m →
    ∃ t d l, exec (.workItemAssign a f) s = .next t ∧ t.arr = v.arr ∧ t.rib = v.rib ∧ t.rings = v.rings ∧ t.mem = v.mem ∧
      t.cmd? c.id = some d ∧ computeOf d.run = some l ∧ l.items = m.items ∧ l.done = m.done ∧
      (∀ x ∈ assignment u a c k item, x.2 ∈ l.assigned ∧ x.2 ∉ l.redo)) ∧
  (∀ (a item n : Nat) (f : Finding) (s u v : State) (c e : Cmd) (k : Compute), s.running = true → a < 32 → endUnheld s = u →
    readyStrip u a = none → (u.array a).work = none → (∀ b, b < a → ribOn u b = true → chooseItem u b = none) →
    chooseItem u a = some c → c.opcode = 0x10 → c.run = .compute k → nextItem k = some item →
    accClash u a c k = false → tileOverflow u c k = none → gemmAcc u a c k = some n → startGemm u c k a n item = (v, some ()) →
    v.cmd? c.id = some e → e.run = .compute k →
    ∃ t d l w z, exec (.workItemAssign a f) s = .next t ∧ t.arr = v.arr ∧ (t.array a).work = some w ∧ w.cmd = c.id ∧ w.item = item ∧ w.acc = n ∧
      (t.array a).acc n = some z ∧ z.cmd = c.id ∧ z.item = item ∧ (∀ y ∈ z.vals, y = 0#32) ∧
      t.cmd? c.id = some d ∧ d.run = .compute l ∧ l.assigned = item :: k.assigned ∧ l.redo = k.redo.filter (fun i => i != item) ∧
      l.counter = (if item ∈ k.redo then k.counter else k.counter + 1) ∧ t.mem = v.mem) ∧
  (∀ (a b : Nat) (f : Finding) (s u v : State) (c : Cmd) (w : Work) (sw : Sweep) (l : List Nat) (x y : RingSlot),
    s.running = true → a < 32 → endUnheld s = u → readyStrip u a = none → (u.array a).work = some w → clashing u a = none →
    u.cmd? w.cmd = some c → c.status = none → c.stop = none → w.sweep = some sw → (u.array a).acc0 = none → sw.blocks = b :: l →
    nextSlots u c a f [w.ring ringLeft, w.ring ringRight] = (v, some [x, y]) →
    ∃ t z, exec (.workItemAssign a f) s = .next t ∧ (t.array a).acc0 = some z ∧ z.block = b ∧ z.cmd = c.id ∧ z.item = w.item ∧
      z.vals = (scoreTile (jobOf u a c (workOf c) w.item) ((v.array a).width (jobOf u a c (workOf c) w.item).form) b x y).1.flatten ∧
      (t.array a).work = some { w with sweep := some { sw with blocks := l } } ∧ t.mem = v.mem) ∧
  (∀ (a : Nat) (f : Finding) (s u v : State) (c : Cmd) (w : Work) (z : Tile) (x y : RingSlot),
    s.running = true → a < 32 → endUnheld s = u → readyStrip u a = none → (u.array a).work = some w → clashing u a = none →
    u.cmd? w.cmd = some c → c.status = none → w.sweep = none → w.scan = none → w.band = none → w.filled = true → (u.array a).acc w.acc = some z →
    nextSlots u c a f [w.ring ringLeft, w.ring ringRight] = (v, some [x, y]) →
    ∃ t t', exec (.workItemAssign a f) s = .next t ∧ (t.array a).acc w.acc = some t' ∧
      t'.vals = (tileProduct c.prec x.fmt y.fmt (padTo' z.rows [] x.codes) (transpose z.cols 0 y.codes) z.matrix z.rowsIn z.colsIn).1.flatten ∧
      t.mem = v.mem) ∧
  (∀ (a item : Nat) (f : Finding) (s u : State) (c : Cmd) (w : Work) (k : Compute), s.running = true → a < 32 → endUnheld s = u →
    readyStrip u a = none → (u.array a).work = some w → clashing u a = some c → u.cmd? c.id = some c → c.run = .compute k →
    c.status = none → c.stop = none → c.opcode < 0x40 → stepKind c ≠ 0x21 → nextItem k = some item → tileInFlight u c.id = false →
    ∃ t d h, exec (.workItemAssign a f) s = .next t ∧ t.cmd? c.id = some d ∧ d.status = some ⟨0x12, 0x1000 + a, k.tiles, h⟩ ∧
      t.mem = u.mem) ∧
  (∀ (a : Nat) (f : Finding) (s u : State) (c : Cmd) (w : Work),
    s.running = true → a < 32 → endUnheld s = u → readyStrip u a = none → (u.array a).work = some w → clashing u a = none →
    u.cmd? w.cmd = some c → w.sweep = none → w.scan = none → w.band = none → w.filled = true → (u.ringAt (w.ring ringRight)).nextReady a = false →
    exec (.workItemAssign a f) s = .next u)

/-- PROGRAM_LOAD and BANK_SWITCH (R246, R248): a command's programs enter the bank that the lanes do not use, and the banks change over
between two tiles. That the constant pool and the auxiliary vectors are kept in the bank, outside the lines that LDB and STB reach, is
the model's choice (log 145).
SEED_SWAP, SEED_SWAP_EXCHANGE, RB_SEED_DATA_WRITE, RB_SEED_DATA_READ and RB_BROADCAST_WRITE (R256, R257, R274): a swap waits for a tile
boundary and exchanges the active and the inactive buffer; data goes into the inactive one, but while a swap is pending a write is
refused and, by the model's reading (log 140), leaves the address; otherwise the address advances by a word and wraps. A broadcast write
is that of the same register of every rib. -/
def Obligations.BanksAndSeedBuffers : Prop :=
  ((∀ (a id : Nat) (s u : State) (c : Cmd) (k : Compute) (b : Bank), s.running = true → a < 32 → s.cmd? id = some c → c.started = true →
    c.status = none → c.run = .compute k → (s.ribOf a).hasBank id = false → (s.ribOf a).bankPending = false →
    bankFree s a (tget {} (s.ribOf a).banks (s.ribOf a).idleBank) = true → readBank s c k = (u, some b) → stepOver k b.images = none →
    ∃ t, exec (.programLoad a id) s = .next t ∧ tget {} (t.ribOf a).banks (s.ribOf a).idleBank = b ∧ (t.ribOf a).bankPending = true ∧
      (t.ribOf a).bank = (u.ribOf a).bank ∧ t.mem = u.mem ∧ (∀ i, i ≠ a → t.ribOf i = u.ribOf i)) ∧
  (∀ (a : Nat) (s : State), s.running = true → a < 32 → (s.ribOf a).pass = none → (s.ribOf a).nextPass = 0 →
    (s.ribOf a).bankPending = true →
    exec (.bankSwitch a) s = .next (s.setRib a { s.ribOf a with bank := !(s.ribOf a).bank, bankPending := false }))) ∧
  ((∀ (a : Nat) (v : Word) (s : State), s.windowOpen 2 = true → a < 32 → v.getLsbD 1 = true →
    exec (.seedSwap a v) s = .next (s.setRib a { s.ribOf a with
      swapPending := true, wrRefused := (s.ribOf a).wrRefused && !v.getLsbD 3 })) ∧
  (∀ (a : Nat) (s : State), s.bd.divRun = true → a < 32 → (s.ribOf a).swapPending = true → (s.ribOf a).pass = none →
    (s.ribOf a).nextPass = 0 →
    exec (.seedSwapExchange a) s = .next (s.setRib a { s.ribOf a with active := !(s.ribOf a).active, swapPending := false })) ∧
  (∀ (a : Nat) (v : Word) (s : State), s.windowOpen 2 = true → a < 32 →
    ∃ t, exec (.rbSeedDataWrite a v) s = .next t ∧ t = { s with rib := t.rib } ∧ (∀ b, b ≠ a → t.ribOf b = s.ribOf b) ∧
      (t.ribOf a).seeds = (s.ribOf a).seeds ∧
      ((s.ribOf a).swapPending = true → t.ribOf a = { s.ribOf a with wrRefused := true }) ∧
      ((s.ribOf a).swapPending = false → (t.ribOf a).seedAddr = ((s.ribOf a).seedAddr + 4) % 16384 ∧
        ∀ i, seedWord (t.ribOf a).inactive i = if i = (s.ribOf a).seedAddr / 4 then v else seedWord (s.ribOf a).inactive i)) ∧
  (∀ (a : Nat) (s : State), s.windowOpen 2 = true → a < 32 →
    ∃ t, exec (.rbSeedDataRead a) s = .next t ∧ t.bus = ⟨.ok, seedWord (s.ribOf a).inactive ((s.ribOf a).seedAddr / 4)⟩ ∧
      t.ribOf a = { s.ribOf a with seedAddr := ((s.ribOf a).seedAddr + 4) % 16384 } ∧ (∀ b, b ≠ a → t.ribOf b = s.ribOf b) ∧
      t = { s with rib := t.rib, bus := t.bus }) ∧
  (∀ (v : Word) (s : State), s.windowOpen 2 = true →
    (∃ t, exec (.rbBroadcastWrite 0x04 v) s = .next t ∧ t = { s with rib := t.rib } ∧
      ∀ a, t.ribOf a = if a < 32 then { s.ribOf a with
        swapPending := (s.ribOf a).swapPending || v.getLsbD 1, wrRefused := (s.ribOf a).wrRefused && !v.getLsbD 3 } else s.ribOf a) ∧
    (∃ t, exec (.rbBroadcastWrite 0x08 v) s = .next t ∧ t = { s with rib := t.rib } ∧
      ∀ a, t.ribOf a = if a < 32 then { s.ribOf a with seedAddr := v.toNat / 4 % 2 ^ 12 * 4 } else s.ribOf a) ∧
    (∃ t, exec (.rbBroadcastWrite 0x0C v) s = .next t ∧ t = { s with rib := t.rib } ∧
      ∀ a, if a < 32 then exec (.rbSeedDataWrite a v) s = .next (s.setRib a (t.ribOf a)) else t.ribOf a = s.ribOf a) ∧
    (∃ t, exec (.rbBroadcastWrite 0x10 v) s = .next t ∧ t = { s with rib := t.rib } ∧
      ∀ a, t.ribOf a = if a < 32 then { s.ribOf a with fpstat := (s.ribOf a).fpstat.clear v.toNat } else s.ribOf a) ∧
    (∃ t, exec (.rbBroadcastWrite 0x14 v) s = .next t ∧ t = { s with rib := t.rib } ∧
      ∀ a, t.ribOf a = if a < 32 then { s.ribOf a with uncorr := (s.ribOf a).uncorr && !v.getLsbD 31 } else s.ribOf a)))

/-- PASS_START and BEAT (R237, R238, R241): the next pass of the landed tile enters the pipeline, from its first beat; a beat that is not
the last advances the pass by one; the last one ends the pass, so that the next may start, and after the last pass of a score tile the
landing buffer is free of it; corrected words of the rib's memories are counted. A word that cannot be corrected ends the command with
ECC_ABORT (0x30), source 3 and the rib's number, and RB_ECC keeps it. -/
def Obligations.PassesRunBeatByBeat : Prop :=
  (∀ (a : Nat) (f : Finding) (s : State) (x : Tile) (c : Cmd) (k : Compute) (p : Pass) (ps : List Pass), s.running = true → a < 32 →
    landed s a = some (x, c, k) → takesPasses x = true → (s.ribOf a).pass = none → c.status = none → c.stop = none → burnoeg s c = false →
    (k.points.isEmpty || (tget {} (s.ribOf a).banks (b2n (s.ribOf a).bank)).cmd == c.id) = true → f.uncorrectable = false →
    (tilePasses s a c k x).drop (s.ribOf a).nextPass = p :: ps → ((s.ribOf a).nextPass ≠ 0 ∨ slotFor s a x = true) →
    imageIllegal (tileImage s a c k x) = none → (s.ribOf a).corr < 2 ^ 16 →
    ∃ t, exec (.passStart a f) s = .next t ∧ t = { s with rib := t.rib } ∧ (∀ i, i ≠ a → t.ribOf i = s.ribOf i) ∧
      t.ribOf a = { s.ribOf a with
        corr := min 0xFFFF ((s.ribOf a).corr + f.corrected), pass := some (tilePoint c k x, (s.ribOf a).nextPass), beat := 0,
        chain := builtIn c k x, compat := false }) ∧
  (∀ (a n m : Nat) (f : Finding) (s : State) (x : Tile) (c : Cmd) (k : Compute), s.running = true → a < 32 → landed s a = some (x, c, k) →
    (s.ribOf a).pass = some (m, n) → c.status = none → c.stop = none → f.uncorrectable = false → x.role ≠ roleScore →
    (s.ribOf a).corr < 2 ^ 16 → (s.ribOf a).beat + 1 < (tileGeom s a c k x).beats →
    ∃ t, exec (.beat a f) s = .next t ∧ (t.ribOf a).beat = (s.ribOf a).beat + 1 ∧ (t.ribOf a).pass = some (m, n) ∧
      (t.ribOf a).landing = (s.ribOf a).landing ∧ (t.ribOf a).corr = min 0xFFFF ((s.ribOf a).corr + f.corrected) ∧ t.mem = s.mem ∧
      (((tilePasses s a c k x).getD n chainPass).sink ≠ 3 → t.arr = s.arr) ∧ (∀ i, i ≠ a → t.array i = s.array i) ∧
      (∀ i, i ≠ a → t.ribOf i = s.ribOf i)) ∧
  (∀ (a n m : Nat) (f : Finding) (s : State) (x : Tile) (c : Cmd) (k : Compute), s.running = true → a < 32 → landed s a = some (x, c, k) →
    (s.ribOf a).pass = some (m, n) → c.status = none → c.stop = none → f.uncorrectable = false → x.role ≠ roleScore →
    (tileGeom s a c k x).beats ≤ (s.ribOf a).beat + 1 → (s.ribOf a).nextPass + 1 < (tilePasses s a c k x).length →
    ∃ t, exec (.beat a f) s = .next t ∧ (t.ribOf a).beat = 0 ∧ (t.ribOf a).pass = none ∧ (t.ribOf a).chain = false ∧
      (t.ribOf a).nextPass = (s.ribOf a).nextPass + 1 ∧ (t.ribOf a).landing = (s.ribOf a).landing ∧ t.mem = s.mem ∧
      (∀ i, i ≠ a → t.ribOf i = s.ribOf i)) ∧
  (∀ (a n m : Nat) (f : Finding) (s : State) (x : Tile) (c : Cmd) (k : Compute), s.running = true → a < 32 → landed s a = some (x, c, k) →
    (s.ribOf a).pass = some (m, n) → c.status = none → c.stop = none → f.uncorrectable = false → x.role = roleScore →
    (tileGeom s a c k x).beats ≤ (s.ribOf a).beat + 1 → (tilePasses s a c k x).length ≤ (s.ribOf a).nextPass + 1 →
    ∃ t, exec (.beat a f) s = .next t ∧ (t.ribOf a).pass = none ∧ (t.ribOf a).nextPass = 0 ∧ (t.ribOf a).beat = 0 ∧
      (t.ribOf a).landing = (s.ribOf a).landing.drop 1 ∧ t.mem = s.mem ∧ (∀ i, i ≠ a → t.ribOf i = s.ribOf i)) ∧
  (∀ (a m n : Nat) (f : Finding) (s : State) (x : Tile) (c : Cmd) (k : Compute), s.running = true → a < 32 → landed s a = some (x, c, k) →
    (s.ribOf a).pass = some (m, n) → c.status = none → c.opcode < 0x40 → c.run = .compute k → c.undo = [] → f.uncorrectable = true →
    ∃ t d h, exec (.beat a f) s = .next t ∧ (t.ribOf a).uncorr = true ∧ (t.ribOf a).eccWord = f.place % 2 ^ 17 ∧
      t.cmd? c.id = some d ∧ d.status = some ⟨0x30, 0x3000 + a, k.tiles, h⟩ ∧ t.mem = s.mem)

/-- SWEEP_FINISH and DECODE_COMBINE (R177, R230): the rows of the chain's last tile, or of the combined splits, are finished and written;
the item, with its score tiles, is done, and the array and the rib hold nothing of the chain any more (R189; log 79).
PARTIAL_COMBINE and FINISH_ITEM (R306 to R310): a partial of a split product that is not yet claimed is added to the combine area and
its item is done; a finish item sums its rows over the splits and writes them. Word 1 of the header and the layout of the data are the
model's choice (log 72), and so is that a rib reaches stake itself and all else through streamers (log 50); where both places lie in
stake, the bytes are there at once. -/
def Obligations.ChainsAndSplitsFinish : Prop :=
  ((∀ (a : Nat) (f : Finding) (s v : State) (x : Tile) (y : Cmd × Compute) (c e : Cmd) (k : Compute) (w : Work) (sw : Sweep),
    s.running = true → a < 32 → f.corrected = 0 → f.uncorrectable = false →
    landed s a = some (x, y) → endingOf s a = some (c, w, sw) → c.status = none → c.run = .compute k → x.role = roleFinal →
    x.cmd = w.cmd → x.item = w.item → c.opcode ≠ 0x22 →
    finishAll s c k a (jobOf s a c k w.item) sw.states x.matrix = (v, some ()) →
    v.cmd? c.id = some e → e.status = none → e.stop = none → e.run = .compute k → k.done.length + 1 < k.items →
    ∃ t d l, exec (.sweepFinish a f) s = .next t ∧ (t.array a).ending = none ∧ (t.array a).work = (v.array a).work ∧ (t.ribOf a).landing = (v.ribOf a).landing.drop 1 ∧
      t.cmd? c.id = some d ∧ d.run = .compute l ∧ l.done = w.item :: k.done ∧ l.tiles = k.tiles + sw.count ∧ t.mem = v.mem) ∧
  (∀ (id tile r : Nat) (f : Finding) (s v : State) (c e : Cmd) (k : Compute), s.running = true → s.cmd? id = some c → c.opcode = 0x22 →
    c.status = none → c.stop = none → c.run = .compute k → k.points = [] → k.finish.find? (fun p => p.1 == tile) = some (tile, r) →
    combineDecode s c k tile r f = (v, some ()) → v.cmd? id = some e → e.status = none → e.stop = none → e.run = .compute k →
    k.done.length < k.items →
    ∃ t d l, exec (.decodeCombine id tile f) s = .next t ∧ t.mem = v.mem ∧ t.cmd? id = some d ∧ d.status = none ∧ d.run = .compute l ∧
      l.finish = k.finish.filter (fun p => p.1 != tile))) ∧
  ((∀ (a : Nat) (f : Finding) (s v w y : State) (x : Tile) (c e : Cmd) (k : Compute) (ps : List Spot) (hb : List Byte) (head dat : Loc),
    s.running = true → a < 32 → f.corrected = 0 → f.uncorrectable = false → landed s a = some (x, c, k) → x.role = rolePartial →
    c.determ = true → head = .virt (ctxOf s c) (entryAddr c k (x.item / k.shape.split)) →
    dat = head.plus (64 + x.item % k.shape.split * (4 * k.shape.m * k.shape.n)) →
    placeAt s c (agentOf a) 2 [(head, 64), (dat, 4 * k.shape.m * k.shape.n)] = (v, some ps) →
    takeAt v c (agentOf a) 2 head 64 = (w, some hb) → bit (tw (wordsOf hb) 2) (x.item % k.shape.split) = false →
    tw (wordsOf hb) 0 + 1 < k.shape.split →
    makeAt w c (agentOf a) 2 false ps [wordBytes (claimed true k.shape.split (x.item % k.shape.split) (wordsOf hb)),
      wordBytes (crop k.shape.m k.shape.n x.matrix).flatten] = (y, some ()) →
    y.cmd? c.id = some e → e.status = none → e.stop = none → e.run = .compute k → k.done.length + 1 < k.items →
    ∃ t d l, exec (.partialCombine a f) s = .next t ∧ t.mem = y.mem ∧
      (∀ pa pb, ps = [(head, [(pa, 64)]), (dat, [(pb, 4 * k.shape.m * k.shape.n)])] → regionOf pa = .stake → regionOf pb = .stake →
        errorFree w = true →
        y.mem = (writePieces (writePieces w.mem [(pa, 64)]
            (wordBytes (claimed true k.shape.split (x.item % k.shape.split) (wordsOf hb)))).1
          [(pb, 4 * k.shape.m * k.shape.n)] (wordBytes (crop k.shape.m k.shape.n x.matrix).flatten)).1) ∧
      (t.ribOf a).landing = (y.ribOf a).landing.drop 1 ∧ t.cmd? c.id = some d ∧ d.run = .compute l ∧ l.done = x.item :: k.done ∧
      l.tiles = k.tiles + 1) ∧
  (∀ (a tile part : Nat) (f : Finding) (s v w : State) (c e : Cmd) (k : Compute) (l : List (Nat × Nat)) (slots : List (List Byte)),
    f.corrected = 0 → f.uncorrectable = false →
    s.cp.table.find? (fun c => c.opcode == 0x10 && c.status.isNone && c.stop.isNone && !(workOf c).finish.isEmpty && ribReady s a c (workOf c))
      = some c →
    c.run = .compute k → k.finish = (tile, part) :: l → (tile, part) ∉ l →
    collectAll s (fun s i => readVa s c (agentOf a) 2 (entryAddr c k tile + 64 + i * (4 * k.shape.m * k.shape.n) + 8 * part * k.shape.n * 4)
      (4 * within (8 * part) 8 k.shape.m * k.shape.n)) (List.range k.shape.split) = (v, some slots) →
    finishTile v c k a tile (8 * part) (within (8 * part) 8 k.shape.m)
      ((chunksOf k.shape.n (slotTree (within (8 * part) 8 k.shape.m * k.shape.n) (slots.map wordsOf))).map (fun r => r.map (·.1)))
      = (w, some ()) →
    w.cmd? c.id = some e → e.status = none → e.stop = none → e.run = .compute k → k.done.length < k.items →
    ∃ t d y, exec (.finishItem a f) s = .next t ∧ t.mem = w.mem ∧ t.cmd? c.id = some d ∧ d.run = .compute y ∧ y.finish = l))

/-- D_PASS, BAND_START, DQ_PARTIAL_COMBINE and DQ_FINISH (R202, R205, R206, R308, R311) of ATTN_BWD: a group's D rows and claims are written
and its buffer opened; its next band takes eight free arrays; a dQ tile leaves the drain latch once its partial is added and its claim
set, or where it was claimed before; when the group is complete its dQ rows are written and the buffer is free. What comes by a
streamer, and that no other rib changes a range meanwhile, is log 50; the agent of a D pass is log 123. -/
def Obligations.BackwardBandsRun : Prop :=
  (∀ (id g b : Nat) (s v : State) (c e : Cmd) (k : Compute), bwdCmd s id = some (c, k) → c.run = .compute k → nextGroup c k = some (g, b) →
    dPassWrites s c { k with buffers := k.buffers ++ [(g, b)] } [g] none = (v, some ()) → v.cmd? id = some e → e.run = .compute k →
    ∃ t d l, exec (.dPass id) s = .next t ∧ t.mem = v.mem ∧ t.cmd? id = some d ∧ d.run = .compute l ∧
      l.buffers = k.buffers ++ [(g, b)]) ∧
  (∀ (id item : Nat) (g : List Nat) (s v : State) (c y e : Cmd) (k : Compute) (l : List (RingSpec × Nat)), bwdCmd s id = some (c, k) →
    c.run = .compute k → nextItem k = some item → bandGroupFor s c k item = some g → chooseItem s (g.headD 0) = some y → y.id = id →
    (∀ b ∈ g, overruled s b c = false) →
    tileOverflow s c k = none → openRings s c k (bandRings s c k g (bandJob s c k item)) = (v, some l) → v.cmd? id = some e →
    e.run = .compute k →
    ∃ t d m, exec (.bandStart id) s = .next t ∧ t.mem = v.mem ∧ t.cmd? id = some d ∧ d.run = .compute m ∧
      m.assigned = item :: k.assigned ∧ (∃ z ∈ m.bands, z.item = item ∧ z.arrays = g ∧ z.periods = (bandJob s c k item).periods c k)) ∧
  (∀ (a : Nat) (s v : State) (x : Tile) (c e : Cmd) (k : Compute) (j : BandJob) (n : Nat) (bs : List Byte), s.running = true →
    (s.array a).latch = some x → s.cmd? x.cmd = some c → x.role = roleDq → c.run = .compute k → partWaits s c k x.item x.block = false →
    j = bandJob s c k x.item → n = claimBit c j x.block →
    takeAt s c (agentOf a) 2 (.virt (ctxOf s c) (claimsAt s c k j + n / 8)) 1 = (v, some bs) → bit (bs.headD 0#8).toNat (n % 8) = true →
    v.cmd? c.id = some e → e.run = .compute k →
    ∃ t d l, exec (.dqPartialCombine a) s = .next t ∧ t.mem = v.mem ∧ (t.array a).latch = none ∧ t.cmd? c.id = some d ∧
      d.run = .compute l ∧ (x.item, x.block) ∈ l.combined) ∧
  (∀ (a : Nat) (s v w u : State) (x : Tile) (c e : Cmd) (k : Compute) (j : BandJob) (n : Nat) (bs : List Byte)
    (rows : List (Loc × List Word)) (sums : List (Loc × List Byte) × Sticky), s.running = true →
    (s.array a).latch = some x → s.cmd? x.cmd = some c → x.role = roleDq → c.run = .compute k → partWaits s c k x.item x.block = false →
    j = bandJob s c k x.item → n = claimBit c j x.block →
    takeAt s c (agentOf a) 2 (.virt (ctxOf s c) (claimsAt s c k j + n / 8)) 1 = (v, some bs) → bit (bs.headD 0#8).toNat (n % 8) = false →
    rows = (((drainTile (bwdEnv c k).fDq x.rowsIn x.colsIn x.matrix).1.take x.rowsIn).zip (upTo 0 x.rowsIn)).map (fun r =>
      (.virt (ctxOf s c) (dqRow s c k j (x.block / queryBlocks c) (128 * (x.block % queryBlocks c) + r.2)), r.1)) →
    addRows v c (agentOf a) rows = (w, some sums) →
    writeAt w c (agentOf a) 2 (sums.1 ++ [(.virt (ctxOf s c) (claimsAt s c k j + n / 8), [bs.headD 0#8 ||| (1#8 <<< (n % 8))])])
      = (u, some ()) →
    u.cmd? c.id = some e → e.run = .compute k →
    ∃ t d l, exec (.dqPartialCombine a) s = .next t ∧ t.mem = u.mem ∧ (t.array a).latch = none ∧ t.cmd? c.id = some d ∧
      d.run = .compute l ∧ (x.item, x.block) ∈ l.combined) ∧
  (∀ (id g n : Nat) (s v : State) (c e : Cmd) (k : Compute) (l : List (Nat × Nat)) (bad : List Nat), bwdCmd s id = some (c, k) →
    c.run = .compute k → k.finish = (g, n) :: l →
    andThen (readDqRows s c k { group := g }) (fun u rows => writeDq u c k rows) = (v, some bad) →
    v.cmd? id = some e → e.status = none → e.stop = none → e.run = .compute k → k.done.length < k.items →
    ∃ t d y, exec (.dqFinish id) s = .next t ∧ t.mem = v.mem ∧ t.cmd? id = some d ∧ d.run = .compute y ∧ y.finish = l ∧
      (∀ p ∈ y.buffers, p.1 ≠ g))

/-- The integer and logical instructions, the shifts, MOV and SEL (R244): each lane of vd that the predicate selects takes the result, and
nothing else changes. No flag is raised: that the MOV of a NaN sets no nan_seen is the model's reading of R273 (log 105), and so is that
immediate bits no opcode names leave an instruction legal (log 139).
ISH, SEL, ICMP and RIB_NOP (R244): shifts take the low five bits of vb, to the left, to the right or keeping the sign; SEL picks va or
vb by its predicate in every lane; ICMP writes its signed relation into a predicate register p2 to p7. SEL raises no flag for a NaN (log
105), and immediate bits outside the fields named here are ignored (log 139): both are the model's readings. -/
def Obligations.IntegerAndSelectInstructions : Prop :=
  (∀ (a : Nat) (x : RibArgs) (s : State) (p : Instr × (Word → Word → Word)), s.running = true → a < 32 →
    p ∈ [(.iadd a x, fun u v => u + v), (.isub a x, fun u v => u - v), (.imul a x, fun u v => u * v), (.iand a x, fun u v => u &&& v),
         (.ior a x, fun u v => u ||| v), (.ixor a x, fun u v => u ^^^ v), (.mov a x, fun u _ => u)] →
    ∃ t, exec p.1 s = .next t ∧
      LanesTake s t a x x.vd.toNat (fun l => p.2 (laneAt s a x.va.toNat l) (laneAt s a x.vb.toNat l)) ∧
      RegsKept s t a [x.vd.toNat] ∧ PredsKept s t a ∧ (t.ribOf a).store = (s.ribOf a).store ∧ NoFlags s t a ∧ LaneFrame s t a) ∧
  ((∀ (a : Nat) (x : RibArgs) (s : State), s.running = true → a < 32 → x.imm.toNat % 4 ≠ 3 →
    ∃ t, exec (.ish a x) s = .next t ∧
      LanesTake s t a x x.vd.toNat (fun l =>
        let n := (laneAt s a x.vb.toNat l).toNat % 32
        if x.imm.toNat % 4 = 0 then laneAt s a x.va.toNat l <<< n
        else if x.imm.toNat % 4 = 1 then laneAt s a x.va.toNat l >>> n
        else (laneAt s a x.va.toNat l).sshiftRight n) ∧
      RegsKept s t a [x.vd.toNat] ∧ PredsKept s t a ∧ NoFlags s t a ∧ LaneFrame s t a) ∧
  (∀ (a : Nat) (x : RibArgs) (s : State), s.running = true → a < 32 →
    ∃ t, exec (.sel a x) s = .next t ∧
      (∀ l, l < 256 → laneAt t a x.vd.toNat l =
        if laneOn s a x l = true then laneAt s a x.va.toNat l else laneAt s a x.vb.toNat l) ∧
      RegsKept s t a [x.vd.toNat] ∧ PredsKept s t a ∧ NoFlags s t a ∧ LaneFrame s t a) ∧
  (∀ (a : Nat) (x : RibArgs) (s : State), s.running = true → a < 32 → 2 ≤ x.vd.toNat % 8 → x.imm.toNat % 8 ≠ 7 →
    ∃ t, exec (.icmp a x) s = .next t ∧ RegsKept s t a [] ∧ NoFlags s t a ∧ LaneFrame s t a ∧
      (∀ n, n ≠ x.vd.toNat % 8 → (t.ribOf a).pred n = (s.ribOf a).pred n) ∧
      (∀ l, l < 256 → ((t.ribOf a).pred (x.vd.toNat % 8)).getD l false =
        if laneOn s a x l = true then
          relation (x.imm.toNat % 8) (some (if laneAt s a x.va.toNat l = laneAt s a x.vb.toNat l then 0
            else if (laneAt s a x.va.toNat l).slt (laneAt s a x.vb.toNat l) = true then -1 else 1))
        else ((s.ribOf a).pred (x.vd.toNat % 8)).getD l false)) ∧
  (∀ (a : Nat) (x : RibArgs) (s : State), s.running = true → a < 32 →
    ∃ t, exec (.ribNop a x) s = .next t ∧ RegsKept s t a [] ∧ PredsKept s t a ∧ NoFlags s t a ∧ LaneFrame s t a))

/-- KONST, ROWV, COLV, LANEIDX, LSWP, LDB and STB (R244, R248): constants, elements of auxiliary vectors by global row or column, lane
coordinates, the exchange of lanes within a segment, and the line of the rib store that the beat index selects; STB writes the lanes in
bounds (R234). The model's readings: ROWV and COLV index by the row and column of the whole tile space (log 47), an offset of LDB or STB
that is no multiple of 1 KiB is cut down to a line (log 139), and moves of a NaN raise no flag (log 105). -/
def Obligations.DataMovementInstructions : Prop :=
  (∀ (a : Nat) (x : RibArgs) (s : State) (w : Word), s.running = true → a < 32 → (envOf s a).pool[x.imm.toNat % 64]? = some w →
    ∃ t, exec (.konst a x) s = .next t ∧ LanesTake s t a x x.vd.toNat (fun _ => w) ∧ RegsKept s t a [x.vd.toNat] ∧ NoFlags s t a ∧
      LaneFrame s t a) ∧
  (∀ (a : Nat) (x : RibArgs) (s : State), s.running = true → a < 32 →
    ∃ t, exec (.rowv a x) s = .next t ∧ RegsKept s t a [x.vd.toNat] ∧ NoFlags s t a ∧ LaneFrame s t a ∧
      LanesTake s t a x x.vd.toNat (fun l => (envOf s a).element (x.imm.toNat % 4) ((s.ribOf a).regs.rowBase + (s.ribOf a).regs.row l))) ∧
  (∀ (a : Nat) (x : RibArgs) (s : State), s.running = true → a < 32 →
    ∃ t, exec (.colv a x) s = .next t ∧ RegsKept s t a [x.vd.toNat] ∧ NoFlags s t a ∧ LaneFrame s t a ∧
      LanesTake s t a x x.vd.toNat (fun l => (envOf s a).element (x.imm.toNat % 4) ((s.ribOf a).regs.colBase + (s.ribOf a).regs.col l))) ∧
  (∀ (a : Nat) (x : RibArgs) (s : State), s.running = true → a < 32 → x.imm.toNat % 8 < 6 →
    ∃ t, exec (.laneidx a x) s = .next t ∧ RegsKept s t a [x.vd.toNat] ∧ NoFlags s t a ∧ LaneFrame s t a ∧
      LanesTake s t a x x.vd.toNat (fun l =>
        let b := (s.ribOf a).regs
        if x.imm.toNat % 8 = 4 then BitVec.ofInt 32 (b.key l) else if x.imm.toNat % 8 = 5 then BitVec.ofInt 32 (b.query l) else
        wd ((if x.imm.toNat % 8 = 2 then b.colBase else if x.imm.toNat % 8 = 3 then b.rowBase else 0) +
          (if x.imm.toNat % 2 = 0 then b.cols.getD (l / 128) 0 + l % 128 else b.rows.getD (l / 128) 0)))) ∧
  (∀ (a : Nat) (x : RibArgs) (s : State), s.running = true → a < 32 →
    ∃ t, exec (.lswp a x) s = .next t ∧ RegsKept s t a [x.vd.toNat] ∧ NoFlags s t a ∧ LaneFrame s t a ∧
      LanesTake s t a x x.vd.toNat (fun l => laneAt s a x.va.toNat
        (if x.imm.toNat % 2 = 1 then (if l / 64 % 2 = 0 then l + 64 else l - 64) else (if l % 2 = 0 then l + 1 else l - 1)))) ∧
  (∀ (a : Nat) (x : RibArgs) (s : State), s.running = true → a < 32 →
    ∃ t, exec (.ldb a x) s = .next t ∧ RegsKept s t a [x.vd.toNat] ∧ NoFlags s t a ∧ LaneFrame s t a ∧
      LanesTake s t a x x.vd.toNat (fun l => (s.ribOf a).storeWord a (256 * (x.imm.toNat / 1024 + (s.ribOf a).regs.index) + l))) ∧
  (∀ (a : Nat) (x : RibArgs) (s : State), s.running = true → a < 32 →
    ∃ t, exec (.stb a x) s = .next t ∧ RegsKept s t a [] ∧ PredsKept s t a ∧ NoFlags s t a ∧ LaneFrame s t a ∧
      ∀ i, (t.ribOf a).storeWord a i =
        if i / 256 = x.imm.toNat / 1024 + (s.ribOf a).regs.index ∧ laneOn s a x (i % 256) = true ∧
          (s.ribOf a).regs.inside (i % 256) = true then laneAt s a x.va.toNat (i % 256)
        else (s.ribOf a).storeWord a i)

/-- FADD, FSUB, FMUL, FFMA, FDIV, FSQRT, FMIN, FMAX, FSGN and FSCALE (R128, R243, R244): wherever the engine runs and md names a rounding
direction they complete; each written lane takes the IEEE 754 binary32 result in that direction, and RB_FPSTAT gathers the flags of the
lanes in bounds; FSGN raises none there. The model's readings: lanes in bounds that the predicate turns off raise their flags too (log
46), and FSGN raises no IEEE 754 flag (log 105). -/
def Obligations.SinglePrecisionInstructions : Prop :=
  (∀ (a : Nat) (x : RibArgs) (s : State) (p : Instr × (Nat → Nat → Nat → Nat × FFlags)), s.running = true → a < 32 → x.md.toNat ≤ 4 →
    p ∈ [(.fadd a x, fun u v _ => fAdd .binary32 (roundOf x) u v), (.fsub a x, fun u v _ => fSub .binary32 (roundOf x) u v),
         (.fmul a x, fun u v _ => fMul .binary32 (roundOf x) u v), (.ffma a x, fun u v w => fFma .binary32 (roundOf x) u v w),
         (.fdiv a x, fun u v _ => fDiv .binary32 (roundOf x) u v), (.fsqrt a x, fun u _ _ => fSqrt .binary32 (roundOf x) u),
         (.fmin a x, fun u v _ => fMin .binary32 u v), (.fmax a x, fun u v _ => fMax .binary32 u v)] →
    let r (l : Nat) := p.2 (laneAt s a x.va.toNat l).toNat (laneAt s a x.vb.toNat l).toNat (laneAt s a x.vc.toNat l).toNat
    ∃ t, exec p.1 s = .next t ∧ LanesTake s t a x x.vd.toNat (fun l => wd (r l).1) ∧ FpFlags s t a (fun l => (r l).2) ∧
      RegsKept s t a [x.vd.toNat] ∧ PredsKept s t a ∧ LaneFrame s t a) ∧
  (∀ (a : Nat) (x : RibArgs) (s : State), s.running = true → a < 32 → x.md.toNat ≤ 4 → x.imm.toNat % 4 ≠ 3 →
    ∃ t, exec (.fsgn a x) s = .next t ∧ RegsKept s t a [x.vd.toNat] ∧ PredsKept s t a ∧ (t.ribOf a).fpstat = (s.ribOf a).fpstat ∧
      LaneFrame s t a ∧
      LanesTake s t a x x.vd.toNat (fun l => wd (fSgn (x.imm.toNat % 4) (laneAt s a x.va.toNat l).toNat (laneAt s a x.vb.toNat l).toNat))) ∧
  (∀ (a : Nat) (x : RibArgs) (s : State), s.running = true → a < 32 → x.md.toNat ≤ 4 →
    let r (l : Nat) := fScaleB .binary32 (roundOf x) (laneAt s a x.va.toNat l).toNat (laneAt s a x.vb.toNat l).toInt
    ∃ t, exec (.fscale a x) s = .next t ∧ LanesTake s t a x x.vd.toNat (fun l => wd (r l).1) ∧ FpFlags s t a (fun l => (r l).2) ∧
      RegsKept s t a [x.vd.toNat] ∧ PredsKept s t a ∧ LaneFrame s t a)

/-- DADD, DSUB, DMUL, DFMA, DDIV, DSQRT, DCMP and TURN (R128, R244): FP64 values stand in an even register and the next, low word first;
TURN takes bits 63:32 of the product of va and the 64-bit angle factor in vb and vc. Lanes in bounds that the predicate turns off raise
their flags too (log 46, the model's reading). -/
def Obligations.DoublePrecisionInstructions : Prop :=
  (∀ (a : Nat) (x : RibArgs) (s : State) (p : Instr × List (BitVec 6) × (Nat → Nat → Nat → Nat × FFlags)), s.running = true → a < 32 →
    x.md.toNat ≤ 4 → x.vd.toNat % 2 = 0 → (∀ r ∈ p.2.1, r.toNat % 2 = 0) →
    p ∈ [(.dadd a x, [x.va, x.vb], fun u v _ => fAdd .binary64 (roundOf x) u v), (.dsub a x, [x.va, x.vb], fun u v _ => fSub .binary64 (roundOf x) u v),
         (.dmul a x, [x.va, x.vb], fun u v _ => fMul .binary64 (roundOf x) u v), (.dsqrt a x, [x.va], fun u _ _ => fSqrt .binary64 (roundOf x) u),
         (.ddiv a x, [x.va, x.vb], fun u v _ => fDiv .binary64 (roundOf x) u v),
         (.dfma a x, [x.va, x.vb, x.vc], fun u v w => fFma .binary64 (roundOf x) u v w)] →
    let r (l : Nat) := p.2.2 (pairAt64 s a x.va.toNat l) (pairAt64 s a x.vb.toNat l) (pairAt64 s a x.vc.toNat l)
    ∃ t, exec p.1 s = .next t ∧ LanesTake s t a x x.vd.toNat (fun l => wd (r l).1) ∧
      LanesTake s t a x (x.vd.toNat + 1) (fun l => wd ((r l).1 / 2 ^ 32)) ∧ FpFlags s t a (fun l => (r l).2) ∧
      RegsKept s t a [x.vd.toNat, x.vd.toNat + 1] ∧ PredsKept s t a ∧ LaneFrame s t a) ∧
  (∀ (a : Nat) (x : RibArgs) (s : State), s.running = true → a < 32 → x.md.toNat ≤ 4 → x.va.toNat % 2 = 0 → x.vb.toNat % 2 = 0 →
    2 ≤ x.vd.toNat % 8 → x.imm.toNat % 8 ≠ 7 →
    let r (l : Nat) := fCmp .binary64 (x.imm.toNat % 8) (pairAt64 s a x.va.toNat l) (pairAt64 s a x.vb.toNat l)
    ∃ t, exec (.dcmp a x) s = .next t ∧ RegsKept s t a [] ∧ FpFlags s t a (fun l => (r l).2) ∧ LaneFrame s t a ∧
      (∀ n, n ≠ x.vd.toNat % 8 → (t.ribOf a).pred n = (s.ribOf a).pred n) ∧
      (∀ l, l < 256 → ((t.ribOf a).pred (x.vd.toNat % 8)).getD l false =
        if laneOn s a x l = true then (r l).1 else ((s.ribOf a).pred (x.vd.toNat % 8)).getD l false)) ∧
  (∀ (a : Nat) (x : RibArgs) (s : State), s.running = true → a < 32 →
    ∃ t, exec (.turn a x) s = .next t ∧ RegsKept s t a [x.vd.toNat] ∧ PredsKept s t a ∧ NoFlags s t a ∧ LaneFrame s t a ∧
      LanesTake s t a x x.vd.toNat (fun l => BitVec.ofInt 32
        (((laneAt s a x.va.toNat l).toInt * ((laneAt s a x.vb.toNat l).toNat + 2 ^ 32 * (laneAt s a x.vc.toNat l).toNat : Nat)) / 2 ^ 32)))

/-- The special functions (R251, R272): outside Burnoeg mode each written lane takes the function of the active seed tables; in Burnoeg mode
it takes that engine's value, which is free (log 13): of va, and for GACT of the activation that imm names and of va and vb. The model's
readings: lanes in bounds that the predicate turns off raise their flags too (log 46), and RCP and GACT raise overflow and invalid with
the results that call for them (log 147). -/
def Obligations.SpecialFunctions : Prop :=
  ∀ (a : Nat) (x : RibArgs) (s : State) (p : Instr × Nat × (Word → Word → Word × FFlags)), s.running = true → a < 32 →
    (p.2.1 = 0x38 → x.imm.toNat % 8 ≤ 4) →
    p ∈ [(.exp a x, 0x30, fun u _ => expOp (s.ribOf a).seeds u), (.exp2 a x, 0x31, fun u _ => exp2Op (s.ribOf a).seeds u),
         (.log2 a x, 0x32, fun u _ => log2Op (s.ribOf a).seeds u), (.rcp a x, 0x33, fun u _ => rcpOp (s.ribOf a).seeds u),
         (.rsqrt a x, 0x34, fun u _ => rsqrtOp (s.ribOf a).seeds u), (.tanh a x, 0x35, fun u _ => tanhOp (s.ribOf a).seeds u),
         (.sint a x, 0x36, fun u _ => (sintOp (s.ribOf a).seeds u, {})), (.cost a x, 0x37, fun u _ => (costOp (s.ribOf a).seeds u, {})),
         (.gact a x, 0x38, fun u v => gactOp (s.ribOf a).seeds (x.imm.toNat % 8) u v)] →
    let r (l : Nat) := if (envOf s a).compat = true
      then (Config.burnoegValue (if p.2.1 = 0x38 then 0x38 + 256 * (x.imm.toNat % 8) else p.2.1) (laneAt s a x.va.toNat l)
        (if p.2.1 = 0x38 then laneAt s a x.vb.toNat l else 0), {})
      else p.2.2 (laneAt s a x.va.toNat l) (laneAt s a x.vb.toNat l)
    ∃ t, exec p.1 s = .next t ∧ LanesTake s t a x x.vd.toNat (fun l => (r l).1) ∧ FpFlags s t a (fun l => (r l).2) ∧
      RegsKept s t a [x.vd.toNat] ∧ PredsKept s t a ∧ LaneFrame s t a

/-- WEXP, WLOG, ROWFIN, STG and DROP (R174, R253, R265, R266, R269, R183): the wide exponential, the logarithm of a row state, the final
factor of a row, the conversion of a lane to a storage format and back, and the dropout predicate. The model's choices: WLOG takes its
row state from the vector that imm names (log 49); STG takes md up to 3 and the configured overflow (log 48); ROWFIN keeps a subnormal
product (log 121) and takes t_P of BF16 where p_format names no format (log 146); lanes in bounds that the predicate turns off raise
their flags too (log 46). -/
def Obligations.RowAndStorageInstructions : Prop :=
  (∀ (a : Nat) (x : RibArgs) (s : State), s.running = true → a < 32 →
    ∃ t, exec (.wexp a x) s = .next t ∧ LanesTake s t a x x.vd.toNat (fun l => wd (wexp (s.ribOf a).seeds (laneAt s a x.va.toNat l))) ∧
      RegsKept s t a [x.vd.toNat] ∧ PredsKept s t a ∧ LaneFrame s t a ∧
      (t.tl.flags.range = (s.tl.flags.range || (insideLanes s a).any (fun l => !inRange (laneAt s a x.va.toNat l))))) ∧
  (∀ (a : Nat) (x : RibArgs) (s : State), s.running = true → a < 32 →
    ∃ t, exec (.wlog a x) s = .next t ∧ RegsKept s t a [x.vd.toNat] ∧ PredsKept s t a ∧ LaneFrame s t a ∧
      LanesTake s t a x x.vd.toNat (fun l =>
        wlogOp (s.ribOf a).seeds ((envOf s a).rowState (x.imm.toNat % 4) ((s.ribOf a).regs.rowBase + (s.ribOf a).regs.row l)))) ∧
  (∀ (a : Nat) (x : RibArgs) (s : State), s.running = true → a < 32 →
    ∃ t, exec (.rowfin a x) s = .next t ∧ RegsKept s t a [x.vd.toNat] ∧ PredsKept s t a ∧ LaneFrame s t a ∧
      LanesTake s t a x x.vd.toNat (fun l =>
        (rowfinOp (s.ribOf a).seeds ((envOf s a).rowState (x.imm.toNat % 4) ((s.ribOf a).regs.rowBase + (s.ribOf a).regs.row l))
          ((envOf s a).pFmt.getD .bf16) (laneAt s a x.va.toNat l)).1)) ∧
  (∀ (a : Nat) (x : RibArgs) (s : State), s.running = true → a < 32 → x.md.toNat ≤ 3 →
    ∃ t, exec (.stg a x) s = .next t ∧ RegsKept s t a [x.vd.toNat] ∧ PredsKept s t a ∧ LaneFrame s t a ∧
      LanesTake s t a x x.vd.toNat (fun l => widenTo32 ((Format.ofCode x.md.toNat).getD .fp32)
        (convertCode .fp32 ((Format.ofCode x.md.toNat).getD .fp32) .rne (envOf s a).nanOnOvf
          (Fmt.binary32.decode (laneAt s a x.va.toNat l).toNat)).1)) ∧
  (∀ (a : Nat) (x : RibArgs) (s : State), s.running = true → a < 32 → 2 ≤ x.vd.toNat % 8 →
    ∃ t, exec (.drop a x) s = .next t ∧ RegsKept s t a [] ∧ NoFlags s t a ∧ LaneFrame s t a ∧
      (∀ l, l < 256 → ((t.ribOf a).pred (x.vd.toNat % 8)).getD l false =
        if laneOn s a x l = true then dropped (envOf s a).seed (envOf s a).seq (s.ribOf a).regs.head (envOf s a).threshold
          ((s.ribOf a).regs.query l) ((s.ribOf a).regs.key l)
        else ((s.ribOf a).pred (x.vd.toNat % 8)).getD l false))

/-- RSUM, RMAX and RACC (R261): a segment's 128 lanes are joined by a fixed pairwise tree and every lane of the segment takes the result;
RACC adds each segment's first lane, where its predicate selects it (log 138), to the accumulator that the immediate names of the
segment's row, the first segment first.
R245, R293, R295: an illegal instruction that reaches a rib gives up the tile at fault and ends its command with TILE_ILLEGAL, cause 4,
naming the array: at once where the command has no other tile in flight, and at its next tile boundary otherwise (log 131). Its outputs
stay. That md above 3 makes STG illegal is the model's reading (log 48), and so is the count, of the tiles complete so far (log 65). -/
def Obligations.SegmentReductionsAndIllegalWords : Prop :=
  ((∀ (a : Nat) (x : RibArgs) (s : State) (p : Instr × (Nat → Nat → Nat × FFlags)), s.running = true → a < 32 →
    p ∈ [(.rsum a x, fun u v => fAdd .binary32 .rne u v), (.rmax a x, fun u v => fMax .binary32 u v)] →
    ∃ t, exec p.1 s = .next t ∧ RegsKept s t a [x.vd.toNat] ∧ PredsKept s t a ∧ LaneFrame s t a ∧
      LanesTake s t a x x.vd.toNat (fun l => (segTree p.2 ((List.range 128).map (fun i =>
        laneAt s a x.va.toNat (128 * (l / 128) + i)))).1)) ∧
  (∀ (a : Nat) (x : RibArgs) (s : State), s.running = true → a < 32 →
    let k (l : Nat) := 16 * ((s.ribOf a).regs.rowBase + (s.ribOf a).regs.row l) + x.imm.toNat % 16
    let add (v : Word) (l : Nat) := wd (fAdd .binary32 .rne v.toNat (laneAt s a x.va.toNat l).toNat).1
    let first (i : Nat) := if laneOn s a x 0 = true ∧ i = k 0 then add ((s.ribOf a).accOf a i) 0 else (s.ribOf a).accOf a i
    ∃ t, exec (.racc a x) s = .next t ∧ RegsKept s t a [] ∧ PredsKept s t a ∧ LaneFrame s t a ∧
      ∀ i, (t.ribOf a).accOf a i = if laneOn s a x 128 = true ∧ i = k 128 then add (first i) 128 else first i)) ∧
  (∀ (a : Nat) (x : RibArgs) (s : State) (i : Instr) (c : Cmd) (k : Compute), s.running = true → a < 32 →
    let id := ribCmd (s.ribOf a)
    s.cmd? id = some c → c.status = none → c.stop = none → c.opcode < 0x50 → c.run = .compute k → k.snaps = [] →
    ((i = .fadd a x ∧ 4 < x.md.toNat) ∨ (i = .dadd a x ∧ x.vd.toNat % 2 = 1) ∨ (i = .icmp a x ∧ x.vd.toNat % 8 < 2) ∨
     (i = .ish a x ∧ x.imm.toNat % 4 = 3) ∨ (i = .stg a x ∧ 3 < x.md.toNat)) →
    ∃ t d, exec i s = .next t ∧ t.cmd? id = some d ∧ t.mem = s.mem ∧
      (if tileInFlight (clearOn s id a) id = true then d.status = none ∧ d.stop = some (0x11, 0x4000 + a)
       else ∃ h, d.status = some ⟨0x11, 0x4000 + a, k.tiles, h⟩))

/-- ADD_F32, TEST_SET and INC32 (R354): the line's elements become the sums; the bit is set and the old one returned; the word is
incremented and the old one returned. No other byte changes. What their read of the line corrects is counted (R377). On a line that
fails its check none of them is made (R380). The old bit or word is kept in State.st.atomic (log 104). -/
def Obligations.AtomicOperations : Prop :=
  ∀ (s : State) (pa : Nat), s.running = true → stakeBase ≤ pa → pa < stakeEnd → pa % 64 = 0 →
  (∀ u, readMeets s [(pa, 64)] = (u, none) →
    (∀ vals : List Word, vals.length = 16 →
      ∃ t, exec (.addF32 pa vals) s = .next t ∧
        (∀ i, i < 16 → wd (t.mem.readNat (pa + 4 * i) 4) = (arrayAdd (wd (s.mem.readNat (pa + 4 * i) 4)) (vals.getD i 0#32)).1) ∧
        (∀ a, a < pa ∨ pa + 64 ≤ a → t.mem.read a = s.mem.read a) ∧
        t = { u with mem := t.mem, tl := { s.tl with flags := t.tl.flags, onWay := t.tl.onWay } }) ∧
    (∀ b, b < 512 →
      ∃ t, exec (.testSet pa b) s = .next t ∧ t.mem.read (pa + b / 8) = s.mem.read (pa + b / 8) ||| (1#8 <<< (b % 8)) ∧
        t.st = { u.st with atomic := if (s.mem.read (pa + b / 8)).toNat / 2 ^ (b % 8) % 2 = 1 then 1#32 else 0#32 } ∧
        (∀ a, a ≠ pa + b / 8 → t.mem.read a = s.mem.read a) ∧ t = { u with mem := t.mem, st := t.st }) ∧
    (∀ w, w < 16 →
      ∃ t, exec (.inc32 pa w) s = .next t ∧ wd (t.mem.readNat (pa + 4 * w) 4) = wd (s.mem.readNat (pa + 4 * w) 4) + 1#32 ∧
        t.st = { u.st with atomic := wd (s.mem.readNat (pa + 4 * w) 4) } ∧
        (∀ a, a < pa + 4 * w ∨ pa + 4 * w + 4 ≤ a → t.mem.read a = s.mem.read a) ∧ t = { u with mem := t.mem, st := t.st })) ∧
  (∀ u l, readMeets s [(pa, 64)] = (u, some l) →
    ∀ (i : Instr), ((∃ vals, i = .addF32 pa vals) ∨ (∃ b, b < 512 ∧ i = .testSet pa b) ∨ (∃ w, w < 16 ∧ i = .inc32 pa w)) →
      ∃ t, exec i s = .next t ∧ (∀ a, t.mem.read a = s.mem.read a) ∧ t = { u with
        mem := t.mem,
        st := { u.st with uncorr := true, eccBank := stakeBank (pa - stakeBase), eccRow := stakeRow (pa - stakeBase) } })

/-- ST_RING_CFG_WRITE and RING_CFG_APPLY (R358): a ring size takes effect at once, or, while CP_TABLE_USE is nonzero, when it next reads 0;
taking effect flushes the verification cache. -/
def Obligations.RingConfiguration : Prop :=
  (∀ (v : Word) (s : State), s.windowOpen 3 = true → s.cp.table = [] →
    exec (.stRingCfgWrite v) s = .next { s with
      st := { s.st with ringSize := v.toNat % 4, pending := none }, cp := { s.cp with cache := [] } }) ∧
  (∀ (v : Word) (s : State), s.windowOpen 3 = true → s.cp.table ≠ [] →
    exec (.stRingCfgWrite v) s = .next { s with st := { s.st with pending := some (v.toNat % 4) } }) ∧
  (∀ (n : Nat) (s : State), s.bd.divRun = true → s.cp.table = [] → s.st.pending = some n →
    exec .ringCfgApply s = .next { s with st := { s.st with ringSize := n, pending := none }, cp := { s.cp with cache := [] } })

/-- ST_MDATA_WRITE, ST_MDATA_READ and MANAGEMENT_STAKE_WAIT_EXPIRY (R382, R383, R548): the word at the offset is written or read and the
offset advances by 4; an offset above the last word, or a line that fails, answers the error response and the offset stays; a write to
the Coil region while Coil is ready is dropped, with wr_refused; an expired wait answers busy and has no effect. A row's finding lies at
the offset, and older errors that stake carries are met as well (log 136).
SCRUB, STACK_TEMP_READ and PARITY_RETRY (R375, R376, R378, R496): the scrubber counts what it corrects and records a line that it
cannot; a stack's temperature sets hot above 100 C and the refresh rate at the limits 85 and 95 C, and 105 C or more asks for a
protective Park; an access that fails its parity is repeated twice, and the third failure is an uncorrectable error: where no transfer
makes the access, of the next access there, whatever unit makes it (log 119). -/
def Obligations.StakeAccessScrubAndParity : Prop :=
  ((∀ (v : Word) (s : State), s.windowOpen 3 = true → s.st.offset ≤ 0x5FFFFFFC →
    stakeWriteDropped s (stakeBase + s.st.offset) = false →
    ∀ u, writeMeets s [(stakeBase + s.st.offset, 4)] (Memory.leBytes 4 v.toNat) = (u, none) →
    ∃ t, exec (.stMdataWrite v) s = .next t ∧ wd (t.mem.readNat (stakeBase + s.st.offset) 4) = v ∧
      (∀ a, a < stakeBase + s.st.offset ∨ stakeBase + s.st.offset + 4 ≤ a → t.mem.read a = s.mem.read a) ∧
      t = { u with st := { u.st with offset := s.st.offset + 4 }, bus := ⟨.ok, 0#32⟩ } ∧
      (errorFree s = true → t = { s with mem := t.mem, st := { s.st with offset := s.st.offset + 4 }, bus := ⟨.ok, 0#32⟩ })) ∧
  (∀ (v : Word) (s : State), s.windowOpen 3 = true → 0x5FFFFFFC < s.st.offset →
    exec (.stMdataWrite v) s = .next { s with bus := ⟨.error, 0#32⟩ } ∧ ∀ f, exec (.stMdataRead f) s = .next { s with bus := ⟨.error, 0#32⟩ }) ∧
  (∀ (v : Word) (s : State), s.windowOpen 3 = true → 0x5C000000 ≤ s.st.offset → s.st.offset ≤ 0x5FFFFFFC → s.cl.ready = true →
    exec (.stMdataWrite v) s = .next { s with
      st := { s.st with offset := (s.st.offset + 4) % 2 ^ 31, wrRefused := true }, bus := ⟨.ok, 0#32⟩ }) ∧
  (∀ (f : Finding) (s u : State), s.windowOpen 3 = true → s.st.offset < 0x5C000000 →
    readMeets (meetAt s (stakeBase + s.st.offset) f) [(stakeBase + s.st.offset, 4)] = (u, none) →
    exec (.stMdataRead f) s = .next { u with
      st := { u.st with offset := s.st.offset + 4 }, bus := ⟨.ok, wd (s.mem.readNat (stakeBase + s.st.offset) 4)⟩ } ∧
    (errorFree s = true → u = { s with
      st := { s.st with corr := if f.corrected = 0 then s.st.corr else min 0xFFFF (s.st.corr + f.corrected) } })) ∧
  (∀ (f : Finding) (s : State), s.windowOpen 3 = true → s.st.offset < 0x5C000000 → f.uncorrectable = true →
    ∃ t, exec (.stMdataRead f) s = .next t ∧ t.bus = ⟨.error, 0#32⟩ ∧ t.st.offset = s.st.offset ∧ t.st.uncorr = true ∧
      (stakeBase + s.st.offset) / 64 * 64 ∈ t.mem.bad ∧ ∀ a, t.mem.read a = s.mem.read a) ∧
  (∀ (s : State), s.windowOpen 3 = true → exec .managementStakeWaitExpiry s = .next { s with bus := ⟨.busy, 0#32⟩ })) ∧
  ((∀ (bank row : Nat) (f : Finding) (s : State), s.bd.divRun = true → s.st.scrubEnable = true → bank < 768 → row < 32768 →
    ∃ t, exec (.scrub bank row f) s = .next t ∧
      (∀ u, readMeets (meetAt s (stakeBase + stakeOffset bank row) f) [(stakeBase + stakeOffset bank row, 64)] = (u, none) → t = u) ∧
      (errorFree s = true → f.uncorrectable = false → t = { s with
        st := { s.st with corr := if f.corrected = 0 then s.st.corr else min 0xFFFF (s.st.corr + f.corrected) } }) ∧
      (f.uncorrectable = true → t.st.scrubUncorr = true ∧ t.st.eccBank = bank ∧ t.st.eccRow = row ∧ t.st.uncorr = s.st.uncorr ∧
        (stakeBase + stakeOffset bank row) / 64 * 64 ∈ t.mem.bad ∧ ∀ a, t.mem.read a = s.mem.read a)) ∧
  (∀ (n c : Nat) (s : State), s.bd.divRun = true → s.bd.power ≠ .park → s.bd.power ≠ .off → n < 32 → c < 256 →
    ∃ t, exec (.stackTempRead n c) s = .next t ∧
      t.base n = { s.base n with temp := c, hot := decide (100 < c), refresh := if 95 < c then 2 else if 85 < c then 1 else 0 } ∧
      (∀ k, k ≠ n → t.base k = s.base k) ∧
      (c < 105 → t.bd = s.bd) ∧ (105 ≤ c → t.bd = { s.bd with parkDue := s.bd.parkDue <|> some (n, 3) })) ∧
  (∀ (n pa : Nat) (s : State), s.bd.divRun = true → n < 32 → pa < stackEnd → stackOf pa = n →
    let l := pa / 32 * 32
    let k := tget 0 (s.base n).repeats l
    (k < 2 → ∃ b, exec (.parityRetry n pa) s = .next (s.setBase n { s.base n with
      retries := min 0xFF ((s.base n).retries + 1), repeats := b }) ∧
      ∀ i, tget 0 b i = if i = l then k + 1 else tget 0 (s.base n).repeats i) ∧
    (2 ≤ k → channelsOn s pa = [] → ∃ b, exec (.parityRetry n pa) s = .next { s.setBase n { s.base n with
      uncorr := true, eccAddr := l, repeats := b } with mem := { s.mem with once := addNew s.mem.once l } } ∧ ∀ i, tget 0 b i = if i = l then 0 else tget 0 (s.base n).repeats i)))

/-- TRANSFER_ISSUE (R366 to R371): a streamer with fewer than eight transfers outstanding takes its channels in turn. The channel of the
turn issues its next transfer, merged with those after it while they join within a page, and the turn goes on; a cursor's channel with
nothing queued first takes up its next page. A channel whose next slot is not free issues nothing.
TRANSFER_COMPLETE (R367, R372, R379): the oldest transfer of a channel copies its bytes; no other byte changes; the channel goes on with
what it has left.
PAGE_ENTRY_DELIVERY (R339): Coil delivers the entry of a cursor's next token block, with the slots in bounds, and the cursor moves on. -/
def Obligations.TransfersMoveBytes : Prop :=
  (∀ (sk i : Nat) (s : State) (c : Channel) (t : Transfer) (ts : List Transfer), s.running = true → sk < 64 →
    (s.streamer sk).outstanding < 8 → (s.streamer sk).channels[i]? = some c →
    i = (s.streamer sk).turn % (s.streamer sk).channels.length → (nextPage s c).queued = t :: ts →
    (∀ (u w : State) (x : Transfer) (rest : List Transfer) (src dst : List (Nat × Nat)) (y z : Xlate),
      destFree s t = true → mergeFrom t ts = (x, rest) →
      placePieces s (streamerAccess s sk c.cmd x false) x.bytes x.src = (u, some src, y) →
      placePieces u (streamerAccess u sk c.cmd x true) x.bytes x.dst = (w, some dst, z) →
      w.streamer sk = s.streamer sk →
      ∃ v, exec (.transferIssue sk) s = .next v ∧
        v.streamer sk = { s.streamer sk with
          turn := i + 1,
          channels := (s.streamer sk).channels.set i
            { nextPage s c with queued := rest, moving := c.moving ++ [{ t := x, src := src, dst := dst }], missWait := false } } ∧
        (∀ k, k ≠ sk → v.streamer k = w.streamer k) ∧ v = { w with sk := v.sk, tl := { w.tl with events := v.tl.events } }) ∧
    (destFree s t = false → (s.streamer sk).channels.length = 1 →
      ∃ v, exec (.transferIssue sk) s = .next v ∧ v.streamer sk = { s.streamer sk with channels := [nextPage s c] } ∧
        (∀ k, k ≠ sk → v.streamer k = s.streamer k) ∧ v = { s with sk := v.sk })) ∧
  (∀ (sk ch : Nat) (s : State) (c : Channel) (m : Moving) (more : List Moving) (q : Nat),
    s.running = true → sk < 64 → (s.streamer sk).channels[ch]? = some c → c.moving = m :: more → (c.queued ≠ [] ∨ more ≠ []) →
    m.t.data = none → (∀ r n off, m.t.dst ≠ .slot r n off) →
    m.dst = [(q, m.t.bytes)] → sumNat (m.src.map (·.2)) = m.t.bytes →
    (∀ p ∈ m.src ++ m.dst, regionOf p.1 ≠ .host) →
    ∀ u w, readMeets s m.src = (u, none) → writeMeets (keepOld u c.cmd m.dst) m.dst (readPieces s.mem m.src) = (w, none) →
    ∃ t, exec (.transferComplete sk ch {}) s = .next t ∧
      (∀ i, i < m.t.bytes → t.mem.read (q + i) = (readPieces s.mem m.src).getD i 0#8) ∧
      (∀ a, a < q ∨ q + m.t.bytes ≤ a → t.mem.read a = s.mem.read a) ∧
      t.streamer sk = { s.streamer sk with channels := (s.streamer sk).channels.set ch { c with moving := more } } ∧
      (∀ k, k ≠ sk → t.streamer k = s.streamer k) ∧ t.cp.queues = s.cp.queues ∧ t.cp.events = s.cp.events ∧ t.st = w.st ∧ t.cl = s.cl ∧
      (errorFree s = true → u = s ∧ t.st = s.st)) ∧
  (∀ (sk i : Nat) (s : State) (c : Channel) (u : Cursor), s.running = true → sk ∈ [0, 1, 2, 3, 60, 61, 62, 63] →
    hungryChannel (s.streamer sk) = some (i, c, u) → errorFree s = true → (s.desc u.seq).state = 1 →
    ∃ t, exec (.pageEntryDelivery sk {}) s = .next t ∧
      t.streamer sk = { s.streamer sk with channels := (s.streamer sk).channels.set i { c with
        cursor := some { u with next := u.next + 1 },
        pages := c.pages ++ [⟨u.next, s.cl.frameAddr ((s.desc u.seq).pages.getD (u.next * (s.desc u.seq).groups + u.group) {}),
          min 64 (u.snapshot - 64 * u.next)⟩] } } ∧
      (∀ k, k ≠ sk → t.streamer k = s.streamer k) ∧ t = { s with sk := t.sk })

/-- The seven Coil commands (R325, R328): one that meets an open Coil with no other command running, and passes its checks with the plan
`p`, commits at once, and is decided OK with the plan's count, if the plan moves no data; otherwise its data is put on a channel of the
K/V streamer with the fewest, and nothing is committed until it has moved. -/
def Obligations.CoilCommandsCommit : Prop :=
  ∀ (s : State) (q op : Nat) (c : Cmd) (i : Instr) (p : CoilPlan),
    (i, op) ∈ [(Instr.seqOpen q, 0x30), (.seqClose q, 0x31), (.kvAppend q, 0x32), (.kvFork q, 0x33), (.kvTrim q, 0x34),
      (.kvEvict q, 0x35), (.kvPin q, 0x36)] →
    Starts s q op c → s.cl.ready = true → s.cl.metaFault = false → coilCmds s = [] → errorFree s = true → coilCheck s.cl c = none →
    (op ∈ [0x31, 0x34, 0x35] → (s.desc c.seq).readers = 0) →
    coilPlan { s.cl with busy := [c.id] } c (s.queue c.queue).cfg.xlCtx = .ok p →
    ∃ t, exec i s = .next t ∧ t.cp.queues = s.cp.queues ∧ t.cp.events = s.cp.events ∧ t.arr = s.arr ∧ t.rib = s.rib ∧ t.sp = s.sp ∧
      (p.moves = [] → Decided s t c 0 0 p.count ∧ t.cl = p.cl ∧ t.sk = s.sk) ∧
      (∀ n, p.moves ≠ [] → fewestOf s kvStreamers = some n →
        t.mem = s.mem ∧ t.cl = { s.cl with busy := [c.id] } ∧
        (t.streamer n).channels = (s.streamer n).channels ++ [{ cmd := c.id, queued := p.moves }] ∧
        ∃ d, t.cmd? c.id = some d ∧ d.status = none ∧ d.run = .coilMove)

/-- What the Coil commands commit (R327 to R333): SEQ_OPEN opens a closed sequence, KV_PIN pins, SEQ_CLOSE gives every reference back,
KV_TRIM keeps the pages of the shorter length, KV_FORK names the parent's frames, and KV_APPEND raises the length, keeps every page that
is not shared, and takes a frame for each shared page of the last block and for each new page, or fails with 0x0205.
COIL_INIT and COIL_INIT_DONE (R344, R345): one that R344 refuses sets init_err alone; otherwise every sequence is closed, the Coil
region is cleared, and at the end the counts are zero, the free stacks hold every frame and block, and Coil is ready. -/
def Obligations.CoilPlansAndInitialisation : Prop :=
  (∀ (cl : Coil) (c : Cmd) (ctx : Nat),
    (c.opcode = 0x30 → ∃ p, coilPlan cl c ctx = .ok p ∧ p.count = 0 ∧ p.moves = [] ∧
      p.cl.desc c.seq = { state := 1, groups := c.word 3 % 2 ^ 8, format := c.word 3 / 2 ^ 8 % 2 ^ 4, capacity := c.word 4 } ∧
      (∀ n, n ≠ c.seq → p.cl.desc n = cl.desc n) ∧ p.cl.refs = cl.refs) ∧
    (c.opcode = 0x36 → ∃ p, coilPlan cl c ctx = .ok p ∧ p.count = 0 ∧ p.moves = [] ∧
      p.cl.desc c.seq = { cl.desc c.seq with pinned := c.word 3 % 2 == 1 } ∧
      (∀ n, n ≠ c.seq → p.cl.desc n = cl.desc n) ∧ p.cl.refs = cl.refs) ∧
    (c.opcode = 0x31 → (cl.desc c.seq).state = 1 → ((cl.desc c.seq).pages.map cl.refKey).Nodup →
      ∃ p, coilPlan cl c ctx = .ok p ∧ p.moves = [] ∧ p.cl.desc c.seq = {} ∧ (∀ n, n ≠ c.seq → p.cl.desc n = cl.desc n) ∧
        p.count = ((cl.desc c.seq).pages.filter (fun x => cl.count x == 1)).length ∧
        (∀ k, tget 0 p.cl.refs k = if k ∈ (cl.desc c.seq).pages.map cl.refKey then tget 0 cl.refs k - 1 else tget 0 cl.refs k)) ∧
    (∀ p, c.opcode = 0x34 → coilPlan cl c ctx = .ok p →
      (p.cl.desc c.seq).length = c.word 3 ∧ p.moves = [] ∧
      (p.cl.desc c.seq).pages = (cl.desc c.seq).pages.take ((cl.desc c.seq).groups * ((c.word 3 + 63) / 64)) ∧
      (∀ n, n ≠ c.seq → p.cl.desc n = cl.desc n)) ∧
    (∀ p, c.opcode = 0x33 → c.child ≠ c.seq → coilPlan cl c ctx = .ok p →
      p.count = 0 ∧ p.moves = [] ∧ (p.cl.desc c.child).length = c.word 4 ∧ (p.cl.desc c.child).pinned = false ∧
      (p.cl.desc c.child).groups = (cl.desc c.seq).groups ∧ (p.cl.desc c.child).capacity = (cl.desc c.seq).capacity ∧
      (p.cl.desc c.child).format = (cl.desc c.seq).format ∧ (p.cl.desc c.child).readers = 0 ∧
      (p.cl.desc c.child).pages = (cl.desc c.seq).pages.take ((cl.desc c.seq).groups * ((c.word 4 + 63) / 64)) ∧
      (∀ n, n ≠ c.child → p.cl.desc n = cl.desc n)) ∧
    (c.opcode = 0x32 → 0 < (cl.desc c.seq).groups →
      (cl.desc c.seq).pages.length = (cl.desc c.seq).groups * (((cl.desc c.seq).length + 63) / 64) →
      let d := cl.desc c.seq
      let n := c.word 3 % 2 ^ 16
      let total := d.groups * ((d.length + n + 63) / 64)
      let need := ((List.range d.pages.length).filter (fun i =>
        decide (d.groups * (d.length / 64) ≤ i) && decide (1 < cl.count (d.pages.getD i {})))).length + (total - d.pages.length)
      (cl.freeStake.size - cl.reserve + cl.freeStack.size < need → coilPlan cl c ctx = .error 0x0205) ∧
      (∀ p, coilPlan cl c ctx = .ok p →
        p.count = need ∧ (p.cl.desc c.seq).length = d.length + n ∧ (p.cl.desc c.seq).pages.length = total ∧
        (∀ i, i < d.pages.length → (i < d.groups * (d.length / 64) ∨ cl.count (d.pages.getD i {}) ≤ 1) →
          (p.cl.desc c.seq).pages.getD i {} = d.pages.getD i {}) ∧
        (∀ k, k ≠ c.seq → p.cl.desc k = cl.desc k)))) ∧
  ((∀ (v : Word) (s : State), s.windowOpen 6 = true → v.getLsbD 0 = true → initRefused s = true →
    exec (.coilInit v) s = .next { s with cl := { s.cl with initErr := true } }) ∧
  (∀ (v : Word) (s : State), s.windowOpen 6 = true → v.getLsbD 0 = true → initRefused s = false →
    ∃ t, exec (.coilInit v) s = .next t ∧ t.cl.initBusy = true ∧ t.cl.ready = false ∧ (∀ n, (t.desc n).state = 0) ∧
      t.cl.initErr = s.cl.initErr ∧ (∀ a, coilLo ≤ a → a < coilHi → t.mem.read a = 0#8) ∧
      (∀ a, (a < coilLo ∨ coilHi ≤ a) → t.mem.read a = s.mem.read a) ∧ t = { s with cl := t.cl, mem := t.mem }) ∧
  (∀ s : State, s.bd.divRun = true → s.cl.initBusy = true →
    ∃ t, exec .coilInitDone s = .next t ∧ t.cl.ready = true ∧ t.cl.initBusy = false ∧ t.cl.metaFault = false ∧ t.cl.damaged = 0 ∧
      t.cl.leaked = 0 ∧ (∀ p, t.cl.count p = 0) ∧ t.cl.freeStake.size = s.cl.stakeCount ∧ t.cl.freeStack.size = s.cl.stackCount ∧
      t.cl.freeList.size = s.cl.listBlocks ∧ (∀ n, (t.desc n).state = 0) ∧ t = { s with cl := t.cl, mem := t.mem } ∧
      ∀ a, (a < s.cl.metaBase ∨ s.cl.metaEnd ≤ a) → t.mem.read a = s.mem.read a))

/-- TRANSLATION (R388, R390, R398, R399): an access that its TLB resolves changes nothing; one that a segment resolves installs the page in
the agent's TLB; one of a context with no root makes a miss request with the next sequence number. A TLB miss is an event (R480; log 149
says when it is counted).
MISS_RETRY, MISS_FAULT and MISS_TIMEOUT (R400 to R402, R404, R53): an answer retry frees the request, drops its page from the TLBs and
resolves the access again; fault ends a packet fetch with XLATE_FAULT, its address and tag 0, and halts the queue, and ends a command
with XLATE_FAULT and the packet word of its operand; 105,000 CCLK without an answer end a packet fetch with HOST_TIMEOUT in the same
way. An answer that names no request is counted. -/
def Obligations.TranslationsAndMisses : Prop :=
  (∀ (va ctx q tag word : Nat) (write : Bool) (s : State), s.plaitUp = true → ctx < 64 → va < 2 ^ 52 →
    (∀ x ∈ s.ofQueue q, x.tag ≠ tag ∨ x.started = false ∨ x.status ≠ none) → handleUp s = true →
    (∀ e, tlbLookup s.sp 64 ctx (va / 4096) write = some e → exec (.translation 64 ctx va write q tag word) s = .next s) ∧
    (∀ g, tlbLookup s.sp 64 ctx (va / 4096) write = none → segmentOf s.sp ctx va = some g →
      ∃ t, exec (.translation 64 ctx va write q tag word) s = .next t ∧
        tlbLookup t.sp 64 ctx (va / 4096) write = some ⟨ctx, va / 4096, (g.target + (va - g.vbase)) / 4096, true, true⟩ ∧
        (∀ k, k ≠ 64 → tget [] t.sp.tlbs k = tget [] s.sp.tlbs k) ∧
        t = { s with sp := { s.sp with tlbs := t.sp.tlbs }, tl := { s.tl with events := t.tl.events } }) ∧
    (tlbLookup s.sp 64 ctx (va / 4096) write = none → segmentOf s.sp ctx va = none → rootOf s.sp ctx = none → s.sp.ready = true →
      s.sp.misses = [] →
      ∃ t m, exec (.translation 64 ctx va write q tag word) s = .next t ∧ t.sp.misses = [m] ∧ m.seq = s.sp.nextSeq ∧ m.sent = true ∧
        m.ctx = ctx ∧ m.page = va / 4096 ∧ m.reason = 0 ∧ m.write = write ∧ m.notified = s.cp.time ∧
        m.waiters = [{ agent := 64, queue := q, tag := tag, cmd := none, va := va, write := write, word := word }] ∧
        t.sp.nextSeq = (s.sp.nextSeq + 1) % 65536 ∧ t.cp = s.cp)) ∧
  ((∀ (v : Word) (s u : State) (m : Miss) (w : Waiter) (pa : Nat), s.windowOpen 7 = true → s.bd.divRun = true → v.toNat / 2 ^ 16 % 4 = 0 →
    outstandingMiss s (v.toNat % 2 ^ 16) = some m → s.sp.misses = [m] → m.waiters = [w] → w.retries < 15 →
    resolve { s with sp := { tlbDrop s.sp (fun e => e.ctx == m.ctx && e.vpn == m.page) with misses := [] } }
      w.agent m.ctx w.va w.write true = (u, .at pa) → u.sp.misses = [] →
    exec (.missRetry v) s = .next u) ∧
  (∀ (v : Word) (s : State) (m : Miss) (w : Waiter), s.windowOpen 7 = true → s.bd.divRun = true → v.toNat / 2 ^ 16 % 4 = 1 →
    outstandingMiss s (v.toNat % 2 ^ 16) = some m → s.sp.misses = [m] → m.waiters = [w] → w.cmd = none → w.reply = none →
    ∃ t, exec (.missFault v) s = .next t ∧ t.sp.misses = [] ∧ t.queue w.queue = { s.queue w.queue with
      errStatus := 0x20, errTag := 0, fault := w.va, st := if (s.queue w.queue).st = .running then .halted else (s.queue w.queue).st } ∧
      (∀ p, p ≠ w.queue → t.queue p = s.queue p) ∧ t.cp.table = s.cp.table) ∧
  (∀ (v : Word) (s : State) (m : Miss) (w : Waiter) (c : Cmd), s.windowOpen 7 = true → s.bd.divRun = true →
    v.toNat / 2 ^ 16 % 4 = 1 → outstandingMiss s (v.toNat % 2 ^ 16) = some m → s.sp.misses = [m] → m.waiters = [w] →
    w.cmd = some c.id → w.probe = false → s.cmd? c.id = some c → c.status = none → c.undo = [] →
    ∃ t d n h, exec (.missFault v) s = .next t ∧ t.sp.misses = [] ∧ t.cmd? c.id = some d ∧ d.status = some ⟨0x20, w.word, n, h⟩ ∧
      (t.queue w.queue).fault = w.va) ∧
  (∀ (seq : Nat) (s : State) (m : Miss) (w : Waiter), s.bd.divRun = true → outstandingMiss s seq = some m → s.sp.misses = [m] →
    m.waiters = [w] → w.cmd = none → w.reply = none → m.notified + 105000 ≤ s.cp.time →
    ∃ t, exec (.missTimeout seq) s = .next t ∧ t.sp.misses = [] ∧ t.sp.timedOut = s.sp.timedOut ++ [seq] ∧
      t.queue w.queue = { s.queue w.queue with
        errStatus := 0x21, errTag := 0, fault := w.va, st := if (s.queue w.queue).st = .running then .halted else (s.queue w.queue).st } ∧
      (∀ p, p ≠ w.queue → t.queue p = s.queue p) ∧ t.cp.table = s.cp.table) ∧
  (∀ (v : Word) (s : State), s.windowOpen 7 = true → s.bd.divRun = true → v.toNat / 2 ^ 16 % 4 ≤ 1 →
    outstandingMiss s (v.toNat % 2 ^ 16) = none → v.toNat % 2 ^ 16 ∉ s.sp.timedOut →
    exec (.missRetry v) s = .next { s with sp := { s.sp with unknown := min 0xFF (s.sp.unknown + 1) } } ∧
    exec (.missFault v) s = .next { s with sp := { s.sp with unknown := min 0xFF (s.sp.unknown + 1) } }))

/-- XL_MAP, XL_INVAL and AGENT_WITHDRAWAL_ACK (R405, R406): a mapping that passes the checks of R415 begins a withdrawal: for a segment, of
its old and new ranges; for a root, of all that came from host tables. A length or root of zero removes the entry. The TLB entries and
mirrors of the ranges go in every agent; the acknowledgement of the last agent commits the mapping and decides the command OK.
WIN_OPEN, WIN_CLOSE and WINDOW_CLOSE_COMPLETE (R410, R411, R413): once every page has translated the window opens with its pages in
ascending order; closing a closed window is OK at once, and any other waits, closing, until no access of it is in flight; then the
window is closed. That SPLINT_DISABLE, which drops the windows, leaves their copies in memory as they are is the model's choice (log
152); which free run of the page map a window takes is free (log 36). -/
def Obligations.WithdrawalsAndWindows : Prop :=
  ((∀ (s : State) (q : Nat) (c : Cmd), Starts s q 0x40 c → c.word 2 / 2 ^ 12 % 4 = 0 → s.sp.current = none →
    segmentCheck s (c.word 2 % 2 ^ 6) (c.word 2 / 2 ^ 8 % 2 ^ 4) (c.addr 3) (c.addr 5) (c.addr 7) = none →
    ∃ t w, exec (.xlMap q) s = .next t ∧ t.sp.current = some w ∧ w.cmd = c.id ∧ w.ctx = c.word 2 % 2 ^ 6 ∧ w.hostOnly = false ∧
      (∀ r, r ∈ w.ranges ↔ (0 < c.addr 7 ∧ r = (c.addr 3, c.addr 7)) ∨
        ∃ g, tget none s.sp.segments (c.word 2 % 2 ^ 6 * 16 + c.word 2 / 2 ^ 8 % 2 ^ 4) = some g ∧ r = (g.vbase, g.length)) ∧
      w.commit = .segment (c.word 2 % 2 ^ 6 * 16 + c.word 2 / 2 ^ 8 % 2 ^ 4)
        (if c.addr 7 = 0 then none else some ⟨c.addr 3, c.addr 5, c.addr 7⟩) ∧
      (∀ a ∈ List.range 66, a ∈ t.sp.unacked) ∧ t.sp.segments = s.sp.segments ∧ t.mem = s.mem ∧
      ∃ d, t.cmd? c.id = some d ∧ d.status = none ∧ d.run = .withdraw) ∧
  (∀ (s : State) (q : Nat) (c : Cmd), Starts s q 0x40 c → c.word 2 / 2 ^ 12 % 4 = 1 → s.sp.current = none →
    rootCheck s (c.word 2 % 2 ^ 6) (c.addr 5) = none →
    ∃ t w, exec (.xlMap q) s = .next t ∧ t.sp.current = some w ∧ w.cmd = c.id ∧ w.ctx = c.word 2 % 2 ^ 6 ∧
      w.commit = .root (c.word 2 % 2 ^ 6) (if c.addr 5 = 0 then none else some (c.addr 5)) ∧
      (∀ agent, ∀ e ∈ tget [] t.sp.tlbs agent, e.ctx = c.word 2 % 2 ^ 6 → e.vpn < 2 ^ 40 → e.fromSegment = true) ∧
      (∀ m ∈ t.sp.mirrors, m.ctx = c.word 2 % 2 ^ 6 → m.lo < m.hi → m.lo < 2 ^ 52 → False) ∧
      (∀ a ∈ List.range 66, a ∈ t.sp.unacked) ∧ t.sp.roots = s.sp.roots ∧ t.sp.segments = s.sp.segments ∧ t.mem = s.mem ∧
      ∃ d, t.cmd? c.id = some d ∧ d.status = none ∧ d.run = .withdraw) ∧
  (∀ (s : State) (q : Nat) (c : Cmd), Starts s q 0x41 c → s.sp.current = none → c.addr 3 + c.addr 5 ≤ 2 ^ 52 →
    meetsWindow s (c.word 2 % 2 ^ 6) [(c.addr 3, c.addr 5)] = false →
    ∃ t w, exec (.xlInval q) s = .next t ∧ t.sp.current = some w ∧ w.cmd = c.id ∧ w.ctx = c.word 2 % 2 ^ 6 ∧ w.ranges = [(c.addr 3, c.addr 5)] ∧
      w.hostOnly = false ∧ w.commit = .nothing ∧ (∀ a ∈ List.range 66, a ∈ t.sp.unacked) ∧
      (∀ agent vpn, 0 < c.addr 5 → c.addr 3 / 4096 ≤ vpn → vpn * 4096 < c.addr 3 + c.addr 5 →
        ∀ e ∈ tget [] t.sp.tlbs agent, ¬ (e.ctx = c.word 2 % 2 ^ 6 ∧ e.vpn = vpn)) ∧
      t.sp.segments = s.sp.segments ∧ t.sp.roots = s.sp.roots ∧ t.mem = s.mem ∧
      ∃ d, t.cmd? c.id = some d ∧ d.status = none ∧ d.run = .withdraw) ∧
  (∀ (agent : Nat) (s : State) (w : Withdraw), s.bd.divRun = true → s.sp.current = some w → agent ∈ s.sp.unacked → agentBusy s w agent = false →
    (∃ b ∈ s.sp.unacked, b ≠ agent) →
    exec (.agentWithdrawalAck agent) s = .next { s with sp := { s.sp with unacked := s.sp.unacked.filter (fun a => a != agent) } }) ∧
  (∀ (agent i : Nat) (g : Option Segment) (s : State) (w : Withdraw) (c : Cmd), s.bd.divRun = true → s.sp.current = some w →
    s.sp.unacked = [agent] → agentBusy s w agent = false → w.commit = .segment i g → s.sp.waiting = [] →
    s.cmd? w.cmd = some c → c.status = none →
    ∃ t d h, exec (.agentWithdrawalAck agent) s = .next t ∧ tget none t.sp.segments i = g ∧
      (∀ k, k ≠ i → tget none t.sp.segments k = tget none s.sp.segments k) ∧ t.sp.current = none ∧ t.sp.roots = s.sp.roots ∧
      t.cmd? w.cmd = some d ∧ d.status = some ⟨0, 0, 0, h⟩) ∧
  (∀ (agent i : Nat) (r : Option Nat) (s : State) (w : Withdraw) (c : Cmd), s.bd.divRun = true → s.sp.current = some w →
    s.sp.unacked = [agent] → agentBusy s w agent = false → w.commit = .root i r → s.sp.waiting = [] →
    s.cmd? w.cmd = some c → c.status = none →
    ∃ t d h, exec (.agentWithdrawalAck agent) s = .next t ∧ tget none t.sp.roots i = r ∧
      (∀ k, k ≠ i → tget none t.sp.roots k = tget none s.sp.roots k) ∧ t.sp.current = none ∧ t.sp.segments = s.sp.segments ∧
      t.cmd? w.cmd = some d ∧ d.status = some ⟨0, 0, 0, h⟩)) ∧
  ((∀ (s u : State) (q : Nat) (c : Cmd) (ps : List Nat) (x : Nat), Starts s q 0x42 c →
    windowCheck s (c.word 2 % 2 ^ 12) (c.addr 3) (c.addr 5) = none →
    windowTranslate (s.mapCmd c.id (begun s)) (begun s c) (s.queue c.queue).cfg.xlCtx (c.addr 3)
      (c.addr 5 / 4096) 0 [] = (u, ps, .at x) →
    windowCheck u (c.word 2 % 2 ^ 12) (c.addr 3) (c.addr 5) = none → ps.length = c.addr 5 / 4096 →
    (u.queue c.queue).cfg.xlCtx = (s.queue c.queue).cfg.xlCtx → u.cmd? c.id = some (begun s c) →
    ∃ t d h, exec (.winOpen q) s = .next t ∧ (t.window (c.word 2 % 2 ^ 12)).state = 1 ∧
      (t.window (c.word 2 % 2 ^ 12)).ctx = (s.queue c.queue).cfg.xlCtx ∧ (t.window (c.word 2 % 2 ^ 12)).base = c.addr 3 ∧
      (t.window (c.word 2 % 2 ^ 12)).length = c.addr 5 ∧ (t.window (c.word 2 % 2 ^ 12)).sender = c.word 7 % 2 ^ 16 ∧
      (t.window (c.word 2 % 2 ^ 12)).anySender = (c.word 7 / 2 ^ 16 % 2 == 1) ∧ (t.window (c.word 2 % 2 ^ 12)).pages = ps ∧
      (t.window (c.word 2 % 2 ^ 12)).inflight = 0 ∧ (∀ k, k ≠ c.word 2 % 2 ^ 12 → t.window k = u.window k) ∧
      t.cmd? c.id = some d ∧ d.status = some ⟨0, 0, 0, h⟩) ∧
  (∀ (s : State) (q : Nat) (c : Cmd), Starts s q 0x43 c → (s.window (c.word 2 % 2 ^ 12)).state = 0 →
    ∃ t, exec (.winClose q) s = .next t ∧ Decided s t c 0 0 0 ∧ OnlyPlait s t) ∧
  (∀ (s : State) (q : Nat) (c : Cmd), Starts s q 0x43 c → (s.window (c.word 2 % 2 ^ 12)).state ≠ 0 →
    ∃ t, exec (.winClose q) s = .next t ∧ Waits s t c ∧
      t.window (c.word 2 % 2 ^ 12) = { s.window (c.word 2 % 2 ^ 12) with state := 2 } ∧
      (∀ k, k ≠ c.word 2 % 2 ^ 12 → t.window k = s.window k)) ∧
  (∀ (n : Nat) (s : State), s.bd.divRun = true → (s.window n).state = 2 → (s.window n).inflight = 0 →
    (s.cp.table.map (·.id)).Nodup →
    ∃ t, exec (.windowCloseComplete n) s = .next t ∧ t.window n = {} ∧ (∀ k, k ≠ n → t.window k = s.window k) ∧
      (∀ c ∈ s.cp.table, c.started = true → c.status = none → c.opcode = 0x43 → c.word 2 % 2 ^ 12 = n →
        ∃ d h, t.cmd? c.id = some d ∧ d.status = some ⟨0, 0, 0, h⟩)) ∧
  (∀ (v : Word) (s t : State), s.windowOpen 7 = true → v.getLsbD 0 = false → s.sp.enable = true → (∀ q, q < 256 → (s.queue q).st = .disabled) →
    exec (.splintDisable v) s = .next t → t.mem = s.mem))

/-- SPLINT_ENABLE, SPLINT_READY, SPLINT_DISABLE, SEGMENT_STORE and SEGMENT_LOAD (R418 to R420): enabling with a legal mirror area and a miss
table zeroes the mirror and ends in ready, and otherwise sets enable_err; disabling needs every queue Disabled; a store that R419 admits
installs or removes the segment or the root of the segment registers, and a load reads it back, zeros where there is none. -/
def Obligations.SplintControl : Prop :=
  (∀ (v : Word) (s : State), s.windowOpen 7 = true → v.getLsbD 0 = true → s.sp.enable = false →
    s.sp.mirrorBase + 0x4029000 ≤ stackEnd → s.sp.missBase ≠ 0 →
    ∃ t, exec (.splintEnable v) s = .next t ∧ t.sp.enable = true ∧ t.sp.initBusy = true ∧ t.sp.ready = s.sp.ready ∧
      (∀ a, s.sp.mirrorBase ≤ a → a < s.sp.mirrorBase + 0x4029000 → t.mem.read a = 0#8) ∧
      (∀ a, (a < s.sp.mirrorBase ∨ s.sp.mirrorBase + 0x4029000 ≤ a) → t.mem.read a = s.mem.read a) ∧ t = { s with sp := t.sp, mem := t.mem }) ∧
  (∀ (v : Word) (s : State), s.windowOpen 7 = true → v.getLsbD 0 = true → s.sp.enable = false →
    (stackEnd < s.sp.mirrorBase + 0x4029000 ∨ s.sp.missBase = 0) →
    ∃ t, exec (.splintEnable v) s = .next t ∧ t.sp.enable = false ∧ t.sp.enableErr = true ∧ t.mem = s.mem) ∧
  (∀ s : State, s.bd.divRun = true → s.sp.enable = true → s.sp.initBusy = true →
    exec .splintReady s = .next { s with sp := { s.sp with initBusy := false, ready := true } }) ∧
  (∀ (v : Word) (s : State), s.windowOpen 7 = true → v.getLsbD 0 = false → s.sp.enable = true →
    ((∀ q, q < 256 → (s.queue q).st = .disabled) →
      ∃ t, exec (.splintDisable v) s = .next t ∧ t.sp.enable = false ∧ t.sp.ready = false ∧ t.sp.roots = [] ∧ (∀ w, t.window w = {}) ∧
        t.sp.tlbs = [] ∧ t.sp.mirrors = [] ∧ t.sp.segments = s.sp.segments) ∧
    ((∃ q, q < 256 ∧ (s.queue q).st ≠ .disabled) →
      ∃ t, exec (.splintDisable v) s = .next t ∧ t.sp.enable = true ∧ t.sp.enableErr = true ∧ t.sp.ready = s.sp.ready)) ∧
  (∀ (v : Word) (s : State), s.windowOpen 7 = true → v.getLsbD 0 = true → v.getLsbD 1 = false → storeRefused s = false →
    ∃ t, exec (.segmentStore v) s = .next t ∧
      t = { s with mem := t.mem, sp := { s.sp with
        segments := t.sp.segments, roots := t.sp.roots, segRefused := s.sp.segRefused && !v.getLsbD 2 } } ∧
      (∀ k, tget none t.sp.segments k = if s.sp.selRoot = false ∧ k = s.sp.selCtx * 16 + s.sp.selSegment
        then (if s.sp.segLen = 0 then none else some ⟨s.sp.segVbase, s.sp.segTarget, s.sp.segLen⟩) else tget none s.sp.segments k) ∧
      (∀ k, tget none t.sp.roots k = if s.sp.selRoot = true ∧ k = s.sp.selCtx
        then (if s.sp.segTarget = 0 then none else some s.sp.segTarget) else tget none s.sp.roots k)) ∧
  (∀ (v : Word) (s : State), s.windowOpen 7 = true → v.getLsbD 0 = true → v.getLsbD 1 = false → storeRefused s = true →
    exec (.segmentStore v) s = .next { s with sp := { s.sp with segRefused := true } }) ∧
  (∀ (v : Word) (s : State), s.windowOpen 7 = true → v.getLsbD 0 = false → v.getLsbD 1 = true →
    exec (.segmentLoad v) s = .next { s with sp := { s.sp with
      segRefused := s.sp.segRefused && !v.getLsbD 2,
      segVbase := if s.sp.selRoot = true then 0 else
        ((tget none s.sp.segments (s.sp.selCtx * 16 + s.sp.selSegment)).map (fun g => g.vbase)).getD 0,
      segTarget := if s.sp.selRoot = true then (tget none s.sp.roots s.sp.selCtx).getD 0 else
        ((tget none s.sp.segments (s.sp.selCtx * 16 + s.sp.selSegment)).map (fun g => g.target)).getD 0,
      segLen := if s.sp.selRoot = true then 0 else
        ((tget none s.sp.segments (s.sp.selCtx * 16 + s.sp.selSegment)).map (fun g => g.length)).getD 0 } })

/-- The port rows (R422 to R429, R465): enabling begins training; its end brings the link up with full credits, its timeout fails the port
with the interrupt; port_reset trains an enabled port anew; a lane that loses its alignment fails the port; a block in order and intact
is taken, acknowledges and returns credits, an idle block only acknowledges and returns credits, and one whose check fails or that is
out of order is discarded and answered with a nak. The model's readings: credits start at 512 flits a class and stop at 4096, and in
loopback a port takes only what it sends (log 100); an idle block's header counts also while blocks are discarded (log 132); each
codeword that fails adds 1 to the uncorrectable count (log 99); the 500 ms run from the enable or the reset, and a port shows 5 until it
is up again (log 133).
TABLE_STORE and TABLE_LOAD (R466): the sixteen words become the entry that HP_TBL_SEL names, unless a command of that entry is in
flight, which sets tbl_refused; a load reads the entry back. -/
def Obligations.PortsBlocksAndTables : Prop :=
  ((∀ (p : Nat) (v : Word) (s : State), s.windowOpen 8 = true → p < 16 → v.getLsbD 0 = true → v.getLsbD 1 = false →
    (s.port p).enable = false →
    ∃ t, exec (.portEnable p v) s = .next t ∧ t.port p = { s.port p with
        enable := true, loopback := v.getLsbD 2, state := .training, peer := 0, lanesOk := 0, nextRx := 0, nextTx := 0, nakDue := false,
        failsInRow := 0, replay := [], credits := [512, 512, 512, 512], arrived := [0, 0, 0, 0], outHeader := 0,
        trainedSince := s.cp.time } ∧
      (∀ k, k ≠ p → t.port k = s.port k) ∧ t = { s with hp := { s.hp with ports := t.hp.ports } }) ∧
  (∀ (p peer : Nat) (s : State), hoopOn s = true → p < 16 → peer < 65536 →
    ((s.port p).state = .training ∨ (s.port p).state = .resetting) → ((s.port p).loopback = true → peer = ownId s) → s.hp.waiting = [] →
    ∃ t, exec (.portTrainingDone p peer) s = .next t ∧ (t.port p).state = .up ∧ (t.port p).peer = peer ∧ (t.port p).lanesOk = 15 ∧
      (t.port p).credits = [512, 512, 512, 512] ∧ (t.port p).enable = (s.port p).enable ∧ (t.port p).lastHello = s.cp.time ∧
      (∀ k, k ≠ p → t.port k = s.port k) ∧ (∀ k, k < 16 → t.bd.silent.testBit k = (s.bd.silent.testBit k && decide (k ≠ p))) ∧
      t = { s with hp := { s.hp with ports := t.hp.ports }, bd := { s.bd with silent := t.bd.silent } }) ∧
  (∀ (p : Nat) (s : State), hoopOn s = true → p < 16 → ((s.port p).state = .training ∨ (s.port p).state = .resetting) →
    (s.port p).trainedSince + 262500000 ≤ s.cp.time → (s.port p).unacked = [] → s.hp.waiting = [] →
    ∃ t, exec (.portTrainingTimeout p) s = .next t ∧ (t.port p).state = .failed ∧ t.bd.irq.testBit 5 = true ∧
      (∀ k, k ≠ p → t.port k = s.port k) ∧ t.hp.waiting = [] ∧ t.mem = s.mem ∧ t.cp = s.cp) ∧
  (∀ (p lane : Nat) (s : State), hoopOn s = true → p < 16 → lane < 4 → portUp s p = true → (s.port p).unacked = [] → s.hp.waiting = [] →
    ∃ t, exec (.laneAlignmentLoss p lane) s = .next t ∧ (t.port p).state = .failed ∧ t.bd.irq.testBit 5 = true ∧
      (∀ n, n < 4 → (t.port p).lanesOk.testBit n = ((s.port p).lanesOk.testBit n && decide (n ≠ lane))) ∧
      (∀ k, k ≠ p → t.port k = s.port k) ∧ t.mem = s.mem ∧ t.cp = s.cp) ∧
  (∀ (p : Nat) (v : Word) (s : State), s.windowOpen 8 = true → p < 16 → v.getLsbD 0 = true → v.getLsbD 1 = true →
    (s.port p).enable = true → (s.port p).unacked = [] → s.hp.waiting = [] →
    ∃ t, exec (.portReset p v) s = .next t ∧ (t.port p).state = .resetting ∧ (t.port p).enable = true ∧ (t.port p).peer = 0 ∧
      (t.port p).credits = [512, 512, 512, 512] ∧ (t.port p).retries = (s.port p).retries ∧
      (∀ k, k ≠ p → t.port k = s.port k) ∧ t.cp = s.cp ∧ t.mem = s.mem) ∧
  (∀ (p : Nat) (b : Block) (s : State), hoopOn s = true → p < 16 → portUp s p = true → loopedBlock (s.port p) b = true → s.hp.waiting = [] →
    (s.port p).failsInRow < 7 →
    let seq := headerField b 11 0
    let after (t : State) := (∀ o ∈ (s.port p).unacked, o ∈ (t.port p).unacked ↔ 2048 ≤ (headerField b 23 12 + 4096 - o.last) % 4096) ∧
      ((s.port p).credits.length = 4 → ∀ k, k < 4 → (t.port p).credits.getD k 0 = if k = headerField b 26 25
        then min 4096 ((s.port p).credits.getD k 0 + 16 * headerField b 31 27) else (s.port p).credits.getD k 0)
    let others (t : State) := (∀ k, k ≠ p → t.port k = s.port k) ∧
      t = { s with hp := { s.hp with ports := t.hp.ports }, tl := { s.tl with events := t.tl.events } }
    (intact b = true → b.idle = false → seq = (s.port p).nextRx →
      ∃ t, exec (.linkBlock p b) s = .next t ∧ (t.port p).nextRx = ((s.port p).nextRx + 1) % 4096 ∧ (t.port p).state = .up ∧
        (t.port p).nakDue = false ∧ (t.port p).failsInRow = 0 ∧ (t.port p).uncorrectable = (s.port p).uncorrectable ∧ after t ∧ others t) ∧
    (intact b = true → b.idle = true →
      ∃ t, exec (.linkBlock p b) s = .next t ∧ (t.port p).nextRx = (s.port p).nextRx ∧ (t.port p).state = (s.port p).state ∧
        (t.port p).nakDue = (s.port p).nakDue ∧ after t ∧ others t) ∧
    ((intact b = false ∨ (b.idle = false ∧ seq ≠ (s.port p).nextRx)) →
      ∃ t, exec (.linkBlock p b) s = .next t ∧ (t.port p).nakDue = true ∧ (t.port p).state = .retrying ∧
        (t.port p).uncorrectable = min 0xFF ((s.port p).uncorrectable + b.codewordsBad) ∧
        (t.port p).failsInRow = (if intact b = false ∧ ((s.port p).nakDue = false ∨ seq = (s.port p).nextRx) then (s.port p).failsInRow + 1
          else (s.port p).failsInRow) ∧
        (t.port p).nextRx = (s.port p).nextRx ∧ (t.port p).unacked = (s.port p).unacked ∧ (t.port p).credits = (s.port p).credits ∧ others t))) ∧
  ((∀ (v : Word) (s : State), s.windowOpen 8 = true → v = 1#32 → entryInUse s (bit s.hp.tblSel 8) (s.hp.tblSel % 2 ^ 8) = false →
    ∃ t, exec (.tableStore v) s = .next t ∧
      (∀ i, i < 16 → ((if bit s.hp.tblSel 8 = true then groupEntry t (s.hp.tblSel % 2 ^ 8) else ringEntry t (s.hp.tblSel % 2 ^ 8)).getD i 0#32) =
        tget 0#32 s.hp.tblWords i) ∧
      (∀ k, k ≠ s.hp.tblSel % 2 ^ 8 → ringEntry t k = ringEntry s k ∧ groupEntry t k = groupEntry s k) ∧
      t = { s with hp := { s.hp with rings := t.hp.rings, groups := t.hp.groups } }) ∧
  (∀ (v : Word) (s : State), s.windowOpen 8 = true → v = 1#32 → entryInUse s (bit s.hp.tblSel 8) (s.hp.tblSel % 2 ^ 8) = true →
    exec (.tableStore v) s = .next { s with hp := { s.hp with tblRefused := true } }) ∧
  (∀ (v : Word) (s : State), s.windowOpen 8 = true → v = 2#32 →
    (if bit s.hp.tblSel 8 = true then groupEntry s (s.hp.tblSel % 2 ^ 8) else ringEntry s (s.hp.tblSel % 2 ^ 8)).length ≤ 16 →
    ∃ t, exec (.tableLoad v) s = .next t ∧
      (∀ i, i < 16 → tget 0#32 t.hp.tblWords i =
        (if bit s.hp.tblSel 8 = true then groupEntry s (s.hp.tblSel % 2 ^ 8) else ringEntry s (s.hp.tblSel % 2 ^ 8)).getD i 0#32) ∧
      t = { s with hp := { s.hp with tblWords := t.hp.tblWords } }))

/-- PUT (R81, R92, R436) of bytes whose source Hoop's TLB resolves: to another engine they go out as PUT_DATAs of up to 4 KiB, in ascending
offset, and the command waits for their answers; to this engine's own ID they are served here, and the bytes of the window are those of
the source. A buffer needs no alignment (log 92).
GET (R81, R437) likewise: GET_REQs of up to 4 KiB to another engine, of which at most 64 are outstanding, or the window's bytes at the
destination. That a GET_REQ's length is the number of bytes asked for is the model's reading (log 38), and a buffer needs no alignment
(log 92). -/
def Obligations.PutAndGetStart : Prop :=
  (∀ (s : State) (q : Nat) (c : Cmd) (e : Nat → TlbEntry), Starts s q 0x53 c → 0 < c.word 7 →
    (∀ i, i < c.word 7 → tlbLookup s.sp 65 (s.queue c.queue).cfg.xlCtx ((c.addr 3 + i) / 4096) false = some (e ((c.addr 3 + i) / 4096))) →
    handleUp s = true → errorFree s = true →
    let src (i : Nat) := (e ((c.addr 3 + i) / 4096)).ppn * 4096 + (c.addr 3 + i) % 4096
    (c.remote ≠ ownId s → remoteCheck s c.remote = none →
      ∃ t d r, exec (.putRemote q) s = .next t ∧
        t.hp = ((parcels (c.word 7)).foldl (fun u p => sendMsg u ((mkMsg s 0x01 3 c.remote (tagOf c.id) c.remoteWindow (c.addr 5 + p.1) 0 0
          ((List.range p.2).map (fun i => s.mem.read (src (p.1 + i))))).by c)) s).hp ∧
        t.cmd? c.id = some d ∧ d.status = none ∧ d.run = .transport r ∧
        r.unanswered = (parcels (c.word 7)).map (fun p => (p.1, p.2, s.cp.time)) ∧ r.unsent = [] ∧ r.moved = 0 ∧ t.mem = s.mem) ∧
    (c.remote = ownId s → windowAdmits s c.remoteWindow (ownId s) (c.addr 5) (c.word 7) = true →
      (∀ n, (s.base n).selfRefresh = false) →
      let dst (i : Nat) := (s.window c.remoteWindow).pages.getD ((c.addr 5 + i) / 4096) 0 + (c.addr 5 + i) % 4096
      (∀ i k, i < c.word 7 → k < c.word 7 → src i ≠ dst k ∧ (i ≠ k → dst i ≠ dst k)) →
      ∃ t, exec (.putRemote q) s = .next t ∧ Decided s t c 0 0 (c.word 7) ∧
        (∀ i, i < c.word 7 → t.mem.read (dst i) = s.mem.read (src i)) ∧
        (∀ a, (∀ i, i < c.word 7 → a ≠ dst i) → t.mem.read a = s.mem.read a) ∧ t.hp = s.hp)) ∧
  (∀ (s : State) (q : Nat) (c : Cmd) (e : Nat → TlbEntry), Starts s q 0x54 c → 0 < c.word 7 →
    (∀ i, i < c.word 7 → tlbLookup s.sp 65 (s.queue c.queue).cfg.xlCtx ((c.addr 3 + i) / 4096) true = some (e ((c.addr 3 + i) / 4096))) →
    handleUp s = true → errorFree s = true →
    let dst (i : Nat) := (e ((c.addr 3 + i) / 4096)).ppn * 4096 + (c.addr 3 + i) % 4096
    (c.remote ≠ ownId s → remoteCheck s c.remote = none →
      ∃ t d r, exec (.getRemote q) s = .next t ∧
        t.hp = (((parcels (c.word 7)).take 64).foldl (fun u p =>
          let o := (mkMsg s 0x04 3 c.remote (tagOf c.id) c.remoteWindow (c.addr 5 + p.1) 0 0 []).by c
          sendMsg u { o with m := { o.m with length := BitVec.ofNat 13 p.2 } }) s).hp ∧
        t.cmd? c.id = some d ∧ d.status = none ∧ d.run = .transport r ∧
        r.unanswered = ((parcels (c.word 7)).take 64).map (fun p => (p.1, p.2, s.cp.time)) ∧ r.unsent = (parcels (c.word 7)).drop 64 ∧
        r.moved = 0 ∧ t.mem = s.mem) ∧
    (c.remote = ownId s → windowAdmits s c.remoteWindow (ownId s) (c.addr 5) (c.word 7) = true →
      (∀ n, (s.base n).selfRefresh = false) →
      let src (i : Nat) := (s.window c.remoteWindow).pages.getD ((c.addr 5 + i) / 4096) 0 + (c.addr 5 + i) % 4096
      (∀ i k, i < c.word 7 → k < c.word 7 → src i ≠ dst k ∧ (i ≠ k → dst i ≠ dst k)) →
      ∃ t, exec (.getRemote q) s = .next t ∧ Decided s t c 0 0 (c.word 7) ∧
        (∀ i, i < c.word 7 → t.mem.read (dst i) = s.mem.read (src i)) ∧
        (∀ a, (∀ i, i < c.word 7 → a ≠ dst i) → t.mem.read a = s.mem.read a) ∧ t.hp = s.hp))

/-- PUT_DATA, GET_REQ, PUT_ACK, PUT_NACK, GET_DATA, GET_NACK and PUT_GET_WATCHDOG (R412, R414, R436 to R438): a window that admits an access
has it made and answered, and refuses any other with a NACK; the last answer decides the command OK with the bytes moved, a NACK decides
WINDOW_CLOSED with the window's number, and a watchdog PARTNER_LOST with the remote engine, which becomes a suspect. That a GET_REQ's
length is the number of bytes asked for is the model's reading (log 38), and so is the count at an error (log 65). -/
def Obligations.RemoteAccessesAreAnswered : Prop :=
  (∀ (m : Msg) (s : State), Arrives s m → s.bd.power = .run → (∀ n, (s.base n).selfRefresh = false) → errorFree s = true →
    m.offset.toNat % 4096 + m.data.length ≤ 4096 → m.data ≠ [] →
    windowAdmits s m.object.toNat m.src.toNat m.offset.toNat m.data.length = true →
    let w := (s.window m.object.toNat).pages.getD (m.offset.toNat / 4096) 0 + m.offset.toNat % 4096
    ∃ t, exec (.putData m) s = .next t ∧ (∀ i, i < m.data.length → t.mem.read (w + i) = m.data.getD i 0#8) ∧
      (∀ a, a < w ∨ w + m.data.length ≤ a → t.mem.read a = s.mem.read a) ∧
      t.hp = (sendMsg (credited s 1 m) (mkMsg s 0x02 3 m.src.toNat m.tag.toNat m.object.toNat m.offset.toNat 0 0 [])).hp ∧ t.cp = s.cp ∧ t.sp = s.sp) ∧
  (∀ (m : Msg) (s : State), Arrives s m → s.bd.power = .run → (∀ n, (s.base n).selfRefresh = false) → errorFree s = true →
    m.offset.toNat % 4096 + m.length.toNat ≤ 4096 →
    0 < m.length.toNat → windowAdmits s m.object.toNat m.src.toNat m.offset.toNat m.length.toNat = true →
    let w := (s.window m.object.toNat).pages.getD (m.offset.toNat / 4096) 0 + m.offset.toNat % 4096
    ∃ t, exec (.getReq m) s = .next t ∧ t.mem = s.mem ∧
      t.hp = (sendMsg (credited s 4 m) (mkMsg s 0x05 3 m.src.toNat m.tag.toNat m.object.toNat m.offset.toNat 0 0 (s.mem.readBytes w m.length.toNat))).hp) ∧
  (∀ (m : Msg) (s : State), Arrives s m → windowAdmits s m.object.toNat m.src.toNat m.offset.toNat m.data.length = false →
    ∃ t, exec (.putData m) s = .next t ∧ t.mem = s.mem ∧ t.sp = { s.sp with winRefused := min 0xFFFFFFFF (s.sp.winRefused + 1) } ∧
      t.hp = (sendMsg (credited s 1 m) (mkMsg s 0x03 3 m.src.toNat m.tag.toNat m.object.toNat m.offset.toNat 0 0 [])).hp) ∧
  (∀ (m : Msg) (s : State), Arrives s m → windowAdmits s m.object.toNat m.src.toNat m.offset.toNat m.length.toNat = false →
    ∃ t, exec (.getReq m) s = .next t ∧ t.mem = s.mem ∧ t.sp = { s.sp with winRefused := min 0xFFFFFFFF (s.sp.winRefused + 1) } ∧
      t.hp = (sendMsg (credited s 4 m) (mkMsg s 0x06 3 m.src.toNat m.tag.toNat m.object.toNat m.offset.toNat 0 0 [])).hp) ∧
  (∀ (m : Msg) (s : State) (c : Cmd) (r : Transport) (u : Nat × Nat × Nat), Arrives s m → transportFor s 0x53 m = some (c, r) →
    s.cmd? c.id = some c → answeredPart c r m = some u → r.unanswered = [u] → r.unsent = [] → c.word 7 ≤ r.checked →
    ∃ t d h, exec (.putAck m) s = .next t ∧ t.cmd? c.id = some d ∧ d.status = some ⟨0, 0, r.moved + u.2.1, h⟩ ∧ t.mem = s.mem ∧
      t.cp.queues = s.cp.queues) ∧
  (∀ (m : Msg) (s : State) (p : Instr × Nat) (c : Cmd) (r : Transport), p ∈ [(Instr.putNack m, 0x53), (.getNack m, 0x54)] → Arrives s m →
    transportFor s p.2 m = some (c, r) → s.cmd? c.id = some c → c.status = none →
    ∃ t d h, exec p.1 s = .next t ∧ t.cmd? c.id = some d ∧ d.status = some ⟨0x41, r.window, r.moved, h⟩ ∧ t.mem = s.mem ∧
      (t.queue c.queue).st = if (s.queue c.queue).st = .running then .halted else (s.queue c.queue).st) ∧
  (∀ (m : Msg) (s : State) (c : Cmd) (r : Transport) (o n k : Nat) (e : TlbEntry), Arrives s m → transportFor s 0x54 m = some (c, r) →
    s.cmd? c.id = some c → answeredPart c r m = some (o, n, k) → r.unanswered = [(o, n, k)] → r.unsent = [] → c.word 7 ≤ r.checked →
    0 < n → n ≤ m.data.length → (c.addr 3 + o) % 4096 + n ≤ 4096 → handleUp s = true → errorFree s = true →
    tlbLookup s.sp 65 (s.queue c.queue).cfg.xlCtx ((c.addr 3 + o) / 4096) true = some e →
    let pa := e.ppn * 4096 + (c.addr 3 + o) % 4096
    ∃ t d h, exec (.getData m) s = .next t ∧ t.cmd? c.id = some d ∧ d.status = some ⟨0, 0, r.moved + n, h⟩ ∧
      (∀ i, i < n → t.mem.read (pa + i) = m.data.getD i 0#8) ∧ (∀ a, a < pa ∨ pa + n ≤ a → t.mem.read a = s.mem.read a)) ∧
  (∀ (id : Nat) (s : State) (c : Cmd) (r : Transport), hoopOn s = true → s.cmd? id = some c → c.status = none → c.run = .transport r →
    c.opcode ∈ [0x53, 0x54] → c.id = id → c.undo = [] → (∃ u ∈ r.unanswered, u.2.2 + watchdog s ≤ s.cp.time) →
    ∃ t d h, exec (.putGetWatchdog id) s = .next t ∧ t.cmd? id = some d ∧ d.status = some ⟨0x40, r.remote, r.moved, h⟩ ∧
      t.bd.suspectValid = true ∧ t.bd.suspectSource = 4 ∧ t.bd.suspectEngine = r.remote ∧ t.bd.irq.testBit 4 = true ∧ t.mem = s.mem)

/-- RING_SWEEP and REPLAY (R439, R442, R443, R535, R536, R538): a sweep that passes its checks keeps its record, no step of its ring has
committed, and step 0 begins; a forward sweep's home shard sets out at once in each direction of the step, in SHARD_DATAs of up to 4
KiB, a backward one's once the work is done; a replay runs with the packet of the record, under its own tag, from the home shards, or
announces its committed step to both neighbours and waits. The model's readings: the order of a start's checks (log 55), and that a
replayed step that had been committed does not move HP_RING_STEP back (log 85). -/
def Obligations.SweepsAndReplaysStart : Prop :=
  (∀ (s u : State) (q : Nat) (c e : Cmd) (k : Compute), Starts s q 0x50 c →
    let n := c.word 15 % 2 ^ 8
    let g := begun s c
    ringCheck (begin_ s c) g (ringInFlight (begin_ s c) g n) = none →
    (∀ fin : State → Cmd → Compute → State, planWith readArgs areasCheck fin (begin_ s c) g = fin u g k) →
    u.cmd? c.id = some e → e.status = none →
    ∃ t, exec (.ringSweep q) s = .next t ∧
      (∃ x ∈ t.hp.records, x.ring = n ∧ x.queue = c.queue ∧ x.words = c.words ∧ x.args = k.args) ∧
      tget {} t.hp.ringSteps n = {} ∧
      ((ringMembers (ringEntry u n) = 1 ∨ (ringBwd c = true ∧ 0 < stepItems c k (ringEntry u n) true 0)) → u.hp.heldAccess = [] →
        ∃ d r, t.cmd? c.id = some d ∧ d.status = none ∧ d.run = .ring r ∧ r.ring = n ∧ r.step = 0 ∧
          r.bwd = (c.word 15 / 2 ^ 8 % 2 == 1) ∧ r.waiting = false ∧ r.finishing = false ∧ r.skipTo = none ∧ t.mem = u.mem ∧
          t.hp.waiting = u.hp.waiting ∧ t.hp.ports = u.hp.ports) ∧
      (∀ w l, 1 < ringMembers (ringEntry u n) → ringBwd c = false →
        collect (enterStep (sweepEntry u g k) g (sweepRing g k) 0).1 (fun v d => shardToSend v g k (sweepRing g k) d)
          (moveDirs (ringEntry u n) 0) = (w, some l) → w.hp.heldAccess = [] →
        (∃ f, w.cmd? c.id = some f ∧ f.status = none ∧ f.run = .ring (enterStep (sweepEntry u g k) g (sweepRing g k) 0).2) →
        (∃ d r, t.cmd? c.id = some d ∧ d.status = none ∧ d.run = .ring r ∧ r.ring = n ∧ r.step = 0 ∧ r.bwd = false ∧ r.sent = true ∧
          r.dirs = moveDirs (ringEntry u n) 0) ∧ t.mem = w.mem ∧
        t.hp = (((moveDirs (ringEntry u n) 0).zip l).foldl (fun v x => (parcels x.2.length).foldl (fun v y =>
          sendMsg v ((mkMsg v 0x10 1 (ringDest (ringEntry u n) x.1) (tagOf c.id) n y.1 0 0 ((x.2.drop y.1).take y.2)).by c)) v) w).hp)) ∧
  (∀ (s u : State) (q : Nat) (c e : Cmd) (x : SweepRec) (k : Compute), Starts s q 0x72 c →
    s.hp.records.find? (fun y => y.ring == c.word 2 % 2 ^ 8) = some x → tw x.words 15 % 2 ^ 8 = x.ring →
    let n := c.word 2 % 2 ^ 8
    let g : Cmd := { begun s c with words := replayWords c x }
    let st := tget {} s.hp.ringSteps n
    let done := if st.valid = true then some st.step else none
    let resume := c.word 3 % 2 ^ 16
    ringCheck (begin_ s c) g false = none →
    (∀ fin : State → Cmd → Compute → State,
      planWith (fun s _ => (s, some x.args)) (replayCheck x resume done) fin (begin_ s c) g = fin u g k) →
    u.cmd? c.id = some e → e.status = none → e.stop = none → sweepFor u n = none →
    ∃ t, exec (.replay q) s = .next t ∧ t.hp.ringSteps = u.hp.ringSteps ∧
      (resume = 0 → ringMembers (ringEntry u n) = 1 → u.hp.heldAccess = [] →
        ∃ d r, t.cmd? c.id = some d ∧ d.status = none ∧ d.words = replayWords c x ∧ d.replays = true ∧ d.run = .ring r ∧ r.ring = n ∧
          r.step = 0 ∧ r.waiting = false ∧ r.skipTo = (if ringBwd g = true then none else done) ∧ t.mem = u.mem) ∧
      (∀ w l, resume = 0 → 1 < ringMembers (ringEntry u n) → ringBwd g = false →
        collect (enterStep (replayEntry u g k) g (replayRing 0 done g k) 0).1 (fun v d => shardToSend v g (freshWork k 0) (replayRing 0 done g k) d)
          (moveDirs (ringEntry u n) 0) = (w, some l) → w.hp.heldAccess = [] →
        (∃ f, w.cmd? c.id = some f ∧ f.status = none ∧ f.run = .ring (enterStep (replayEntry u g k) g (replayRing 0 done g k) 0).2) →
        (∃ d r, t.cmd? c.id = some d ∧ d.status = none ∧ d.run = .ring r ∧ r.ring = n ∧ r.step = 0 ∧ r.sent = true ∧ r.skipTo = done) ∧
        t.hp = (((moveDirs (ringEntry u n) 0).zip l).foldl (fun v x => (parcels x.2.length).foldl (fun v y =>
          sendMsg v ((mkMsg v 0x10 1 (ringDest (ringEntry u n) x.1) (tagOf c.id) n y.1 0 0 ((x.2.drop y.1).take y.2)).by c)) v) w).hp) ∧
      (0 < resume → u.hp.heldAccess = [] →
        (∃ d r, t.cmd? c.id = some d ∧ d.status = none ∧ d.words = replayWords c x ∧ d.replays = true ∧ d.run = .ring r ∧ r.ring = n ∧
          r.step = resume ∧ r.waiting = true ∧ r.peerCw = none ∧ r.peerAcw = none) ∧ t.mem = u.mem ∧
        t.hp = ((distinct [ringSucc (ringEntry u n), ringPred (ringEntry u n)]).foldl (fun v y =>
          sendMsg v ((mkMsg v 0x11 0 y (tagOf c.id) n 0 (done.getD 0) 0 []).by c)) u).hp))

/-- RING_STEP_COMMIT (R444, R466, R536): a step whose work, shards and answers are complete commits, and HP_RING_STEP holds its number; a
step that a replay does not compute leaves the number of the last committed step (log 85, the model's reading).
SHARD_DATA, SHARD_DONE and SHARD_HOME (R443, R448): in a step whose own shards have been sent, a part of the shard that the member
expects is written to its buffer, and the last part is answered with SHARD_DONE; an answer is noted; partials that have come home are
kept; a message of a ring with no sweep is kept, but for an answer that a sweep cut short still had to come, which is dropped (log 85).
A part that comes again is written again and counts once. The model's readings: SHARD_DATA names the sender's step, SHARD_HOME's
direction follows its source and its offset is that in the shard (log 84); the shard buffers' places (log 77). -/
def Obligations.RingStepsAndShards : Prop :=
  (∀ (n : Nat) (s : State) (c : Cmd) (r : Ring), s.running = true → sweepFor (ringMove s n) n = some (c, r) → r.ring = n → c.stop = none →
    (stepComplete (ringMove s n) c r = true →
      ∃ t, exec (.ringStepCommit n) s = .next t ∧
        tget {} t.hp.ringSteps n = (if r.skips r.step = true then tget {} (ringMove s n).hp.ringSteps n else { valid := true, step := r.step }) ∧
        (∀ k, k ≠ n → tget {} t.hp.ringSteps k = tget {} (ringMove s n).hp.ringSteps k)) ∧
    (stepComplete (ringMove s n) c r = false → exec (.ringStepCommit n) s = .next (ringMove s n))) ∧
  ((∀ (m : Msg) (s : State) (c : Cmd) (r : Ring) (d : Nat), Arrives s m → sweepFor s m.object.toNat = some (c, r) → s.cmd? c.id = some c → c.stop = none →
    r.waiting = false → r.finishing = false → r.sent = true → m.step.toNat = r.step → errorFree s = true →
    fromDir (ringEntry s r.ring) m.src.toNat = some d → r.expects (ringEntry s r.ring) d = true →
    m.offset.toNat + m.data.length ≤ shardBytes c r.work r.bwd →
    let a := shardBuffer (ringEntry s r.ring) c r.work r.bwd d (r.step + 1) + m.offset.toNat
    ∃ t x k, exec (.shardData m) s = .next t ∧ (∀ i, i < m.data.length → t.mem.read (a + i) = m.data.getD i 0#8) ∧
      (∀ b, b < a ∨ a + m.data.length ≤ b → t.mem.read b = s.mem.read b) ∧
      t.cmd? c.id = some x ∧ x.status = none ∧ x.run = .ring k ∧ k.step = r.step ∧
      k.got d = (if m.offset.toNat ∈ r.parts d then r.got d else r.got d + m.data.length) ∧ m.offset.toNat ∈ k.parts d ∧
      t.hp = (if m.offset.toNat ∈ r.parts d ∨ r.got d + m.data.length < shardBytes c r.work r.bwd then credited s 0x10 m
        else sendMsg (credited s 0x10 m) ((mkMsg s 0x11 0 (ringFrom (ringEntry s r.ring) d) (tagOf c.id) r.ring 0 r.step 0 []).by c)).hp) ∧
  (∀ (m : Msg) (s : State) (c : Cmd) (r : Ring), Arrives s m → sweepFor s m.object.toNat = some (c, r) → s.cmd? c.id = some c → c.stop = none →
    r.waiting = false → r.finishing = false → r.sent = true → m.step.toNat = r.step →
    m.src.toNat = ringSucc (ringEntry s r.ring) → r.ackCw = false →
    ∃ t x, exec (.shardDone m) s = .next t ∧ t.cmd? c.id = some x ∧ x.status = none ∧ x.run = .ring { r with ackCw := true } ∧
      t.hp = (credited s 0x11 m).hp ∧ t.mem = s.mem) ∧
  (∀ (m : Msg) (s : State) (c : Cmd) (r : Ring), Arrives s m → sweepFor s m.object.toNat = some (c, r) → s.cmd? c.id = some c → c.stop = none →
    r.waiting = false → r.finishing = false → r.sent = true →
    m.src.toNat = homeSource s (ringEntry s r.ring) r.ring 0 →
    ∃ t x k, exec (.shardHome m) s = .next t ∧ t.cmd? c.id = some x ∧ x.status = none ∧ x.run = .ring k ∧
      (0, m.offset.toNat - partialsAt c r.work, m.data) ∈ k.homes ∧ k.step = r.step ∧ t.hp = (credited s 0x12 m).hp ∧ t.mem = s.mem) ∧
  (∀ (m : Msg) (s : State) (p : Instr × Nat × Nat), p ∈ [(Instr.shardData m, 0x10, 1), (.shardDone m, 0x11, 0), (.shardHome m, 0x12, 1)] →
    Arrives s m → sweepFor s m.object.toNat = none → (p.2.1 = 0x11 → (m.object.toNat, m.src.toNat, m.step.toNat) ∉ s.hp.owed) →
    let u := credited s p.2.1 m
    exec p.1 s = .next { u with hp := { u.hp with heldAccess := s.hp.heldAccess ++ [{ type := p.2.1, cls := p.2.2, m := m }] } }) ∧
  (∀ (m : Msg) (s : State), Arrives s m → sweepFor s m.object.toNat = none → (m.object.toNat, m.src.toNat, m.step.toNat) ∈ s.hp.owed →
    let u := credited s 0x11 m
    exec (.shardDone m) s = .next { u with hp := { u.hp with owed := s.hp.owed.erase (m.object.toNat, m.src.toNat, m.step.toNat) } }))

/-- RING_STEP_WATCHDOG, LEAVE and HELLO (R429, R451, R452, R522): a sweep that has waited for its neighbour past the watchdog ends with
RING_WATCHDOG and the step; the neighbour becomes a suspect and LEAVE is logged; a LEAVE ends the command that it concerns with
PARTNER_LOST and the lost engine, or is only logged, and which command that is, and whether a LEAVE that meets none was a group's, is
the model's reading (log 41); a HELLO refreshes the port's peer, unless a detour in force discards it (R531), and its flits are owed as
credits (R427; log 100). The count at an error is what was complete (log 65). -/
def Obligations.WatchdogLeaveAndHello : Prop :=
  (∀ (n x : Nat) (l : List Nat) (s : State) (c : Cmd) (r : Ring), sweepFor s n = some (c, r) → s.cmd? c.id = some c →
    waitedOn s c r = x :: l → hoopOn s = true → (r.finishing = true ∨ r.workDone = true) →
    max r.since c.tLast + watchdog s ≤ s.cp.time → c.undo = [] → c.opcode ∈ [0x50, 0x72] →
    ∃ t d h, exec (.ringStepWatchdog n) s = .next t ∧ t.cmd? c.id = some d ∧ d.status = some ⟨0x42, r.step % 2 ^ 16, r.work.tiles, h⟩ ∧
      t.bd.suspectValid = true ∧ t.bd.suspectSource = 1 ∧ t.bd.suspectEngine = x ∧ t.bd.irq.testBit 4 = true ∧
      (2 ≤ ringMembers (ringEntry s r.ring) → tw (ringEntry s r.ring) 0 % 2 = 1 →
        t.hp.leave = 2 ^ 31 + r.ring % 256 * 2 ^ 16 + x % 65536) ∧ t.mem = s.mem) ∧
  (∀ (m : Msg) (s : State), Arrives s m → leaveTarget s m.object.toNat m.src.toNat = none →
    let u := credited s 0x30 m
    exec (.leave m) s = .next { u with hp := { u.hp with leave := 2 ^ 31 +
      (if leaveOfGroup u m.object.toNat m.src.toNat m.aux.toNat = true then 2 ^ 24 else 0) + m.object.toNat % 256 * 2 ^ 16 + m.aux.toNat } }) ∧
  (∀ (m : Msg) (s : State) (c : Cmd) (g : Bool) (a b : Nat), Arrives s m →
    leaveTarget s m.object.toNat m.src.toNat = some (c.id, g, a, b) → s.cmd? c.id = some c → c.status = none → c.undo = [] →
    ∃ t d n h, exec (.leave m) s = .next t ∧ t.cmd? c.id = some d ∧ d.status = some ⟨0x40, m.aux.toNat, n, h⟩ ∧
      t.hp.leave = 2 ^ 31 + (if g = true then 2 ^ 24 else 0) + m.object.toNat % 256 * 2 ^ 16 + m.aux.toNat ∧
      ((∀ y, c.run ≠ .adopt y) → t.mem = s.mem)) ∧
  (∀ (m : Msg) (s : State), arrives s m = true → discarded s m = true → exec (.hello m) s = .next (credited s 0x31 m)) ∧
  (∀ (m : Msg) (s : State), arrives s m = true → discarded s m = false →
    ∃ t, exec (.hello m) s = .next t ∧ t.port m.port = { s.port m.port with
        peer := m.src.toNat, heard := some m.src.toNat, lastHello := s.cp.time,
        arrived := (s.port m.port).arrived.set 0 ((s.port m.port).arrived.getD 0 0 + (1 + (m.data.length + 63) / 64)) } ∧
      (∀ k, k ≠ m.port → t.port k = s.port k) ∧ t.bd.silent.testBit m.port = false ∧ t.cp = s.cp ∧ t.mem = s.mem)

/-- ALLREDUCE and ALLREDUCE_V (R453, R454, R458, R460): in a group of one member the command is decided OK at once with the elements as
count; in a larger one it is held until an eighth of the reduction buffer is free, and then ALLREDUCE grants its predecessor slots for
its chunk, up to 8, and ALLREDUCE_V announces its counts to its successor. Counts of 2^32 elements or more are refused (0x0409). The
model's readings: what the step field carries and that a SLOT_GRANT frees one slot (log 40), and how COUNTS go round (log 42).
CHUNK_DATA, CHUNK_SIGNAL, SLOT_GRANT and COUNTS (R354, R456, R458, R461): received elements are added to the local buffer in the order
received + own; a signal or a grant is noted and the stage goes on, and the signal that ends the last stage decides the command OK with
its elements; the counts of another member are compared: once all have been heard, a difference ends the command with 0x0408, and
otherwise the first stage begins. A message that comes before its command is kept, one of a command that has ended here is dropped. The
model's readings: the command of a message, the step field, and a signal's bytes in the offset field (log 40), COUNTS (log 42), what is
kept (log 134 and 100). -/
def Obligations.CollectivesRun : Prop :=
  ((∀ (s : State) (q : Nat) (c : Cmd), Starts s q 0x51 c → groupCheck s (groupEntry s (c.word 5 % 2 ^ 8)) = none →
    ((groupMembers s (groupEntry s (c.word 5 % 2 ^ 8))).length ≤ 1 →
      ∃ t, exec (.allreduce q) s = .next t ∧ Decided s t c 0 0 (c.word 4) ∧ OnlyPlait s t ∧ t.cp.queues = s.cp.queues) ∧
    (1 < (groupMembers s (groupEntry s (c.word 5 % 2 ^ 8))).length → freeSlot s = none →
      ∃ t d, exec (.allreduce q) s = .next t ∧ t.cmd? c.id = some d ∧ d.words = c.words ∧ d.started = true ∧ d.status = none ∧
        d.run = .held ∧ OnlyPlait s t) ∧
    (∀ slot axis rest, 1 < (groupMembers s (groupEntry s (c.word 5 % 2 ^ 8))).length → freeSlot s = some slot → s.hp.heldAccess = [] →
      maskAxes (groupEntry s (c.word 5 % 2 ^ 8)) = axis :: rest →
      let g : Collective := {
        group := c.word 5 % 2 ^ 8, addr := c.addr 2, total := c.word 4, comp := c.word 5 / 2 ^ 8 % 2 ^ 4,
        ranges := [(0, c.word 4)], slot := slot,
        stages := (axis :: rest).map (fun a => (false, a)) ++ (axis :: rest).reverse.map (fun a => (true, a)) }
      let p := stageSize s g axis
      let r := stagePos s g axis
      1 < p → 0 < (chunkRange g axis p (sendChunk false p r 1)).2 → 0 < (chunkRange g axis p (recvChunk false p r 1)).2 →
      ∃ t d, exec (.allreduce q) s = .next t ∧ t.cmd? c.id = some d ∧ d.status = none ∧
        d.run = .collective { g with entered := true } ∧
        t.hp = (grantSlots s c g (stageId s g axis ((r + p - 1) % p))
          (min (((chunkRange g axis p (recvChunk false p r 1)).2 * wireBytes g.comp + 1048575) / 1048576) 8)).hp ∧ t.mem = s.mem)) ∧
  (∀ (s u : State) (q : Nat) (c e : Cmd) (bs : List Byte), Starts s q 0x52 c →
    groupCheck s (groupEntry s (c.word 6 % 2 ^ 8)) = none →
    plaitRead (begin_ s c) (begun s c) 4 (c.addr 4) (4 * (groupMembers s (groupEntry s (c.word 6 % 2 ^ 8))).length) = (u, some bs) →
    u.cmd? c.id = some e → e.status = none → e.undo = [] → e.run = .none → e.words = c.words →
    (2 ^ 32 ≤ sumNat ((wordsOf bs).map (·.toNat)) →
      ∃ t d h, exec (.allreduceV q) s = .next t ∧ t.cmd? c.id = some d ∧ d.status = some ⟨0x10, 0x0409, sumNat ((wordsOf bs).map (·.toNat)), h⟩) ∧
    (sumNat ((wordsOf bs).map (·.toNat)) < 2 ^ 32 → (groupMembers s (groupEntry s (c.word 6 % 2 ^ 8))).length ≤ 1 →
      ∃ t d h, exec (.allreduceV q) s = .next t ∧ t.cmd? c.id = some d ∧
        d.status = some ⟨0, 0, sumNat ((wordsOf bs).map (·.toNat)), h⟩ ∧ t.mem = u.mem ∧ t.hp = u.hp) ∧
    (sumNat ((wordsOf bs).map (·.toNat)) < 2 ^ 32 → 1 < (groupMembers s (groupEntry s (c.word 6 % 2 ^ 8))).length → freeSlot u = none →
      ∃ t d, exec (.allreduceV q) s = .next t ∧ t.cmd? c.id = some d ∧ d.status = none ∧ d.run = .held ∧ t.mem = u.mem ∧ t.hp = u.hp) ∧
    (∀ slot, sumNat ((wordsOf bs).map (·.toNat)) < 2 ^ 32 → 1 < (groupMembers s (groupEntry s (c.word 6 % 2 ^ 8))).length →
      freeSlot u = some slot → u.hp.heldAccess = [] →
      let ms := groupMembers s (groupEntry s (c.word 6 % 2 ^ 8))
      let counts := (wordsOf bs).map (·.toNat)
      ∃ t d, exec (.allreduceV q) s = .next t ∧ t.cmd? c.id = some d ∧ d.status = none ∧
        d.run = .collective {
          group := c.word 6 % 2 ^ 8, addr := c.addr 2, total := sumNat counts, comp := c.word 6 / 2 ^ 8 % 2 ^ 4,
          counts := counts, stages := [(false, 3), (true, 3)], agreeing := true, slot := slot } ∧ t.mem = u.mem ∧
        t.hp = (sendMsg u ((mkMsg u 0x22 0 (ms.getD ((ms.findIdx (· == ownId s) + 1) % ms.length) 0) (tagOf c.id) (c.word 6 % 2 ^ 8)
          (crc32c ((counts.map (fun n => Memory.leBytes 4 n)).flatten)).toNat 0 (sumNat counts % 2 ^ 16) []).by c)).hp))) ∧
  ((∀ (m : Msg) (s : State) (c : Cmd) (g : Collective) (axis : Nat) (rest : List (Bool × Nat)) (e : TlbEntry),
    Arrives s m → (m.object.toNat, m.src.toNat, m.tag.toNat) ∉ s.hp.past → collectiveFor s 0x20 m = some (c, g) → s.cmd? c.id = some c →
    g.stages = (false, axis) :: rest → g.agreeing = false → g.entered = true → m.step.toNat = stepKey g → g.comp = 0 → errorFree s = true → handleUp s = true →
    let p := stageSize s g axis
    let r := stagePos s g axis
    let x := chunkRange g axis p (recvChunk false p r g.step)
    let va := g.addr + 4 * (x.1 + m.offset.toNat / 4)
    let k := m.data.length / 4
    1 < p → g.step < p → m.offset.toNat % 4 = 0 → 0 < k → m.offset.toNat / 4 + k ≤ x.2 →
    g.got + 4 * k < chunkSlotBytes → m.offset.toNat + m.data.length ≤ chunkSlotBytes → va % 4096 + 4 * k ≤ 4096 →
    (∀ w, tlbLookup s.sp 65 (s.queue c.queue).cfg.xlCtx (va / 4096) w = some e) →
    g.sent = (chunkRange g axis p (sendChunk false p r g.step)).2 → g.signalled = true → g.signals = [] →
    let pa := e.ppn * 4096 + va % 4096
    (pa + 4 * k ≤ reduceLo ∨ reduceHi ≤ pa) →
    ∃ t d, exec (.chunkData m {}) s = .next t ∧ t.cmd? c.id = some d ∧ d.status = none ∧ d.run = .collective { g with got := g.got + 4 * k } ∧
      (∀ i, i < k → wd (t.mem.readNat (pa + 4 * i) 4) =
        (arrayAdd (wd (Memory.ofBytes ((m.data.drop (4 * i)).take 4))) (wd (s.mem.readNat (pa + 4 * i) 4))).1) ∧
      (∀ a, (a < pa ∨ pa + 4 * k ≤ a) → (a < reduceLo ∨ reduceHi ≤ a) → t.mem.read a = s.mem.read a) ∧
      t.hp = (credited s 0x20 m).hp) ∧
  (∀ (m : Msg) (s : State) (c : Cmd) (g : Collective) (gather : Bool) (axis : Nat) (rest : List (Bool × Nat)),
    Arrives s m → (m.object.toNat, m.src.toNat, m.tag.toNat) ∉ s.hp.past → s.cmd? c.id = some c → g.stages = (gather, axis) :: rest →
    g.agreeing = false →
    (∀ h : Collective, collectiveFor s 0x21 m = some (c, g) → h = { g with signals := g.signals ++ [(m.step.toNat, m.offset.toNat)] } →
      let v := setRun (credited s 0x21 m) c.id (.collective g)
      stepMove v c h gather axis = (v, none) →
      ∃ t d, exec (.chunkSignal m) s = .next t ∧ t.cmd? c.id = some d ∧ d.status = none ∧ d.run = .collective h ∧ t.mem = s.mem ∧
        t.hp = (credited s 0x21 m).hp) ∧
    (collectiveFor s 0x21 m = some (c, g) → rest = [] → gather = true → g.entered = true → g.widened = true → g.signalled = true →
      g.signals = [] → m.step.toNat = stepKey g → m.offset.toNat ≤ g.got → 1 < stageSize s g axis → g.step + 1 = stageSize s g axis →
      (chunkRange g axis (stageSize s g axis) (sendChunk true (stageSize s g axis) (stagePos s g axis) g.step)).2 ≤ g.sent →
      sentDone (credited s 0x21 m) c.id = true →
      ∃ t d h, exec (.chunkSignal m) s = .next t ∧ t.cmd? c.id = some d ∧ d.status = some ⟨0, 0, g.total, h⟩ ∧ t.mem = s.mem ∧
        t.hp = (credited s 0x21 m).hp) ∧
    (∀ h : Collective, collectiveFor s 0x23 m = some (c, g) → h = { g with grants := tmod 0 g.grants m.step.toNat (· + 1) } →
      let v := setRun (credited s 0x23 m) c.id (.collective g)
      stepMove v c h gather axis = (v, none) →
      ∃ t d, exec (.slotGrant m) s = .next t ∧ t.cmd? c.id = some d ∧ d.status = none ∧ d.run = .collective h ∧ t.mem = s.mem ∧
        t.hp = (credited s 0x23 m).hp)) ∧
  (∀ (m : Msg) (s : State) (c : Cmd) (g : Collective), Arrives s m → (m.object.toNat, m.src.toNat, m.tag.toNat) ∉ s.hp.past →
    collectiveFor s 0x22 m = some (c, g) → s.cmd? c.id = some c → g.agreeing = true →
    let ms := g.members s
    let succ := ms.getD ((ms.findIdx (· == ownId s) + 1) % ms.length) 0
    let differ := g.differ || decide ((m.offset.toNat, m.aux.toNat) ≠ countsValue g)
    m.src.toNat = succ →
    (g.heard + 1 < ms.length - 1 →
      ∃ t d, exec (.counts m) s = .next t ∧ t.cmd? c.id = some d ∧ d.status = none ∧
        d.run = .collective { g with heard := g.heard + 1, differ := differ } ∧ t.hp = (credited s 0x22 m).hp ∧ t.mem = s.mem) ∧
    (ms.length - 1 ≤ g.heard + 1 → differ = true →
      ∃ t d h, exec (.counts m) s = .next t ∧ t.cmd? c.id = some d ∧ d.status = some ⟨0x10, 0x0408, g.total, h⟩) ∧
    (∀ rest, ms.length - 1 ≤ g.heard + 1 → differ = false → g.stages = (false, 3) :: rest → g.entered = false → g.step = 1 → g.sent = 0 →
      g.grants = [] → 1 < ms.length →
      let p := ms.length
      let r := ms.findIdx (· == ownId s)
      let go := { g with heard := g.heard + 1, differ := false, agreeing := false }
      0 < (chunkRange go 3 p (sendChunk false p r 1)).2 →
      ∃ t d, exec (.counts m) s = .next t ∧ t.cmd? c.id = some d ∧ d.status = none ∧ d.run = .collective { go with entered := true } ∧
        t.hp = (grantSlots (credited s 0x22 m) c go (ms.getD ((r + p - 1) % p) 0)
          (min (((chunkRange go 3 p (recvChunk false p r 1)).2 * wireBytes g.comp + 1048575) / 1048576) 8)).hp ∧ t.mem = s.mem)) ∧
  (∀ (m : Msg) (s : State) (p : Instr × Nat × Nat),
    p ∈ [(Instr.chunkData m {}, 0x20, 2), (.chunkSignal m, 0x21, 0), (.counts m, 0x22, 0), (.slotGrant m, 0x23, 0)] → Arrives s m →
    let u := credited s p.2.1 m
    ((m.object.toNat, m.src.toNat, m.tag.toNat) ∉ s.hp.past → collectiveFor s p.2.1 m = none →
      exec p.1 s = .next { u with hp := { u.hp with heldAccess := s.hp.heldAccess ++ [{ type := p.2.1, cls := p.2.2, m := m }] } }) ∧
    ((m.object.toNat, m.src.toNat, m.tag.toNat) ∈ s.hp.past → exec p.1 s = .next u)))

/-- TALLY_SNAP and SCALE_UPDATE (R472, R473, R476): the records of consecutive slots are written at consecutive addresses, with the clear
after the copy where the packet asks for it; a scale update stores scale and hold of each named slot and empties its history, refusing a
scale that is not positive, finite and normal (0x0601) and a slot named twice (0x0602) with no effect; that 0x0601 comes first is the
model's choice (log 155). Where a write meets stored errors is log 136's.
The counters (R478, R480 to R484, R488): an event is added by every counter set to it that is not chained and not frozen, modulo 2^32,
with the wrap in TL_CNT_OVF and, where asked, the interrupt; a write stores its value and the events of that CCLK are added; a read of
an even counter whose partner chains copies the partner; clear zeroes the counters; a seed of 0 is stored as 1. The model's readings: a
row that makes an event sets it on its way, and TALLY_EVENT_ARRIVAL counts those of its code and unit that are, with `n` that no row
makes (log 149); a flag is set as its cause arises and counted as it arrives (log 141, 105). -/
def Obligations.TallyRecordsAndCounts : Prop :=
  ((∀ (s u w : State) (q : Nat) (c e : Cmd) (ps : List (Nat × Nat)) (x : Xlate), Starts s q 0x62 c →
    let ns := (List.range (c.word 4 / 2 ^ 16 % 2 ^ 8)).map (· + c.word 4 % 2 ^ 8)
    translateRange (begin_ s c) (s.queue c.queue).cfg.xlCtx (plaitAccess (begun s c) 2 (c.addr 2) true) (c.addr 2) (320 * ns.length) =
      (u, some ps, x) →
    writeMeets u ps (wordBytes ((ns.map (fun n => slotRecord n (u.slot n))).flatten)) = (w, none) →
    u.cmd? c.id = some e → e.status = none →
    ∃ t d h, exec (.tallySnap q) s = .next t ∧ t.cmd? c.id = some d ∧ d.status = some ⟨0, 0, 0, h⟩ ∧ t.mem = w.mem ∧
      (∀ n, t.slot n = if c.word 5 % 2 = 1 ∧ n ∈ ns
        then { u.slot n with bins := [], zero := 0, nonfinite := 0, total := 0, maximum := 0#32, flags := {}, varClamp := 0 }
        else u.slot n)) ∧
  (∀ (s : State) (q : Nat) (c : Cmd), Starts s q 0x63 c → scaleCheck (scalePairs c) = none →
    ∃ t, exec (.scaleUpdate q) s = .next t ∧ Decided s t c 0 0 0 ∧ t.cp.queues = s.cp.queues ∧ t.mem = s.mem ∧
      (∀ n, (∀ p ∈ scalePairs c, p.1 ≠ n) → t.slot n = s.slot n) ∧
      (∀ p ∈ scalePairs c, t.slot p.1 = { s.slot p.1 with scale := p.2.2, hold := p.2.1, history := [] })) ∧
  (∀ (s : State) (q d : Nat) (c : Cmd), Starts s q 0x63 c → scaleCheck (scalePairs c) = some d →
    ∃ t e h, exec (.scaleUpdate q) s = .next t ∧ t.cmd? c.id = some e ∧ e.status = some ⟨0x10, d, 0, h⟩ ∧ ∀ n, t.slot n = s.slot n) ∧
  (∀ c : Cmd, (∃ p ∈ scalePairs c, p.2.2.toNat / 2 ^ 31 % 2 = 1 ∨ p.2.2.toNat / 2 ^ 23 % 2 ^ 8 = 0 ∨ p.2.2.toNat / 2 ^ 23 % 2 ^ 8 = 255) →
    scaleCheck (scalePairs c) = some 0x0601)) ∧
  ((∀ (code unit n i : Nat) (s : State), s.bd.divRun = true → s.tl.freeze = false → code ≠ 0x50 → unit < 512 → i < 16 →
    let k := tget 0 s.tl.events (512 * code + unit) + n
    0 < k → (∀ j, j < 16 → chained s.tl j = false) →
    ∃ t, exec (.tallyEventArrival code unit n) s = .next t ∧
      tget 0 t.tl.cnt i = (if (tget {} s.tl.cfg i).counts code unit = true then (tget 0 s.tl.cnt i + k) % 2 ^ 32 else tget 0 s.tl.cnt i) ∧
      (t.tl.ovf.testBit i = (s.tl.ovf.testBit i || ((tget {} s.tl.cfg i).counts code unit && decide (2 ^ 32 ≤ tget 0 s.tl.cnt i + k)))) ∧
      (∀ j, tget 0 t.tl.events j = if j = 512 * code + unit then 0 else tget 0 s.tl.events j) ∧
      t.tl.flags = s.tl.flags ∧ t.mem = s.mem ∧ t.cp = s.cp) ∧
  (∀ (code unit n : Nat) (s : State), s.bd.divRun = true → s.tl.freeze = true → code ≠ 0x50 →
    ∃ t, exec (.tallyEventArrival code unit n) s = .next t ∧ t = { s with tl := { s.tl with events := t.tl.events } } ∧
      ∀ j, tget 0 t.tl.events j = if j = 512 * code + unit ∧ unit < 512 then 0 else tget 0 s.tl.events j) ∧
  (∀ (unit n : Nat) (s : State), s.bd.divRun = true →
    ∃ t, exec (.tallyEventArrival 0x50 unit n) s = .next t ∧
      t.tl.flags = s.tl.flags.or (.ofNat n) ∧
      t.tl.flagCount = min 0xFFFFFFFF (s.tl.flagCount + (s.tl.onWay.or (.ofNat n)).count) ∧ t.tl.onWay = {}) ∧
  (∀ (n : Nat) (v : Word) (k : Nat) (s : State), s.windowOpen 9 = true → n < 16 → (∀ j, j < 16 → chained s.tl j = false) →
    ∃ t, exec (.tlCntWrite n v k) s = .next t ∧
      tget 0 t.tl.cnt n = (if s.tl.freeze = true then v.toNat else (v.toNat + k) % 2 ^ 32) ∧
      (∀ j, j ≠ n → tget 0 t.tl.cnt j = tget 0 s.tl.cnt j)) ∧
  (∀ (n : Nat) (s : State), s.windowOpen 9 = true → n < 16 →
    exec (.tlCntRead n) s = .next { s with
      bus := ⟨.ok, wd (tget 0 s.tl.cnt n)⟩,
      tl := if n % 2 = 0 ∧ (tget {} s.tl.cfg (n + 1)).chain = true then { s.tl with cntHi := tget 0 s.tl.cnt (n + 1) } else s.tl }) ∧
  (∀ (v : Word) (s : State), s.windowOpen 9 = true → v.getLsbD 1 = true →
    ∃ t, exec (.clearCounters v) s = .next t ∧ (∀ i, tget 0 t.tl.cnt i = 0) ∧ t.tl.ovf = 0 ∧ t.tl.freeze = v.getLsbD 0 ∧
      t.tl.tagRate = v.toNat / 2 ^ 8 % 2 ^ 4 ∧ t.tl.tagEnable = v.getLsbD 3 ∧ t.tl.userPage = v.getLsbD 2 ∧ t.tl.slots = s.tl.slots) ∧
  (∀ (v : Word) (s : State), s.windowOpen 9 = true → v.getLsbD 0 = true → v.getLsbD 1 = false →
    exec (.freeze v) s = .next { s with tl := { s.tl with
      freeze := true, tagRate := v.toNat / 2 ^ 8 % 2 ^ 4, tagEnable := v.getLsbD 3, userPage := v.getLsbD 2 } }) ∧
  (∀ (v : Word) (s : State), s.windowOpen 9 = true →
    exec (.tlTagSeedWrite v) s = .next { s with tl := { s.tl with lfsr := if v = 0#32 then 1 else v.toNat } }))

/-- The registers that a read clears (R13, R15, R278, R316, R383, R385, R417, R418, R465, R478, R489, R558): the read answers the register's
word and leaves each count at what arrives in the same MCLK, up to its limit; the other fields and all other state stay. The retries
that adapters have made since HD_ERR was last read come with its read (log 143). -/
def Obligations.ReadsThatClear : Prop :=
  (∀ (n : Nat) (s : State), s.windowOpen 9 = true →
    exec (.tlFlagCountRead n) s = .next { s with bus := ⟨.ok, wd s.tl.flagCount⟩, tl := { s.tl with flagCount := min 0xFFFFFFFF n } } ∧
    exec (.tlStatusRead n) s = .next { s with
      bus := ⟨.ok, wd (s.tl.tagSkipped * 2 ^ 24 + s.tl.traceHead * 2 ^ 8 + (s.cp.table.filter (·.tagged)).length)⟩,
      tl := { s.tl with tagSkipped := min 0xFF n } }) ∧
  (∀ (n : Nat) (s : State), s.windowOpen 0 = true →
    exec (.cpRedoRead n) s = .next { s with bus := ⟨.ok, wd s.cp.redo⟩, cp := { s.cp with redo := min 0xFFFF n } }) ∧
  (∀ (a n : Nat) (s : State), s.windowOpen 2 = true → a < 32 →
    exec (.rbEccRead a n) s = .next ({ s with
      bus := ⟨.ok, wd ((if (s.ribOf a).uncorr = true then 2 ^ 31 else 0) + (s.ribOf a).corr)⟩ }.setRib a
        { s.ribOf a with corr := min 0xFFFF n })) ∧
  (∀ (n : Nat) (s : State), s.windowOpen 3 = true →
    exec (.stEccRead n) s = .next { s with
      bus := ⟨.ok, wd ((if s.st.uncorr = true then 2 ^ 31 else 0) + (if s.st.scrubUncorr = true then 2 ^ 30 else 0) + s.st.corr)⟩,
      st := { s.st with corr := min 0xFFFF n } }) ∧
  (∀ (n a b : Nat) (s : State), s.windowOpen 5 = true → n < 32 →
    exec (.bsEccRead n a b) s = .next ({ s with
      bus := ⟨.ok, wd ((if (s.base n).uncorr = true then 2 ^ 31 else 0) + (s.base n).retries * 2 ^ 16 + (s.base n).corr)⟩ }.setBase n
        { s.base n with retries := min 0xFF a, corr := min 0xFFFF b })) ∧
  (∀ (p a b c : Nat) (s : State), s.windowOpen 8 = true → p < 16 →
    exec (.hpPortErrRead p a b c) s = .next ({ s with
      bus := ⟨.ok, wd ((s.port p).retries * 2 ^ 24 + (s.port p).uncorrectable * 2 ^ 16 + (s.port p).corrected)⟩ }.setPort p
        { s.port p with retries := min 0xFF a, uncorrectable := min 0xFF b, corrected := min 0xFFFF c })) ∧
  (∀ (n a b : Nat) (s : State), s.windowOpen 7 = true →
    exec (.spWinRefusedRead n) s = .next { s with bus := ⟨.ok, wd s.sp.winRefused⟩, sp := { s.sp with winRefused := min 0xFFFFFFFF n } } ∧
    exec (.spMissStatusRead a b) s = .next { s with
      bus := ⟨.ok, wd (s.sp.late * 2 ^ 24 + s.sp.unknown * 2 ^ 16 + (s.sp.misses.filter (·.sent)).length)⟩,
      sp := { s.sp with late := min 0xFF a, unknown := min 0xFF b } }) ∧
  (∀ (k n : Nat) (s : State), s.windowOpen 11 = true →
    exec (.hdErrRead k n) s = .next { s with
      bus := ⟨.ok, wd ((if s.hd.downSeen = true then 2 ^ 31 else 0) + min 0xFFFF (s.hd.retries + k))⟩, hd := { s.hd with retries := min 0xFFFF n } })

/-- CFG_WRITE_SHADOW, CFG_SWAP, BD_CFG_DATA_WRITE (R505 to R507): writes reach the shadow set alone, an unknown field ends the command with
0x0501, a write of the active set is refused; the swap makes the shadow, each field at a legal value, active, and the former active set
the shadow, is decided OK_CLAMPED with the number of fields replaced, and raises swap_count. -/
def Obligations.ConfigurationSwaps : Prop :=
  (∀ (s : State) (q : Nat) (c : Cmd), Starts s q 0x60 c → (∀ p ∈ shadowPairs c, p.1 ∈ fieldIds) →
    ∃ t, exec (.cfgWriteShadow q) s = .next t ∧ Decided s t c 0 0 0 ∧ t.active = s.active ∧
      (∀ id ∈ fieldIds, t.shadow.get id = (((shadowPairs c).reverse.find? (fun p => p.1 == id)).map (·.2)).getD (s.shadow.get id)) ∧
      t.mem = s.mem) ∧
  (∀ (s : State) (q : Nat) (c : Cmd), Starts s q 0x60 c → (∃ p ∈ shadowPairs c, p.1 ∉ fieldIds) →
    ∃ t d h, exec (.cfgWriteShadow q) s = .next t ∧ t.cmd? c.id = some d ∧ d.status = some ⟨0x10, 0x0501, 0, h⟩ ∧
      t.active = s.active ∧ t.shadow = s.shadow) ∧
  (∀ (s : State) (q : Nat) (c : Cmd), Starts s q 0x61 c →
    let bad := fieldIds.filter (fun id => legalValue id (s.shadow.get id) != s.shadow.get id)
    ∃ t d h, exec (.cfgSwap q) s = .next t ∧ t.cmd? c.id = some d ∧
      d.status = some ⟨if bad = [] then 0 else 1, if bad = [] then 0 else min bad.length 64, bad.length, h⟩ ∧
      (∀ id ∈ fieldIds, t.active.get id = legalValue id (s.shadow.get id)) ∧ t.shadow = s.active ∧
      t.bd.swapCount = (s.bd.swapCount + 1) % 65536 ∧
      t.bd.clampLog = bad.map (fun id => ⟨id, s.shadow.get id, legalValue id (s.shadow.get id)⟩) ∧
      ((legalValue 0x31 (s.shadow.get 0x31) = s.active.get 0x31 → t.tl.slots = s.tl.slots) ∧
       (legalValue 0x31 (s.shadow.get 0x31) ≠ s.active.get 0x31 → ∀ n k, tget 0 (t.slot n).bins k = 0)) ∧ t.mem = s.mem) ∧
  (∀ (v : Word) (s : State), s.windowOpen 10 = true → s.bd.cfgSelB ≠ s.bd.activeB → s.bd.cfgSelField ∈ fieldIds →
    ∃ t, exec (.bdCfgDataWrite v) s = .next t ∧ t.active = s.active ∧ t.shadow.get s.bd.cfgSelField = v.toNat ∧
      (∀ id ∈ fieldIds, id ≠ s.bd.cfgSelField → t.shadow.get id = s.shadow.get id)) ∧
  (∀ (v : Word) (s : State), s.windowOpen 10 = true → (s.bd.cfgSelB = s.bd.activeB ∨ s.bd.cfgSelField ∉ fieldIds) →
    exec (.bdCfgDataWrite v) s = .next { s with bd := { s.bd with cfgRefused := true } })

/-- PMBUS_ENABLE and PMBUS_POLL (R512 to R514): a rail whose address is valid and that fails three polls in a row sets no_answer and the
interrupt, and again at each further poll without an answer (log 102); an answer leaves the rail's telemetry and clears the count; one
with an output fault records it, sends CLEAR_FAULTS to the rail and asks for a protective Park with it; power-good of the rail that a
Park exit is turning on turns on the next.
The caps (R33, R494 to R497): a sensor reading at or above thr_on lowers the thermal cap by one, again every 100 µs, and each full 1 ms
of cool readings raises it by one, within 1 to 16; a reading of 110 C asks for a protective Park; the keep ratio is the least of the
four caps; an estimate above 1,420 W, or an excursion that reaches its limit, cuts to the largest ratio that meets cut_target; the
cool-down's end restores 16. The model's readings: times are counted in readings of 10 µs and reports of 1 µs (log 101), and the parts
that are not clocked are the last telemetry of the rails present (log 148). -/
def Obligations.CapsAndRegulators : Prop :=
  ((∀ (v : Word) (s : State), s.windowOpen 10 = true → v.getLsbD 0 = true →
    exec (.pmbusEnable v) s = .next { s with bd := { s.bd with pmbFast := v.getLsbD 1, pmbEnable := true } }) ∧
  (∀ (l : List RailAnswer) (r : Nat) (s : State), s.bd.coldLow = false → s.bd.power ≠ .off → s.bd.pmbEnable = true → l.length = 8 → r < 8 →
    (∀ k, k < 8 → k ≠ r → (tget 0 s.bd.pmbAddr k).testBit 7 = false ∧ k ∉ s.bd.railsOff) → (tget 0 s.bd.pmbAddr r).testBit 7 = true →
    ((l.getD r {}).answers = true → (l.getD r {}).outputFault = false →
      ∃ t, exec (.pmbusPoll l) s = .next t ∧ tget 0 t.bd.pmbMissed r = 0 ∧ tget 0 t.bd.pmbWatts r = (l.getD r {}).watts ∧
        t.bd.pmbFault = s.bd.pmbFault ∧ ((l.getD r {}).powerGood = false → t.bd.railsOff = s.bd.railsOff) ∧
        (s.bd.railsOff = [r] → tget .none s.bd.railCmd r = .on → (l.getD r {}).powerGood = true → t.bd.railsOff = []) ∧
        t.bd.pmbNoAnswer = s.bd.pmbNoAnswer ∧ t.bd.irq = s.bd.irq ∧ t.bd.parkDue = s.bd.parkDue) ∧
    ((l.getD r {}).answers = true → (l.getD r {}).outputFault = true →
      ∃ t, exec (.pmbusPoll l) s = .next t ∧ t.bd.pmbFault.testBit r = true ∧ tget .none t.bd.railCmd r = .clearFaults ∧
        t.bd.parkDue = (if s.bd.power = .park then s.bd.parkDue else (s.bd.parkDue <|> some (r, 4)))) ∧
    ((l.getD r {}).answers = false →
      ∃ t, exec (.pmbusPoll l) s = .next t ∧ tget 0 t.bd.pmbMissed r = tget 0 s.bd.pmbMissed r + 1 ∧
        (2 ≤ tget 0 s.bd.pmbMissed r → t.bd.pmbNoAnswer.testBit r = true ∧ t.bd.irq.testBit 6 = true) ∧
        (tget 0 s.bd.pmbMissed r < 2 → t.bd.pmbNoAnswer = s.bd.pmbNoAnswer ∧ t.bd.irq = s.bd.irq)))) ∧
  ((∀ (l : List Nat) (s : State), monitored s = true → l ≠ [] → l.length ≤ 136 → (hottest l).1 < 256 →
    ∃ t, exec (.junctionSensorRead l) s = .next t ∧ t.bd.junction = (hottest l).1 ∧ t.bd.sensor = (hottest l).2 ∧
      t.bd.thermalCap = (if s.active.thrOn ≤ (hottest l).1 ∧ s.bd.hotNow = false then max 1 (s.bd.thermalCap - 1) else s.bd.thermalCap) ∧
      t.bd.hotNow = decide (s.active.thrOn ≤ (hottest l).1) ∧
      t.bd.parkDue = (if 110 ≤ (hottest l).1 ∧ s.bd.power ≠ .park ∧ s.bd.power ≠ .off then (s.bd.parkDue <|> some ((hottest l).2, 2)) else s.bd.parkDue) ∧
      t.bd.keep = s.bd.keep ∧ t.mem = s.mem) ∧
  (∀ s : State, monitored s = true → s.bd.hotNow = true → 10 ≤ s.bd.sinceFall →
    exec .thermalCapFall s = .next { s with bd := { s.bd with
      thermalCap := max 1 (s.bd.thermalCap - 1), sinceFall := s.bd.sinceFall - 10 } }) ∧
  (∀ s : State, monitored s = true → 101 ≤ s.bd.coolReads →
    exec .thermalCapRise s = .next { s with bd := { s.bd with
      thermalCap := min 16 (s.bd.thermalCap + 1), coolReads := s.bd.coolReads - 100 } }) ∧
  (∀ s : State, s.bd.divRun = true → s.bd.phase = 0 →
    ∃ t, exec .keepRatioApply s = .next t ∧ t = { s with bd := { s.bd with keep := t.bd.keep } } ∧ t.bd.keep ≤ s.bd.thermalCap ∧
      t.bd.keep ≤ s.bd.elecCap ∧ t.bd.keep ≤ s.active.throttleMax ∧ t.bd.keep ≤ 16 ∧
      ((∃ n, (s.base n).hot = true) → t.bd.keep ≤ 8) ∧
      (t.bd.keep = s.bd.thermalCap ∨ t.bd.keep = s.bd.elecCap ∨ t.bd.keep = s.active.throttleMax ∨ t.bd.keep = stackCap s)) ∧
  (∀ (a : Nat) (s : State), monitored s = true →
    let b := sumNat (((List.range 8).filter (fun r => (tget 0 s.bd.pmbAddr r).testBit 7)).map (fun r => tget 0 s.bd.pmbWatts r))
    a + b ≤ 1200 → s.bd.excursion = false → s.bd.cooldown = false → s.bd.excursionCut = false →
    ∃ t, exec (.energyReport a) s = .next t ∧ t.bd.nowW = a + b ∧ t.bd.clockedW = a ∧ t.bd.restW = b ∧ t.bd.elecCap = s.bd.elecCap ∧
      t.bd.excursion = false ∧ t.bd.cooldown = false ∧ t.mem = s.mem) ∧
  (∀ (a : Nat) (s : State), monitored s = true →
    let b := sumNat (((List.range 8).filter (fun r => (tget 0 s.bd.pmbAddr r).testBit 7)).map (fun r => tget 0 s.bd.pmbWatts r))
    1420 < a + b → s.bd.excursion = false →
    ∃ t, exec (.energyReport a) s = .next t ∧ t.bd.excursion = true ∧ t.bd.excursionUs = s.bd.excursionUs + 1 ∧
      (∀ k, t.bd.elecCap < k → k ≤ 16 → s.active.cutTarget * max 1 s.bd.keep < b * max 1 s.bd.keep + a * k) ∧
      1 ≤ t.bd.elecCap ∧ t.bd.elecCap ≤ 16 ∧
      (1 < t.bd.elecCap → b * max 1 s.bd.keep + a * t.bd.elecCap ≤ s.active.cutTarget * max 1 s.bd.keep)) ∧
  (∀ s : State, monitored s = true → s.bd.excursion = true → s.bd.excursionCut = false → s.active.excursionUs ≤ s.bd.excursionUs →
    ∃ t, exec .excursionLimit s = .next t ∧ t.bd.excursionCut = true ∧
      t.bd.elecCap = cutCap s.bd.clockedW s.bd.restW (max 1 s.bd.keep) s.active.cutTarget) ∧
  (∀ s : State, monitored s = true → s.bd.cooldown = true → s.bd.cooldownLeft = 0 → s.bd.excursionCut = false →
    exec .coolDownEnd s = .next { s with bd := { s.bd with cooldown := false, elecCap := 16 } }))

/-- The power rows (R30, R36, R490 to R493, R496, R502, R513): a target waits until nothing is in flight and every queue is empty; Idle is
entered and left with nothing lost; Rest and Park are entered through their transition, Park with the quench map written and its rails
turned off; a target 0 leaves Idle, Rest or Park, and Run is reached where the clocks run; a protective Park begins at once, whatever
the state, with its cause and interrupt. The model's readings: a target written on the way into Idle or Rest waits as from there (log
93), and a protective Park records cause 7 (log 102). -/
def Obligations.PowerStatesMove : Prop :=
  (∀ (p : Instr × Nat) (s : State), p ∈ [(Instr.targetRun, 0), (.targetIdle, 1), (.targetRest, 2), (.targetPark, 3)] →
    s.windowOpen 10 = true → s.bd.power = .run →
    exec p.1 s = .next { s with bd := { s.bd with target := p.2, waiting := p.2 != 0 } }) ∧
  (∀ s : State, s.windowOpen 10 = true →
    (s.bd.power = .idle ∨ s.bd.power = .rest ∨ s.bd.power = .entering 1 ∨ s.bd.power = .entering 2) →
    exec .targetRun s = .next { s with bd := { s.bd with target := 0, waiting := false, power := .returning } }) ∧
  (∀ s : State, s.windowOpen 10 = true → s.bd.power = .park →
    exec .targetRun s = .next { s with bd := { s.bd with target := 0, exitDue := true } } ∧
    exec .targetIdle s = .next s ∧ exec .targetRest s = .next s ∧ exec .targetPark s = .next s) ∧
  (∀ s : State, s.windowOpen 10 = true → (s.bd.power = .rest ∨ s.bd.power = .entering 2) →
    exec .targetPark s = .next { s with bd := { s.bd with target := 3, waiting := true } } ∧
    exec .targetIdle s = .next s ∧ exec .targetRest s = .next s) ∧
  (∀ (p : Instr × Nat) (s : State), p ∈ [(.targetIdle, 1), (.targetRest, 2), (.targetPark, 3)] →
    s.windowOpen 10 = true → (s.bd.power = .idle ∨ s.bd.power = .entering 1) →
    exec p.1 s = .next { s with bd := { s.bd with target := p.2, waiting := p.2 != 1 } }) ∧
  (∀ s : State, s.bd.waiting = true → (((s.bd.power = .run ∨ s.bd.power = .idle) ∧ s.plaitUp = true) ∨ s.bd.power = .rest) →
    s.cp.table = [] → (∀ q, (s.queue q).st = .disabled ∨ (s.queue q).head = (s.queue q).doorbell) → (∀ p ∈ s.cp.queues, p.2 = s.queue p.1) →
    exec .powerStateEntry s = .next { s with bd := { s.bd with
      power := .entering s.bd.target, waiting := false, qmap := if s.bd.target = 3 then 0#256 else s.bd.qmap } }) ∧
  (∀ s : State, s.bd.waiting = true → s.cp.table ≠ [] → exec .powerStateEntry s = .next s) ∧
  (∀ s : State, s.bd.waiting = true → (∃ p ∈ s.cp.queues, p.2.st ≠ .disabled ∧ p.2.head ≠ p.2.doorbell) →
    exec .powerStateEntry s = .next s) ∧
  (∀ s : State, s.bd.power = .entering 1 → exec .powerStateEntered s = .next { s with bd := { s.bd with power := .idle } }) ∧
  (∀ s : State, (s.bd.power = .entering 2 → ∃ t, exec .powerStateEntered s = .next t ∧ t.bd.power = .rest) ∧
    (s.bd.power = .entering 3 → ∃ t, exec .powerStateEntered s = .next t ∧ t.bd.power = .park ∧
      t.bd.railsOff = [7, 6, 5, 3, 2, 1].filter (fun r => (tget 0 s.bd.pmbAddr r).testBit 7 || s.bd.railsOff.contains r) ∧
      ∀ r ∈ t.bd.railsOff, tget .none t.bd.railCmd r = .off)) ∧
  (∀ s : State, s.bd.divRun = false → exec .returnToRun s = .next s) ∧
  (∀ s : State, s.bd.power = .returning → s.bd.resetDue = false → s.bd.divRun = true → (∀ q, (s.queue q).unread = false) → s.hp.heldAccess = [] →
    ∃ t, exec .returnToRun s = .next t ∧ t.bd.power = .run ∧ t.bd.waiting = (s.bd.target != 0) ∧ t.mem = s.mem ∧
      t.cp.table = s.cp.table ∧ (∀ q, t.queue q = s.queue q) ∧ (∀ n, (t.base n).selfRefresh = false)) ∧
  (∀ s : State, s.bd.power = .park → s.bd.exitDue = true → s.bd.coldLow = false →
    ∃ t, exec .parkExit s = .next t ∧ t.bd.power = .returning ∧ t.bd.exitDue = false ∧
      t.bd.railsOff = s.bd.railsOff ∧ (∀ r, s.bd.railsOff.getLast? = some r → tget .none t.bd.railCmd r = .on) ∧ t.bd.cause = 6 ∧
      t.bd.boot.stakeClear = false ∧ t.bd.boot.plaitReady = false ∧ t.mem = s.mem) ∧
  (∀ (place reason : Nat) (s : State), s.bd.parkDue = some (place, reason) → s.bd.power ≠ .park → s.bd.power ≠ .off →
    s.bd.power ≠ .entering 3 →
    ∃ t, exec .protectivePark s = .next t ∧ t.bd.power = .entering 3 ∧ t.bd.parkValid = true ∧ t.bd.parkWhere = place ∧
      t.bd.parkReason = reason ∧ t.bd.parkDue = none ∧ t.bd.waiting = false ∧ t.bd.cause = 7 ∧ t.bd.irq.testBit 1 = true ∧ t.mem = s.mem ∧
      t.cp = s.cp ∧ ∀ q, q < 256 → (t.bd.qmap.getLsbD q = true ↔ ∃ c ∈ s.cp.table, c.queue = q))

/-- The reset rows (R499 to R503, R516, R524, R560): a warm reset empties Plait and keeps stacks, keep region and host memory; an engine
reset keeps CP_TIME and the rest, with the reduction buffer lost, cancels a transition between power states, and ends with reset_done; a
cold reset, power-up and Off leave the reset values; the pins do the same and hold the engine while low. The model's readings: what no
row of R503 names returns to its reset value (log 34), which is why hp, tl, sp and cl are at reset; the bring-up of a Park exit is not
cancelled, and a warm reset pin that falls under a cold reset or in Park has no effect yet (log 144).
The bring-up rows (R36 to R38, R513, R552, R563, R564): lock starts the divided clocks, once the rails are on, loss of lock stops them
for good and raises the interrupt; stake is cleared to zeros, but for the keep region after a warm reset; the stacks and Plait become
ready or set boot_err; the last step raises reset_done. That lock and the fuse step show ref_present is the model's reading (log 114). -/
def Obligations.ResetsAndBringUp : Prop :=
  ((∀ (p : Instr × Nat) (s : State) (v : Word), p ∈ [(Instr.warmResetRegister v, 3), (.warmResetPin, 2)] → s.windowOpen 10 = true →
    v.toNat / 2 ^ 16 = 0xB0D7 → v.getLsbD 0 = true → s.bd.power = .run →
    ∃ t, exec p.1 s = .next t ∧ t.cp = {} ∧ t.bd.cause = p.2 ∧ t.bd.warmCount = min 0xFF (s.bd.warmCount + 1) ∧
      t.bd.engineCount = s.bd.engineCount ∧ t.bd.resetDue = true ∧ t.bd.scratch = s.bd.scratch ∧ t.bd.setA = {} ∧ t.bd.setB = {} ∧
      (∀ a, (a < stackEnd ∨ (keepLo ≤ a ∧ a < keepHi) ∨ stakeEnd ≤ a) → t.mem.read a = s.mem.read a) ∧
      t.sp = {} ∧ t.cl = {} ∧ t.hp = {} ∧ t.tl = {} ∧ (∀ n, (t.base n).phyReady = false) ∧ t.pending = s.pending) ∧
  (∀ (s : State) (v : Word), s.windowOpen 10 = true → v.toNat / 2 ^ 16 = 0xB0D7 → v.getLsbD 0 = false → v.getLsbD 1 = true →
    s.cp.table = [] → (∀ k, s.bd.power ≠ .entering k) → (s.bd.power = .returning → s.bd.resetDue = true) →
    (s.cl.descs.map (·.1)).Nodup →
    ∃ t, exec (.engineResetRegister v) s = .next t ∧ t.cp = { time := s.cp.time } ∧ t.bd.engineReset = true ∧ t.bd.cause = 5 ∧
      t.bd.engineCount = min 0xFF (s.bd.engineCount + 1) ∧ t.bd.power = s.bd.power ∧ (∀ k, t.streamer k = {}) ∧ t.rings = [] ∧
      t.sp.segments = s.sp.segments ∧ t.sp.windows = s.sp.windows ∧ t.sp.misses = [] ∧ t.tl = s.tl ∧
      t.bd.setA = s.bd.setA ∧ t.bd.setB = s.bd.setB ∧ (∀ n, (t.desc n).readers = 0 ∧ (t.desc n).pages = (s.desc n).pages) ∧
      (∀ a, (a < reduceLo ∨ reduceHi ≤ a) → t.mem.read a = s.mem.read a)) ∧
  (∀ (s : State) (v : Word), s.windowOpen 10 = true → v.toNat / 2 ^ 16 = 0xB0D7 → v.getLsbD 0 = false → v.getLsbD 1 = true →
    s.cp.table = [] → s.hp.heldAccess = [] → ((∃ k, s.bd.power = .entering k) ∨ (s.bd.power = .returning ∧ s.bd.resetDue = false)) →
    ∃ t, exec (.engineResetRegister v) s = .next t ∧ t.bd.engineReset = true ∧ t.bd.power = .run ∧
      t.bd.waiting = (s.bd.power == .returning && s.bd.target != 0) ∧ (∀ n, (t.base n).selfRefresh = false) ∧
      (∀ p, (t.port p).rested = false)) ∧
  (∀ s : State, s.bd.engineReset = true →
    exec .engineResetDone s = .next { s with bd := { s.bd with engineReset := false, irq := s.bd.irq ||| 2 ^ 10 } }) ∧
  (∀ s : State, s.bd.power = .off →
    ∃ t, exec .powerUp s = .next t ∧ t.cp = {} ∧ t.sp = {} ∧ t.cl = {} ∧ t.hp = {} ∧ t.tl = {} ∧ t.hd = {} ∧ t.bd.power = .run ∧ t.bd.cause = 1 ∧
      t.bd.divRun = false ∧ (∀ a, stakeEnd ≤ a → t.mem.read a = s.mem.read a) ∧ t.pending = s.pending) ∧
  (∀ s : State, ∃ t, exec .powerRemoval s = .next t ∧ t.bd.power = .off ∧ t.cp = {} ∧ t.tl = {} ∧ t.bd.divRun = false ∧ t.jt = []) ∧
  (∀ s : State, s.bd.power ≠ .off →
    ∃ t, exec .coldResetAssert s = .next t ∧ t.bd.coldLow = true ∧ t.cp = {} ∧ t.sp = {} ∧ t.hp = {} ∧ t.tl = {} ∧ t.bd.power = .run ∧ t.bd.cause = 1 ∧
      (∀ d, ((s.die d).ir = .extest → (t.die d).external = true) ∧ ((s.die d).ir = .clamp → (t.die d).pinsHeld = true) ∧
        ((s.die d).ir = .highz → (t.die d).pinsFloat = true) ∧ (t.die d).ir = (s.die d).ir)) ∧
  (∀ s : State, s.bd.coldLow = true → s.bd.power ≠ .off →
    ∃ t, exec .coldResetRelease s = .next t ∧ t.bd.coldLow = false ∧ t.cp = {} ∧ t.bd.cause = 1 ∧ t.bd.divRun = false ∧
      (∀ d, (s.die d).ir ∈ [.extest, .clamp, .highz] → (t.die d).ir = (s.die d).ir ∧
        (t.die d).external = false ∧ (t.die d).pinsHeld = false ∧ (t.die d).pinsFloat = false)) ∧
  (∀ s : State, s.bd.warmLow = false → (s.bd.power = .park ∨ s.bd.power = .off ∨ s.bd.coldLow = true) →
    exec .warmResetPin s = .next { s with bd := { s.bd with warmLow := true } }) ∧
  (∀ s : State, s.bd.warmLow = true →
    exec .warmResetRelease s = .next { s with bd := { s.bd with warmLow := false, exitDue := s.bd.exitDue || (s.bd.power == .park) } })) ∧
  ((∀ s : State, bringUp s = true → s.bd.resetDue = false →
    (s.bd.rootLock = false → s.bd.unlocked = false → s.bd.railsOff = [] →
      exec .rootPllLock s = .next { s with bd := { s.bd with refPresent := true, rootLock := true, divRun := true } }) ∧
    (s.bd.boot.fuseDone = false →
      exec .fuseDone s = .next { s with bd := { s.bd with refPresent := true, boot := { s.bd.boot with fuseDone := true } } }) ∧
    (s.bd.divRun = true → s.bd.boot.plaitReady = false →
      exec (.plaitReady true) s = .next { s with bd := { s.bd with boot := { s.bd.boot with plaitReady := true }, plaitSeen := s.cp.time } } ∧
      exec (.plaitReady false) s = .next { s with bd := { s.bd with boot := { s.bd.boot with bootErr := true } } }) ∧
    (s.bd.divRun = true → s.bd.boot.stacksReady = false →
      (∃ t, exec (.stacksReady true) s = .next t ∧ t.bd = { s.bd with boot := { s.bd.boot with stacksReady := true } } ∧
        (∀ n, n < 32 → t.base n = { s.base n with phyReady := true }) ∧ t.mem = s.mem) ∧
      exec (.stacksReady false) s = .next { s with bd := { s.bd with boot := { s.bd.boot with bootErr := true } } }) ∧
    (s.bd.divRun = true → s.bd.boot.stakeClear = false →
      ∃ t, exec .stakeClearDone s = .next t ∧ t.bd = { s.bd with boot := { s.bd.boot with stakeClear := true } } ∧
        (∀ a, stakeBase ≤ a → a < stakeEnd → (s.bd.boot.keepExcluded = false ∨ a < keepLo ∨ keepHi ≤ a) → t.mem.read a = 0#8) ∧
        (∀ a, (a < stakeBase ∨ stakeEnd ≤ a ∨ (s.bd.boot.keepExcluded = true ∧ keepLo ≤ a ∧ a < keepHi)) → t.mem.read a = s.mem.read a))) ∧
  (∀ s : State, bringUp s = true → s.bd.rootLock = true →
    exec .rootPllUnlock s = .next { s with bd := { s.bd with
      rootLock := false, divRun := false, rootUnlockSeen := true, unlocked := true, irq := s.bd.irq ||| 2 ^ 0 } }) ∧
  (∀ s : State, bringUp s = true → s.bd.resetDue = true → s.bd.divRun = true → s.bd.boot.bootErr = false →
    s.bd.boot.fuseDone = true → s.bd.boot.stakeClear = true → s.bd.boot.stacksReady = true → s.bd.boot.plaitReady = false →
    ∃ t, exec (.plaitReady true) s = .next t ∧ t.bd.resetDue = false ∧ t.bd.irq.testBit 10 = true))

/-- HEARTBEAT, PORT_SILENCE, PLAIT_REPORT and PLAIT_HUNG (R519 to R522): the beat counter advances, and a HELLO goes out on every port that
is up, waiting on one without credits; a port without HELLO for three periods is silent, its peer a suspect, with the interrupt; a
report clears plait_hung, and three periods without one set it, with the interrupt. That a HELLO's object field names its port is the
model's choice (log 43). -/
def Obligations.HeartbeatsAndSilence : Prop :=
  (∀ s : State, hoopOn s = true → s.bd.plaitHung = false → s.hp.waiting = [] →
    ∃ t, exec .heartbeat s = .next t ∧ t.bd = { s.bd with beat := (s.bd.beat + 1) % 65536 } ∧ t.cp = s.cp ∧ t.mem = s.mem ∧
      t.hp.waiting.map (fun o => (o.type, o.m.port)) =
        ((List.range 16).filter (fun p => portUp s p && (s.port p).credits.getD 0 0 == 0)).map (fun p => (0x31, p)) ∧
      (∀ p, p < 16 → portUp s p = false → t.port p = s.port p) ∧
      (∀ p, p < 16 → portUp s p = true → 0 < (s.port p).credits.getD 0 0 →
        ∃ o, (t.port p).unacked = (s.port p).unacked ++ [o] ∧ o.type = 0x31 ∧ o.cls = 0 ∧ o.m.src.toNat = ownId s ∧ o.m.object.toNat = p ∧ o.m.port = p)) ∧
  (∀ (p : Nat) (s : State), hoopOn s = true → p < 16 → portUp s p = true → s.bd.silent.testBit p = false →
    (s.port p).lastHello + 3 * s.active.heartbeatMs * 525000 ≤ s.cp.time →
    exec (.portSilence p) s = .next { s with bd := { s.bd with
      silent := s.bd.silent ||| 2 ^ p, silentSeen := s.bd.silentSeen ||| 2 ^ p, suspectValid := true, suspectSource := 2, suspectPort := p,
      suspectEngine := (s.port p).peer, irq := (s.bd.irq ||| 2 ^ 4) ||| 2 ^ 3 } }) ∧
  (∀ s : State, firmwareRuns s = true →
    exec .plaitReport s = .next { s with bd := { s.bd with plaitSeen := s.cp.time, plaitHung := false } }) ∧
  (∀ s : State, firmwareRuns s = true → s.bd.plaitHung = false → s.bd.plaitSeen + 3 * s.active.heartbeatMs * 525000 ≤ s.cp.time →
    exec .plaitHung s = .next { s with bd := { s.bd with plaitHung := true, irq := s.bd.irq ||| 2 ^ 2 } })

/-- CHECKPOINT and ADOPT (R526 to R532): the image's header and chosen sections, each over its whole span, are written through the queue's
translations; an image that passes its checks and opens no window is adopted at once: the ports that lead elsewhere are disabled, and
tables, slots, routes and the identity of the image take effect, limited to their legal values, and the former and the adopted ID are
recorded; one that fails a check, or an engine that is not free, ends the command with its detail. The model's readings: which ports
lead elsewhere (log 44), and where a write meets stored errors (log 136). -/
def Obligations.CheckpointAndAdopt : Prop :=
  (∀ (s u w : State) (q : Nat) (c e : Cmd) (ps : List (Nat × Nat)) (x : Xlate), Starts s q 0x70 c →
    let chosen := c.word 4 % 2 ^ 4
    translateParts (begin_ s c) (begun s c) ((0, 4096) :: ((List.range 4).filter (bit chosen)).map sectionSpan) = (u, some ps, x) →
    writeMeets u ps (wordBytes ((checkpointParts u chosen).map (·.2)).flatten) = (w, none) →
    u.cmd? c.id = some e → e.status = none →
    ∃ t d h, exec (.checkpoint q) s = .next t ∧ t.cmd? c.id = some d ∧ d.status = some ⟨0, 0, 0, h⟩ ∧ t.mem = w.mem ∧ t.sp = w.sp) ∧
  (∀ (s : State) (q : Nat) (c : Cmd), Starts s q 0x71 c → adoptBlocked (begin_ s c) (begun s c) = true →
    ∃ t d h, exec (.adopt q) s = .next t ∧ t.cmd? c.id = some d ∧ d.status = some ⟨0x10, 0x0512, 0, h⟩) ∧
  (∀ (s u : State) (q n : Nat) (c e : Cmd) (im : List Word), Starts s q 0x71 c → adoptBlocked (begin_ s c) (begun s c) = false →
    readImage (begin_ s c) (begun s c) = (u, some im) → imageCheck u (c.word 2 % 2 ^ 16) im = some n → u.cmd? c.id = some e →
    e.status = none → e.opcode = 0x71 → e.undo = [] →
    ∃ t d h, exec (.adopt q) s = .next t ∧ t.cmd? c.id = some d ∧ d.status = some ⟨0x10, n, 0, h⟩) ∧
  (∀ (s u v : State) (q : Nat) (c e : Cmd) (im : List Word), Starts s q 0x71 c → adoptBlocked (begin_ s c) (begun s c) = false →
    readImage (begin_ s c) (begun s c) = (u, some im) → imageCheck u (c.word 2 % 2 ^ 16) im = none → imageWindows im = [] →
    installContexts u (imageContexts im) = some v → u.cmd? c.id = some e → e.status = none →
    (u.tl.slots.map (·.1)).Pairwise (· < ·) →
    ∃ t d h, exec (.adopt q) s = .next t ∧ t.cmd? c.id = some d ∧ d.status = some ⟨0, 0, 0, h⟩ ∧
      t.bd.adopted = true ∧ t.bd.formerId = ownId u ∧ t.bd.adoptedId = c.word 2 % 2 ^ 16 ∧
      t.sp.segments = v.sp.segments ∧ t.sp.roots = v.sp.roots ∧
      (∀ p ∈ adoptStrays u im (c.word 2 % 2 ^ 16), (t.port p).enable = false) ∧
      (∀ k, k < 6 → t.active.get (routeIds.getD k 0) = legalValue (routeIds.getD k 0) (imageWord im (0x2A000 + 4 * k))) ∧
      (∀ r i, r < 256 → i < 16 → (ringEntry t r).getD i 0#32 = wd (imageWord im (0x2B000 + 64 * r + 4 * i)) ∧
        (groupEntry t r).getD i 0#32 = wd (imageWord im (0x2F000 + 64 * r + 4 * i))) ∧
      (imageChosen im / 8 % 2 = 1 → ∀ n, 0 < n → n < 256 → (t.slot n).scale = wd (imageWord im (0x33000 + 128 * n)) ∧
        (t.slot n).hold = (imageWord im (0x33000 + 128 * n + 4) % 2 == 1)))

/-- The Handle rows (R552 to R555, R558): HD_CTRL names the enabled modules, and one that is no longer enabled leaves up with the interrupt;
a module that comes up sends what waited, in order; the last module down leaves transfers waiting, and 200 µs of waiting end a command
with HOST_TIMEOUT. Which writes wait for a module, and that what waited goes out as one comes up, is the model's choice (log 45). -/
def Obligations.HandleModules : Prop :=
  (∀ (v : Word) (s : State), s.windowOpen 11 = true → s.hd.moduleUp &&& (v.toNat % 2 ^ 16) = s.hd.moduleUp →
    exec (.handleModuleEnable v) s = .next { s with hd := { s.hd with moduleEn := v.toNat % 2 ^ 16 } }) ∧
  (∀ (v : Word) (s : State), s.windowOpen 11 = true → s.hd.moduleUp &&& (v.toNat % 2 ^ 16) ≠ s.hd.moduleUp →
    ∃ t, exec (.handleModuleEnable v) s = .next t ∧ t.hd.moduleEn = v.toNat % 2 ^ 16 ∧
      t.hd.moduleUp = s.hd.moduleUp &&& (v.toNat % 2 ^ 16) ∧ t.hd.downSeen = true ∧ t.bd.irq = s.bd.irq ||| 2 ^ 9 ∧ t.mem = s.mem) ∧
  (∀ (m : Nat) (b : Bool) (s : State), handleOn s = true → m < 16 → s.hd.moduleEn.testBit m = true → s.hd.moduleUp.testBit m = false →
    ∃ t, exec (.handleModuleUp m b) s = .next t ∧ t.hd.moduleUp = s.hd.moduleUp ||| 2 ^ m ∧
      t.hd.repaired = (if b = true then s.hd.repaired ||| 2 ^ m else s.hd.repaired) ∧
      t.hd.waiting = [] ∧ t.hd.held = [] ∧ t.hd.sent = s.hd.sent + s.hd.waiting.length ∧
      t.mem = s.hd.waiting.foldl (fun x w => x.writeBytes (hostBase + w.1) (wordBytes w.2)) s.mem ∧ t.cp = s.cp) ∧
  (∀ (m : Nat) (s : State), handleOn s = true → m < 16 → s.hd.moduleUp.testBit m = true →
    ∃ t, exec (.handleModuleDown m) s = .next t ∧ t.hd.moduleUp.testBit m = false ∧
      (∀ k, k ≠ m → t.hd.moduleUp.testBit k = s.hd.moduleUp.testBit k) ∧ t.hd.downSeen = true ∧ t.bd.irq = s.bd.irq ||| 2 ^ 9 ∧
      t.cp = s.cp ∧ t.mem = s.mem) ∧
  (∀ (id word : Nat) (s : State) (c : Cmd), handleWait s id = some word → s.bd.divRun = true → handleUp s = false → s.cmd? id = some c →
    c.id = id → c.status = none → c.undo = [] →
    ∃ t d n h, exec (.handleTimeout id) s = .next t ∧ t.cmd? id = some d ∧ d.status = some ⟨0x21, word, n, h⟩ ∧
      (∀ x ∈ t.hd.held, x.1 ≠ id) ∧ ((∀ a, c.run ≠ .adopt a) → t.mem = s.mem))

/-- The register space (R13, R15, R545 to R548, R556, R558): a frame whose CRC fails is answered with crc and nothing else; an access to a
window or offset with no register draws error, one to a held window busy; any other read answers the register's value and any other
write acts and answers ok; a W1C bit that the engine sets in the same MCLK reads as 1 afterwards; an access through a Handle module that
is up, read or write, is that of the management port within its scope, and draws error outside it; ST_MDATA answers as its own rows do.
That a read of a register with W1C or counted bits answers as its row with nothing arriving meanwhile, and the Handle port's order of
checks, are the model's choices (log 88). -/
def Obligations.RegisterAccesses : Prop :=
  (∀ (op : BitVec 2) (addr : BitVec 24) (data : Word) (crc : Byte) (s : State), answers s = true → crc ≠ requestCrc op addr data →
    exec (.managementFrame op addr data crc) s = .next { s with bus := ⟨.crc, 0#32⟩ }) ∧
  (∀ (addr : BitVec 24) (data same : Word) (r : Resp) (s : State), answers s = true → accessCode s addr.toNat = some r →
    exec (.managementFrame 0#2 addr data (requestCrc 0#2 addr data)) s = .next { s with bus := ⟨r, 0#32⟩ } ∧
    exec (.managementFrame 1#2 addr data (requestCrc 1#2 addr data)) s = .next { s with bus := ⟨r, 0#32⟩ } ∧
    exec (.registerWrite addr data same) s = .next { s with bus := ⟨r, 0#32⟩ }) ∧
  (∀ (addr : BitVec 24) (data : Word) (n : Nat) (s : State), answers s = true → accessCode s addr.toNat = none → addr.toNat ≠ 0x300008 →
    regWord s addr.toNat = some n →
    ∃ t, exec (.managementFrame 0#2 addr data (requestCrc 0#2 addr data)) s = .next t ∧ t.bus = ⟨.ok, wd n⟩ ∧
      t = { readEffect s addr.toNat with bus := t.bus }) ∧
  (∀ (addr : BitVec 24) (v same : Word) (s : State), answers s = true → accessCode s addr.toNat = none → addr.toNat ≠ 0x300008 →
    exec (.managementFrame 1#2 addr v (requestCrc 1#2 addr v)) s = .next { regWrite s addr.toNat v with bus := ⟨.ok, 0#32⟩ } ∧
    exec (.registerWrite addr v same) s = .next (stickySet { regWrite s addr.toNat v with bus := ⟨.ok, 0#32⟩ } addr.toNat same.toNat)) ∧
  (∀ (w : Bool) (addr : BitVec 24) (v : Word) (s : State), answers s = true → handleUp s = true →
    let o := addr.toNat % 2 ^ 20
    let inside := s.hd.scope = 0 ∨
      (s.hd.scope = 1 ∧ (addr.toNat / 2 ^ 20 = 0 ∨ (addr.toNat / 2 ^ 20 = 9 ∧ 0x8000 ≤ o ∧ o < 0x9000)))
    let op : BitVec 2 := if w = true then 1#2 else 0#2
    (inside → exec (.registerPathAccess w addr v) s = exec (.managementFrame op addr v (requestCrc op addr v)) s) ∧
    (¬ inside → exec (.registerPathAccess w addr v) s = .next { s with bus := ⟨.error, 0#32⟩ })) ∧
  (∀ (v same : Word) (s : State), answers s = true → s.windowBusy 3 = false →
    exec (.managementFrame 0#2 0x300008#24 v (requestCrc 0#2 0x300008#24 v)) s = exec (.stMdataRead {}) s ∧
    exec (.managementFrame 1#2 0x300008#24 v (requestCrc 1#2 0x300008#24 v)) s = exec (.stMdataWrite v) s ∧
    exec (.registerWrite 0x300008#24 v same) s = exec (.stMdataWrite v) s) ∧
  (∀ (v same : Word) (s : State), s.windowOpen 10 = true →
    ∃ t, exec (.registerWrite 0xA00300#24 v same) s = .next t ∧
      (∀ i, i < 11 → t.bd.irq.testBit i = ((s.bd.irq.testBit i && !v.getLsbD i) || same.getLsbD i)) ∧
      t = { s with bd := { s.bd with irq := t.bd.irq }, bus := ⟨.ok, 0#32⟩ })

/-- The boundary-scan rows (R561): an instruction selects its register between TDI and TDO, IDCODE with the die's code; EXTEST, CLAMP and
HIGHZ take the pins only while COLD_RST_N is low, and otherwise act as BYPASS, the bypass register between TDI and TDO. Which register
each selects is IEEE 1149.1's (log 51). -/
def Obligations.BoundaryScanInstructions : Prop :=
  ∀ (d : Nat) (s : State), d < 18 → s.bd.power ≠ .off →
    exec (.bypass d) s = .next (s.setDie d { ir := .bypass, selected := 2 }) ∧
    exec (.idcode d) s = .next (s.setDie d { ir := .idcode, selected := 1, shifted := if d = 0 ∨ d = 17 then 0x1D202973#32 else 0x1D201973#32 }) ∧
    exec (.samplePreload d) s = .next (s.setDie d { ir := .samplePreload, selected := 0 }) ∧
    (s.bd.coldLow = true →
      exec (.extest d) s = .next (s.setDie d { ir := .extest, selected := 0, external := true }) ∧
      exec (.clamp d) s = .next (s.setDie d { ir := .clamp, selected := 2, pinsHeld := true }) ∧
      exec (.highz d) s = .next (s.setDie d { ir := .highz, selected := 2, pinsFloat := true })) ∧
    (s.bd.coldLow = false →
      ∀ p ∈ [(Instr.extest d, Scan.extest), (.clamp d, .clamp), (.highz d, .highz)],
        exec p.1 s = .next (s.setDie d { ir := p.2, selected := 2 }))

/-- R242, R244: a rib instruction and its 64-bit word determine each other, with every field at every value; a word whose opcode the table
does not have spells none. -/
def Obligations.RibWordsRoundTrip : Prop :=
  (∀ (i : Instr) (w : BitVec 64), encodeRib i = some w → ∃ a, decodeRib a w = some i) ∧
  (∀ (a : Nat) (w : BitVec 64) (i : Instr), decodeRib a w = some i → encodeRib i = some w) ∧
  (∀ (a : Nat) (w : BitVec 64), decodeRib a w = none ↔ ¬ ∃ i, encodeRib i = some w)

/-- The form of this model (log 1, log 113): every command answers a next state; no row of the table ends in a fault or a refusal. -/
def Obligations.EveryCommandAnswers : Prop :=
  ∀ (i : Instr) (s : State), ∃ t, exec i s = .next t

/-- Memory keeps its canonical form (no two cells of one address, rising addresses, no cell that repeats what its address would read as)
through every step. -/
def Obligations.MemoryStaysCanonical : Prop :=
  ∀ s t : State, s.mem.wf = true → step s = .next t → t.mem.wf = true

/-- Every step keeps what DOORBELL leaves (R42 to R44, R492): the doorbell that Plait acts on is at most a ring's length ahead of the head,
and one stored in Rest waits only while the engine is in Rest, on its way in, or on its way out. That a Disabled queue's doorbell may
stand anywhere, and when a stored one is acted on, is the model's reading (log 93). -/
def Obligations.DoorbellsStayFit : Prop :=
  ∀ s t : State, DoorbellsFit s → step s = .next t → DoorbellsFit t

/-- Every step keeps the command table's numbering (R46, R56): its entries bear different numbers, which acceptance gave them, and the next
number is beyond them all, so that a number names one command. Numbers that never repeat are the model's choice (log 25). -/
def Obligations.CommandsStayNumbered : Prop :=
  ∀ s t : State, CommandsNumbered s → step s = .next t → CommandsNumbered t

/-- FCMP, FEXPO and FCVT (R243, R244) complete wherever the engine runs and the instruction is legal: the comparison goes into a predicate
register, FEXPO gives the exponent as an integer, and FCVT converts between FP32 and int32, and between FP32 and FP64 in an even
register and the next. Lanes in bounds that the predicate turns off raise their flags too (log 46, the model's reading). What IEEE 754
leaves open of these results is free (log 7, 8). -/
def Obligations.CompareAndConvertInstructions : Prop :=
  (∀ (a : Nat) (x : RibArgs) (s : State), s.running = true → a < 32 → x.md.toNat ≤ 4 → 2 ≤ x.vd.toNat % 8 → x.imm.toNat % 8 ≠ 7 →
    let r (l : Nat) := fCmp .binary32 (x.imm.toNat % 8) (laneAt s a x.va.toNat l).toNat (laneAt s a x.vb.toNat l).toNat
    ∃ t, exec (.fcmp a x) s = .next t ∧ RegsKept s t a [] ∧ FpFlags s t a (fun l => (r l).2) ∧ LaneFrame s t a ∧
      (∀ n, n ≠ x.vd.toNat % 8 → (t.ribOf a).pred n = (s.ribOf a).pred n) ∧
      (∀ l, l < 256 → ((t.ribOf a).pred (x.vd.toNat % 8)).getD l false =
        if laneOn s a x l = true then (r l).1 else ((s.ribOf a).pred (x.vd.toNat % 8)).getD l false)) ∧
  (∀ (a : Nat) (x : RibArgs) (s : State), s.running = true → a < 32 → x.md.toNat ≤ 4 →
    let r (l : Nat) := fExpo (laneAt s a x.va.toNat l).toNat
    ∃ t, exec (.fexpo a x) s = .next t ∧ LanesTake s t a x x.vd.toNat (fun l => (r l).1) ∧ FpFlags s t a (fun l => (r l).2) ∧
      RegsKept s t a [x.vd.toNat] ∧ PredsKept s t a ∧ LaneFrame s t a) ∧
  (∀ (a : Nat) (x : RibArgs) (s : State), s.running = true → a < 32 → x.md.toNat ≤ 4 → x.imm.toNat % 4 < 2 →
    let r (l : Nat) : Word × FFlags := if x.imm.toNat % 4 = 0 then toInt32 (laneAt s a x.va.toNat l).toNat
      else (wd (fromInt32 (roundOf x) (laneAt s a x.va.toNat l)).1, (fromInt32 (roundOf x) (laneAt s a x.va.toNat l)).2)
    ∃ t, exec (.fcvt a x) s = .next t ∧ LanesTake s t a x x.vd.toNat (fun l => (r l).1) ∧ FpFlags s t a (fun l => (r l).2) ∧
      RegsKept s t a [x.vd.toNat] ∧ PredsKept s t a ∧ LaneFrame s t a) ∧
  (∀ (a : Nat) (x : RibArgs) (s : State), s.running = true → a < 32 → x.md.toNat ≤ 4 → x.imm.toNat % 4 = 2 → x.vd.toNat % 2 = 0 →
    let r (l : Nat) := fConvert .fp32 .fp64 (roundOf x) (laneAt s a x.va.toNat l).toNat
    ∃ t, exec (.fcvt a x) s = .next t ∧ LanesTake s t a x x.vd.toNat (fun l => wd (r l).1) ∧
      LanesTake s t a x (x.vd.toNat + 1) (fun l => wd ((r l).1 / 2 ^ 32)) ∧ FpFlags s t a (fun l => (r l).2) ∧
      RegsKept s t a [x.vd.toNat, x.vd.toNat + 1] ∧ PredsKept s t a ∧ LaneFrame s t a) ∧
  (∀ (a : Nat) (x : RibArgs) (s : State), s.running = true → a < 32 → x.md.toNat ≤ 4 → x.imm.toNat % 4 = 3 → x.va.toNat % 2 = 0 →
    let r (l : Nat) := fConvert .fp64 .fp32 (roundOf x) (pairAt64 s a x.va.toNat l)
    ∃ t, exec (.fcvt a x) s = .next t ∧ LanesTake s t a x x.vd.toNat (fun l => wd (r l).1) ∧ FpFlags s t a (fun l => (r l).2) ∧
      RegsKept s t a [x.vd.toNat] ∧ PredsKept s t a ∧ LaneFrame s t a)
end

