-- ==== Sys2Proof/Laws/Links.lean ====
section
/-! SUPPORT. Laws of the links: what the header of a block says (R425), and what sending a message can change (R427, R428). -/

namespace Sys2Proof.Machine

/-! ### Block headers -/

theorem packHeader_toNat (seq ack : Nat) (nak : Bool) (cls count : Nat) (f : List Byte) :
    ∃ w : Word, w = wd (seq + ack * 2 ^ 12 + b2n nak * 2 ^ 24 + cls * 2 ^ 25 + count * 2 ^ 27) ∧
      (packHeader seq ack nak cls count f).toNat = (crc32c (wordBytes [w] ++ f)).toNat * 2 ^ 32 + w.toNat := by
  refine ⟨_, rfl, ?_⟩
  unfold packHeader
  rw [BitVec.toNat_append, Nat.shiftLeft_eq, Nat.mul_comm, ← Nat.two_pow_add_eq_or_of_lt (BitVec.isLt _)]

/-- R425: the crc of a header that Hoop forms is the one that the other end computes. -/
theorem packHeader_crcGood (seq ack : Nat) (nak : Bool) (cls count : Nat) (f : List Byte) (b : Block)
    (hh : b.header = packHeader seq ack nak cls count f) (hf : b.flits = f) : crcGood b = true := by
  obtain ⟨w, -, h⟩ := packHeader_toNat seq ack nak cls count f
  have hw := w.isLt
  have low : headerField b 31 0 = w.toNat := by
    simp only [headerField, fld, hh, h]
    omega
  have high : headerField b 63 32 = (crc32c (wordBytes [w] ++ f)).toNat := by
    have := (crc32c (wordBytes [w] ++ f)).isLt
    simp only [headerField, fld, hh, h]
    omega
  simp [crcGood, low, high, hf, wordBytes, wd]

/-- A field of the low word of a header. -/
theorem packHeader_field (seq ack : Nat) (nak : Bool) (cls count : Nat) (f : List Byte) (hi lo : Nat) (h : hi < 32) (l : lo ≤ hi) :
    fld (packHeader seq ack nak cls count f).toNat hi lo =
      fld (wd (seq + ack * 2 ^ 12 + b2n nak * 2 ^ 24 + cls * 2 ^ 25 + count * 2 ^ 27)).toNat hi lo := by
  obtain ⟨w, rfl, e⟩ := packHeader_toNat seq ack nak cls count f
  rw [e]
  unfold fld
  have e1 : 2 ^ 32 = 2 ^ lo * (2 ^ (hi + 1 - lo) * 2 ^ (31 - hi)) := by
    rw [← Nat.pow_add, ← Nat.pow_add]; congr 1; omega
  rw [Nat.shiftRight_eq_div_pow, Nat.shiftRight_eq_div_pow, Nat.mul_comm _ (2 ^ 32), e1, Nat.mul_assoc,
    Nat.mul_add_div (Nat.two_pow_pos lo), Nat.mul_assoc, Nat.mul_add_mod]

/-! ### Sending changes Hoop, and counts its flits -/

/-- An event that occurs changes Tally alone. -/
theorem noteEvent_frame (s : State) (code unit n : Nat) : noteEvent s code unit n = { s with tl := (noteEvent s code unit n).tl } := by
  unfold noteEvent
  split <;> rfl

theorem sendOn_frame (s : State) (p : Nat) (o : OutMsg) :
    sendOn s p o = { s with hp := (sendOn s p o).hp, tl := (sendOn s p o).tl } := by
  unfold sendOn
  dsimp only
  rw [noteEvent_frame]
  rfl

theorem sendNext_frame {s t : State} {p : Nat} (h : sendNext s p = some t) : t = { s with hp := t.hp, tl := t.tl } := by
  unfold sendNext at h
  dsimp only at h
  split at h
  · cases h
  · cases h; rw [sendOn_frame]; rfl

theorem sendLoop_frame (n : Nat) : ∀ s : State, sendLoop n s = { s with hp := (sendLoop n s).hp, tl := (sendLoop n s).tl } := by
  induction n with
  | zero => intro s; rfl
  | succ n ih =>
    intro s
    unfold sendLoop
    split
    · rename_i t h
      obtain ⟨p, -, hp⟩ := List.exists_of_findSome?_eq_some h
      have f := sendNext_frame hp
      rw [ih t]
      exact congrArg (fun u : State => { u with hp := (sendLoop n t).hp, tl := (sendLoop n t).tl }) f
    · rfl

theorem flushWaiting_frame (s : State) : flushWaiting s = { s with hp := (flushWaiting s).hp, tl := (flushWaiting s).tl } := sendLoop_frame _ s

theorem sendMsg_frame (s : State) (o : OutMsg) : sendMsg s o = { s with hp := (sendMsg s o).hp, tl := (sendMsg s o).tl } := by
  unfold sendMsg
  rw [flushWaiting_frame]
  rfl

/-- With nothing to send, a flush changes nothing. -/
theorem flushWaiting_nothing {s : State} (h : s.hp.waiting = []) : flushWaiting s = s := by
  unfold flushWaiting
  rw [h]
  rfl

theorem credited_frame (s : State) (type : Nat) (m : Msg) :
    credited s type m = { s with hp := { s.hp with ports := (credited s type m).hp.ports }, tl := (credited s type m).tl } := by
  unfold credited
  dsimp only
  rw [noteEvent_frame]
  rfl

end Sys2Proof.Machine
end

