-- ==== Sys2Proof/Laws/Memory.lean ====
section
/-! SUPPORT. Memory: a read after a write, and the canonical form, which every operation on memory keeps. -/

namespace Sys2Proof.Machine.Memory

/-! ### Cells -/

theorem lookup_remove_same (l : List Host.Cell) (a : Nat) : lookup (remove l a) a = none := by
  induction l with
  | nil => rfl
  | cons p l ih => obtain ⟨k, v⟩ := p; by_cases h : k = a <;> simp [remove, lookup, h, ih]

theorem lookup_remove_other (l : List Host.Cell) {a b : Nat} (h : b ≠ a) : lookup (remove l a) b = lookup l b := by
  induction l with
  | nil => rfl
  | cons p l ih =>
    obtain ⟨k, v⟩ := p
    by_cases hk : k = a
    · subst hk; simp [remove, lookup, ih, Ne.symm h]
    · simp [remove, lookup, hk, ih]

theorem lookup_insert_same (l : List Host.Cell) (a : Nat) (x : Byte) : lookup (insert l a x) a = some x := by
  induction l with
  | nil => simp [insert, lookup]
  | cons p l ih => obtain ⟨k, v⟩ := p; by_cases h : k = a <;> by_cases hl : a < k <;> simp [insert, lookup, h, hl, ih]

theorem lookup_insert_other (l : List Host.Cell) {a b : Nat} (x : Byte) (h : b ≠ a) : lookup (insert l a x) b = lookup l b := by
  induction l with
  | nil => simp [insert, lookup, Ne.symm h]
  | cons p l ih =>
    obtain ⟨k, v⟩ := p
    by_cases hk : k = a
    · subst hk; simp [insert, lookup, Ne.symm h]
    · by_cases hl : a < k <;> simp [insert, lookup, hk, hl, ih, Ne.symm h]

/-! ### Reads after writes -/

@[simp] theorem write_unlisted (m : Memory) (a b : Nat) (x : Byte) : (m.write a x).unlisted b = m.unlisted b := rfl
@[simp] theorem write_undef (m : Memory) (a : Nat) (x : Byte) : (m.write a x).undef = m.undef := rfl
@[simp] theorem write_bad (m : Memory) (a : Nat) (x : Byte) : (m.write a x).bad = m.bad := rfl
@[simp] theorem write_soft (m : Memory) (a : Nat) (x : Byte) : (m.write a x).soft = m.soft := rfl
@[simp] theorem write_once (m : Memory) (a : Nat) (x : Byte) : (m.write a x).once = m.once := rfl
@[simp] theorem write_epochs (m : Memory) (a : Nat) (x : Byte) : (m.write a x).epochs = m.epochs := rfl

@[simp] theorem read_write_same (m : Memory) (a : Nat) (x : Byte) : (m.write a x).read a = x := by
  unfold write; split
  · next h => simp [read, lookup_remove_same, unlisted, h]
  · simp [read, lookup_insert_same]

@[simp] theorem read_write_other (m : Memory) (a b : Nat) (x : Byte) (h : b ≠ a) : (m.write a x).read b = m.read b := by
  unfold write; split
  · simp [read, lookup_remove_other _ h, unlisted]
  · simp [read, lookup_insert_other _ _ h, unlisted]

theorem read_write (m : Memory) (a b : Nat) (x : Byte) : (m.write a x).read b = if b = a then x else m.read b := by
  split
  · next h => subst h; simp
  · next h => simp [h]

theorem read_writeBytes (bs : List Byte) (m : Memory) (a b : Nat) :
    (m.writeBytes a bs).read b = if a ≤ b ∧ b < a + bs.length then bs.getD (b - a) 0 else m.read b := by
  induction bs generalizing m a with
  | nil => rw [if_neg (by simp only [List.length_nil]; omega)]; rfl
  | cons x bs ih =>
    simp only [writeBytes, ih, List.length_cons, read_write]
    by_cases h : b = a
    · subst h
      rw [if_neg (by omega), if_pos rfl, if_pos (by omega), Nat.sub_self]; rfl
    · by_cases h2 : a + 1 ≤ b ∧ b < a + 1 + bs.length
      · rw [if_pos h2, if_pos (by omega), show b - a = (b - (a + 1)) + 1 by omega, List.getD_cons_succ]
      · rw [if_neg h2, if_neg h, if_neg (by omega)]

theorem read_writeBytes_outside (bs : List Byte) (m : Memory) (a b : Nat) (h : b < a ∨ a + bs.length ≤ b) :
    (m.writeBytes a bs).read b = m.read b := by rw [read_writeBytes, if_neg]; omega

@[simp] theorem writeBytes_undef (bs : List Byte) (m : Memory) (a : Nat) : (m.writeBytes a bs).undef = m.undef := by
  induction bs generalizing m a with
  | nil => rfl
  | cons x bs ih => simp [writeBytes, ih]

@[simp] theorem writeBytes_bad (bs : List Byte) (m : Memory) (a : Nat) : (m.writeBytes a bs).bad = m.bad := by
  induction bs generalizing m a with
  | nil => rfl
  | cons x bs ih => simp [writeBytes, ih]

@[simp] theorem writeBytes_soft (bs : List Byte) (m : Memory) (a : Nat) : (m.writeBytes a bs).soft = m.soft := by
  induction bs generalizing m a with
  | nil => rfl
  | cons x bs ih => simp [writeBytes, ih]

@[simp] theorem writeBytes_once (bs : List Byte) (m : Memory) (a : Nat) : (m.writeBytes a bs).once = m.once := by
  induction bs generalizing m a with
  | nil => rfl
  | cons x bs ih => simp [writeBytes, ih]

/-! ### The canonical form -/

/-- The form, as propositions. -/
theorem wf_iff (m : Memory) : m.wf = true ↔ m.cells.Pairwise (fun x y => x.1 < y.1) ∧ ∀ c ∈ m.cells, c.2 ≠ m.unlisted c.1 := by
  simp [wf, List.all_eq_true]

theorem remove_subset (l : List Host.Cell) (a : Nat) : ∀ c ∈ remove l a, c ∈ l ∧ c.1 ≠ a := by
  induction l with
  | nil => simp [remove]
  | cons p l ih =>
    obtain ⟨k, v⟩ := p
    intro c hc
    by_cases h : k = a
    · simp only [remove, h, if_true] at hc; exact ⟨List.mem_cons_of_mem _ (ih c hc).1, (ih c hc).2⟩
    · simp only [remove, h, if_false, List.mem_cons] at hc
      rcases hc with rfl | hc
      · exact ⟨List.mem_cons_self .., h⟩
      · exact ⟨List.mem_cons_of_mem _ (ih c hc).1, (ih c hc).2⟩

theorem remove_pairwise (l : List Host.Cell) (a : Nat) (h : l.Pairwise (fun x y => x.1 < y.1)) :
    (remove l a).Pairwise (fun x y => x.1 < y.1) := by
  induction l with
  | nil => exact h
  | cons p l ih =>
    obtain ⟨k, v⟩ := p
    rw [List.pairwise_cons] at h
    by_cases hk : k = a
    · simp only [remove, hk, if_true]; exact ih h.2
    · simp only [remove, hk, if_false, List.pairwise_cons]
      exact ⟨fun c hc => h.1 c (remove_subset l a c hc).1, ih h.2⟩

theorem insert_subset (l : List Host.Cell) (a : Nat) (x : Byte) : ∀ c ∈ insert l a x, c = (a, x) ∨ c ∈ l := by
  induction l with
  | nil => simp [insert]
  | cons p l ih =>
    obtain ⟨k, v⟩ := p
    intro c hc
    by_cases h : k = a
    · simp only [insert, h, if_true, List.mem_cons] at hc ⊢; grind
    · by_cases hl : a < k
      · simp only [insert, h, hl, if_true, if_false, List.mem_cons] at hc ⊢; grind
      · simp only [insert, h, hl, if_false, List.mem_cons] at hc ⊢
        grind

theorem insert_pairwise (l : List Host.Cell) (a : Nat) (x : Byte) (h : l.Pairwise (fun x y => x.1 < y.1)) :
    (insert l a x).Pairwise (fun x y => x.1 < y.1) := by
  induction l with
  | nil => simp [insert]
  | cons p l ih =>
    obtain ⟨k, v⟩ := p
    have h' := h
    rw [List.pairwise_cons] at h
    by_cases hk : k = a
    · subst hk; simpa [insert] using h
    · by_cases hl : a < k
      · simp only [insert, hk, hl, if_true, if_false]
        refine List.pairwise_cons.2 ⟨fun c hc => ?_, h'⟩
        rcases List.mem_cons.1 hc with rfl | hc
        · exact hl
        · exact Nat.lt_trans hl (h.1 c hc)
      · simp only [insert, hk, hl, if_false, List.pairwise_cons]
        refine ⟨fun c hc => ?_, ih h.2⟩
        rcases insert_subset l a x c hc with rfl | hc
        · show k < a; omega
        · exact h.1 c hc

theorem write_wf (m : Memory) (a : Nat) (x : Byte) (h : m.wf = true) : (m.write a x).wf = true := by
  rw [wf_iff] at h ⊢
  unfold write
  by_cases hx : x = m.unlisted a
  · simp only [hx, if_true]
    exact ⟨remove_pairwise _ _ h.1, fun c hc => h.2 c (remove_subset _ _ c hc).1⟩
  · simp only [hx, if_false]
    refine ⟨insert_pairwise _ _ _ h.1, fun c hc => ?_⟩
    rcases insert_subset _ _ _ c hc with rfl | hc
    · exact hx
    · exact h.2 c hc

theorem writeBytes_wf (bs : List Byte) (m : Memory) (a : Nat) (h : m.wf = true) : (m.writeBytes a bs).wf = true := by
  induction bs generalizing m a with
  | nil => exact h
  | cons x bs ih => exact ih _ _ (write_wf _ _ _ h)

/-- The form does not speak of the failing lines or of the epoch counter. -/
theorem wf_congr {m n : Memory} (hc : n.cells = m.cells) (hu : n.undef = m.undef) (h : m.wf = true) : n.wf = true := by
  rw [wf_iff] at h ⊢
  simpa [unlisted, hc, hu] using h

theorem lose_wf (m : Memory) (a : Nat) (h : m.wf = true) : (m.lose a).wf = true := wf_congr rfl rfl h

theorem struck_wf (m : Memory) (o : Option (Nat × Bool)) (h : m.wf = true) : (m.struck o).wf = true := by
  unfold struck
  split
  · exact h
  · split
    · exact h
    · split
      · exact lose_wf m _ h
      · exact wf_congr rfl rfl h

theorem heal_wf (m : Memory) (a n : Nat) (h : m.wf = true) : (m.heal a n).wf = true := wf_congr rfl rfl h

theorem undefRead_cut (us : List Undef) (lo hi a : Nat) (ha : a < lo ∨ hi ≤ a) :
    undefRead ((us.map (fun u => [{ u with hi := min u.hi lo }, { u with lo := max u.lo hi }])).flatten.filter (fun u => u.lo < u.hi)) a
      = undefRead us a := by
  induction us with
  | nil => rfl
  | cons u us ih =>
    obtain ⟨l, g, e⟩ := u
    simp only [List.map_cons, List.flatten_cons, List.filter_append, List.filter_cons, List.filter_nil]
    by_cases h1 : l < min g lo <;> by_cases h2 : max l hi < g <;> simp only [h1, h2, decide_true, decide_false, if_true, List.cons_append,
      List.nil_append, undefRead, ih, Bool.and_eq_true, decide_eq_true_eq, Bool.false_eq_true, if_false]
    all_goals grind

theorem blank_unlisted (m : Memory) (lo hi a : Nat) (ha : a < lo ∨ hi ≤ a) : (m.blank lo hi).unlisted a = m.unlisted a :=
  undefRead_cut m.undef lo hi a ha

theorem blank_wf (m : Memory) (lo hi : Nat) (h : m.wf = true) : (m.blank lo hi).wf = true := by
  rw [wf_iff] at h ⊢
  refine ⟨h.1.filter _, fun c hc => ?_⟩
  simp only [blank, List.mem_filter, Bool.or_eq_true, decide_eq_true_eq] at hc
  rw [blank_unlisted m lo hi c.1 hc.2]
  exact h.2 c hc.1

theorem zero_wf (m : Memory) (lo hi : Nat) (h : m.wf = true) : (m.zero lo hi).wf = true := wf_congr rfl rfl (blank_wf m lo hi h)

theorem undefine_wf (m : Memory) (lo hi : Nat) (h : m.wf = true) : (m.undefine lo hi).wf = true := by
  have hb := (wf_iff _).1 (blank_wf m lo hi h)
  rw [wf_iff]
  refine ⟨hb.1, fun c hc => ?_⟩
  have hm : c ∈ (m.blank lo hi).cells := hc
  have ho : c.1 < lo ∨ hi ≤ c.1 := by
    simp only [blank, List.mem_filter, Bool.or_eq_true, decide_eq_true_eq] at hm; exact hm.2
  have hu : (m.undefine lo hi).unlisted c.1 = (m.blank lo hi).unlisted c.1 := by
    show undefRead (⟨lo, hi, m.epochs⟩ :: (m.blank lo hi).undef) c.1 = _
    rw [undefRead, if_neg]
    · rfl
    · simp; omega
  rw [hu]; exact hb.2 c hm

theorem restore_wf (m : Memory) (o : Saved) (h : m.wf = true) : (m.restore o).wf = true :=
  wf_congr rfl rfl (writeBytes_wf o.bytes m o.pa h)

theorem writeGuarded_wf (m : Memory) (a : Nat) (bs : List Byte) (h : m.wf = true) : (writeGuarded m a bs).1.wf = true := by
  unfold writeGuarded
  refine heal_wf _ _ _ ?_
  have key : ∀ (l : List (Byte × Nat)) (f : List Nat) (m : Memory), m.wf = true →
      (l.foldl (fun (m : Memory) (p : Byte × Nat) => if f.contains (lineOf (a + p.2)) then m else m.write (a + p.2) p.1) m).wf = true := by
    intro l f
    induction l with
    | nil => exact fun m h => h
    | cons p l ih =>
      intro m h
      rw [List.foldl_cons]
      split
      · exact ih m h
      · exact ih _ (write_wf _ _ _ h)
  exact key _ _ m h

theorem writePieces_wf (ps : List (Nat × Nat)) (m : Memory) (bs : List Byte) (h : m.wf = true) : (writePieces m ps bs).1.wf = true := by
  induction ps generalizing m bs with
  | nil => exact h
  | cons p ps ih => obtain ⟨a, n⟩ := p; exact ih _ _ (writeGuarded_wf m a (bs.take n) h)

end Sys2Proof.Machine.Memory

namespace Sys2Proof.Machine

/-! ### What an access meets -/

theorem recordUncorr_wf (s : State) (pa : Nat) (h : s.mem.wf = true) : (recordUncorr s pa).mem.wf = true := by
  have k : (recordUncorr s pa).mem =
      if s.mem.once.contains (lineOf pa) then { s.mem with once := s.mem.once.filter (· != lineOf pa) } else s.mem.lose pa := by
    unfold recordUncorr
    dsimp only
    split <;> rfl
  rw [k]
  split
  · exact Memory.wf_congr rfl rfl h
  · exact Memory.lose_wf _ _ h

theorem recordCorr_mem (s : State) (pa n : Nat) : (recordCorr s pa n).mem = s.mem := by
  unfold recordCorr
  split
  · rfl
  · split <;> rfl

theorem meetAt_wf (s : State) (pa : Nat) (f : Finding) (h : s.mem.wf = true) : (meetAt s pa f).mem.wf = true := by
  unfold meetAt
  dsimp only
  split
  · exact Memory.lose_wf _ _ (by rw [recordCorr_mem]; exact h)
  · rw [recordCorr_mem]; exact h

theorem clearRepeats_mem (s : State) (ps : List (Nat × Nat)) : (clearRepeats s ps).mem = s.mem := by
  unfold clearRepeats
  dsimp only
  split <;> rfl

theorem recordCorrs_mem (us : List Nat) (s : State) : (us.foldl (fun s u => recordCorr s u 1) s).mem = s.mem := by
  induction us generalizing s with
  | nil => rfl
  | cons u us ih => rw [List.foldl_cons, ih, recordCorr_mem]

/-- A read leaves every cell of memory as it is. -/
theorem readMeets_cells (s : State) (ps : List (Nat × Nat)) :
    (readMeets s ps).1.mem.cells = s.mem.cells ∧ (readMeets s ps).1.mem.undef = s.mem.undef := by
  unfold readMeets
  dsimp only
  rw [clearRepeats_mem]
  split
  · exact ⟨rfl, rfl⟩
  · rw [recordCorrs_mem]; exact ⟨rfl, rfl⟩

theorem readMeets_wf (s : State) (ps : List (Nat × Nat)) (h : s.mem.wf = true) : (readMeets s ps).1.mem.wf = true :=
  Memory.wf_congr (readMeets_cells s ps).1 (readMeets_cells s ps).2 h

theorem writeMeets_wf (s : State) (ps : List (Nat × Nat)) (bs : List Byte) (h : s.mem.wf = true) : (writeMeets s ps bs).1.mem.wf = true :=
  Memory.writePieces_wf ps _ bs (by rw [clearRepeats_mem]; exact readMeets_wf s _ h)

/-- Where no stored data holds an error a read meets nothing. -/
theorem readMeets_free (s : State) (ps : List (Nat × Nat)) (h : errorFree s = true) : readMeets s ps = (s, none) := by
  simp only [errorFree, Bool.and_eq_true, List.isEmpty_iff] at h
  obtain ⟨⟨⟨hb, hs⟩, ho⟩, hr⟩ := h
  have bad : ∀ ps, badPiece s.mem ps = none := by
    intro ps
    induction ps with
    | nil => rfl
    | cons p ps ih => obtain ⟨a, n⟩ := p; simp [badPiece, Memory.badIn, hb, ho, ih]
  simp [readMeets, Memory.softIn, hs, clearRepeats, hr, bad]

/-- Where no stored data holds an error a write meets nothing. -/
theorem writeMeets_free (s : State) (ps : List (Nat × Nat)) (bs : List Byte) (h : errorFree s = true) :
    writeMeets s ps bs = ({ s with mem := (writePieces s.mem ps bs).1 }, (writePieces s.mem ps bs).2) := by
  have c : clearRepeats s ps = s := by
    simp only [errorFree, Bool.and_eq_true] at h
    simp [clearRepeats, h.2]
  simp only [writeMeets, readMeets_free s _ h, c]

/-! ### What an access changes beside memory -/

theorem recordCorr_frame (s : State) (pa n : Nat) :
    recordCorr s pa n = { s with st := (recordCorr s pa n).st, bs := (recordCorr s pa n).bs } := by
  unfold recordCorr
  split
  · rfl
  · split <;> rfl

theorem recordUncorr_frame (s : State) (pa : Nat) :
    recordUncorr s pa = { s with mem := (recordUncorr s pa).mem, st := (recordUncorr s pa).st, bs := (recordUncorr s pa).bs } := by
  unfold recordUncorr
  dsimp only
  split <;> rfl

theorem meetAt_frame (s : State) (pa : Nat) (f : Finding) :
    meetAt s pa f = { s with mem := (meetAt s pa f).mem, st := (meetAt s pa f).st, bs := (meetAt s pa f).bs } := by
  unfold meetAt
  dsimp only
  rw [recordCorr_frame]
  split <;> rfl

theorem clearRepeats_frame (s : State) (ps : List (Nat × Nat)) : clearRepeats s ps = { s with bs := (clearRepeats s ps).bs } := by
  unfold clearRepeats
  dsimp only
  split <;> rfl

theorem recordCorrs_frame (us : List Nat) : ∀ s : State, us.foldl (fun s u => recordCorr s u 1) s =
    { s with st := (us.foldl (fun s u => recordCorr s u 1) s).st, bs := (us.foldl (fun s u => recordCorr s u 1) s).bs } := by
  induction us with
  | nil => exact fun s => rfl
  | cons u us ih =>
    intro s
    rw [List.foldl_cons, ih (recordCorr s u 1), recordCorr_frame s u 1]

/-- A read changes the records of errors alone: the marks of memory, and the registers of stake and of the stacks. -/
theorem readMeets_frame (s : State) (ps : List (Nat × Nat)) :
    (readMeets s ps).1 = { s with mem := (readMeets s ps).1.mem, st := (readMeets s ps).1.st, bs := (readMeets s ps).1.bs } := by
  unfold readMeets
  dsimp only
  rw [clearRepeats_frame]
  split
  · rfl
  · rw [recordCorrs_frame]

/-- A write changes memory, and the registers of stake and of the stacks. -/
theorem writeMeets_frame (s : State) (ps : List (Nat × Nat)) (bs : List Byte) :
    (writeMeets s ps bs).1 = { s with mem := (writeMeets s ps bs).1.mem, st := (writeMeets s ps bs).1.st, bs := (writeMeets s ps bs).1.bs } := by
  unfold writeMeets
  dsimp only
  rw [clearRepeats_frame, readMeets_frame]

/-! ### Bytes read and written as a whole -/

theorem Memory.readBytes_writeBytes (m : Memory) (a : Nat) (bs : List Byte) : (m.writeBytes a bs).readBytes a bs.length = bs := by
  apply List.ext_getElem
  · simp [Memory.readBytes]
  · intro i h1 h2
    simp [Memory.readBytes, Memory.read_writeBytes, h2]

theorem Memory.readBytes_outside (m : Memory) (a : Nat) (bs : List Byte) (b n : Nat) (h : a + bs.length ≤ b) :
    (m.writeBytes a bs).readBytes b n = m.readBytes b n := by
  simp only [Memory.readBytes]
  exact List.map_congr_left fun i _ => Memory.read_writeBytes_outside _ _ _ _ (.inr (by omega))

@[simp] theorem wordBytes_length (ws : List Word) : (wordBytes ws).length = 4 * ws.length := by
  induction ws with
  | nil => rfl
  | cons w ws ih =>
    have e : wordBytes (w :: ws) = Memory.leBytes 4 w.toNat ++ wordBytes ws := rfl
    rw [e, List.length_append, ih, List.length_cons, Nat.mul_succ, Nat.add_comm]; rfl

/-- Words written as bytes read back as the same words (R10). -/
theorem wordsOf_wordBytes (ws : List Word) : wordsOf (wordBytes ws) = ws := by
  have h : ∀ (ws : List Word) (f : Nat), 4 * ws.length ≤ f → (piecesOf 4 f (wordBytes ws)).map (fun b => wd (Memory.ofBytes b)) = ws := by
    intro ws
    induction ws with
    | nil => intro f _; cases f <;> rfl
    | cons w ws ih =>
      intro f hf
      obtain ⟨f, rfl⟩ : ∃ g, f = g + 4 := ⟨f - 4, by simp at hf; omega⟩
      have e : wordBytes (w :: ws) = Memory.leBytes 4 w.toNat ++ wordBytes ws := rfl
      rw [e]
      simp only [Memory.leBytes, List.cons_append, List.nil_append, piecesOf, List.take, List.drop, List.map_cons]
      rw [ih (f + 3) (by simp at hf; omega)]
      congr 1
      apply BitVec.eq_of_toNat_eq
      simp [Memory.ofBytes, wd]
      omega
  exact h ws _ (Nat.le_of_eq (wordBytes_length ws).symm)

end Sys2Proof.Machine
end

