-- ==== Sys2Proof/Laws/Plan.lean ====
section
/-! SUPPORT. The start of a command that names a plan step: it either ends or waits by itself, or goes on with the work that it found. -/

namespace Sys2Proof.Machine

/-- Where nothing holds a start it hands its work on, whatever goes on with it; else it answers by itself. -/
theorem planHolds_cases (s : State) (c : Cmd) (k : Compute) (seqs : List Nat) :
    (∃ v, ∀ fin, planHolds s c k seqs fin = v) ∨ (∃ u y, ∀ fin, planHolds s c k seqs fin = fin u c y) := by
  unfold planHolds
  split
  · exact .inl ⟨_, fun _ => rfl⟩
  · split
    · exact .inr ⟨_, _, fun _ => rfl⟩
    · split
      · exact .inl ⟨_, fun _ => rfl⟩
      · split
        · exact .inl ⟨_, fun _ => rfl⟩
        · exact .inr ⟨_, _, fun _ => rfl⟩

/-- What is left of a start either answers by itself or hands its work on, whatever goes on with it. -/
theorem planRest_cases (s : State) (c : Cmd) (k : Compute) (seqs : List Nat) (more : State → Cmd → Compute → Option Nat) :
    (∃ v, ∀ fin, planRest s c k seqs more fin = v) ∨ (∃ u y, ∀ fin, planRest s c k seqs more fin = fin u c y) := by
  unfold planRest
  split
  · exact .inl ⟨_, fun _ => rfl⟩
  · dsimp only
    split
    · exact .inl ⟨_, fun _ => rfl⟩
    · split
      · exact .inl ⟨_, fun _ => rfl⟩
      · exact planHolds_cases _ _ _ _

theorem plan_cases (args : State → Cmd → State × Option (List Word)) (more : State → Cmd → Compute → Option Nat) (s : State) (c : Cmd) :
    (∃ v, ∀ fin, planWith args more fin s c = v) ∨ (∃ u k, ∀ fin, planWith args more fin s c = fin u c k) := by
  unfold planWith
  repeat' first
    | exact .inl ⟨_, fun _ => rfl⟩
    | exact planRest_cases _ _ _ _ _
    | split
    | dsimp only

end Sys2Proof.Machine
end

