-- ==== Sys2Proof/Laws/Tables.lean ====
section
/-! SUPPORT. Sparse tables: reading after writing. -/

namespace Sys2Proof.Machine

theorem tget_tdel_same {α : Type} (d : α) (t : List (Nat × α)) (i : Nat) : tget d (tdel t i) i = d := by
  induction t with
  | nil => rfl
  | cons p t ih => obtain ⟨k, v⟩ := p; by_cases h : k = i <;> simp [tdel, tget, h, ih]

theorem tget_tdel_other {α : Type} (d : α) (t : List (Nat × α)) {i j : Nat} (h : j ≠ i) : tget d (tdel t i) j = tget d t j := by
  induction t with
  | nil => rfl
  | cons p t ih =>
    obtain ⟨k, v⟩ := p
    by_cases hk : k = i
    · subst hk; simp [tdel, tget, ih, Ne.symm h]
    · simp [tdel, tget, hk, ih]

theorem tget_tput_same {α : Type} (d : α) (t : List (Nat × α)) (i : Nat) (x : α) : tget d (tput t i x) i = x := by
  induction t with
  | nil => simp [tput, tget]
  | cons p t ih => obtain ⟨k, v⟩ := p; by_cases h : k = i <;> by_cases hl : i < k <;> simp [tput, tget, h, hl, ih]

theorem tget_tput_other {α : Type} (d : α) (t : List (Nat × α)) {i j : Nat} (x : α) (h : j ≠ i) :
    tget d (tput t i x) j = tget d t j := by
  induction t with
  | nil => simp [tput, tget, Ne.symm h]
  | cons p t ih =>
    obtain ⟨k, v⟩ := p
    by_cases hk : k = i
    · subst hk; simp [tput, tget, Ne.symm h]
    · by_cases hl : i < k <;> simp [tput, tget, hk, hl, ih, Ne.symm h]

@[simp] theorem tget_tset_same {α : Type} [DecidableEq α] (d : α) (t : List (Nat × α)) (i : Nat) (x : α) :
    tget d (tset d t i x) i = x := by
  unfold tset; split
  · next h => rw [tget_tdel_same, h]
  · exact tget_tput_same d t i x

@[simp] theorem tget_tset_other {α : Type} [DecidableEq α] (d : α) (t : List (Nat × α)) (i j : Nat) (x : α) (h : j ≠ i) :
    tget d (tset d t i x) j = tget d t j := by
  unfold tset; split
  · exact tget_tdel_other d t h
  · exact tget_tput_other d t x h

end Sys2Proof.Machine
end

