-- ==== Sys2Proof/Laws/State.lean ====
section
/-! SUPPORT. What each update of one unit of the state reads as, field by field. -/

namespace Sys2Proof.Machine.State

@[simp] theorem setQueue_arr (s : State) (q : Nat) (x : Queue) : (s.setQueue q x).arr = s.arr := rfl
@[simp] theorem setQueue_rib (s : State) (q : Nat) (x : Queue) : (s.setQueue q x).rib = s.rib := rfl
@[simp] theorem setQueue_st (s : State) (q : Nat) (x : Queue) : (s.setQueue q x).st = s.st := rfl
@[simp] theorem setQueue_sk (s : State) (q : Nat) (x : Queue) : (s.setQueue q x).sk = s.sk := rfl
@[simp] theorem setQueue_bs (s : State) (q : Nat) (x : Queue) : (s.setQueue q x).bs = s.bs := rfl
@[simp] theorem setQueue_rings (s : State) (q : Nat) (x : Queue) : (s.setQueue q x).rings = s.rings := rfl
@[simp] theorem setQueue_cl (s : State) (q : Nat) (x : Queue) : (s.setQueue q x).cl = s.cl := rfl
@[simp] theorem setQueue_sp (s : State) (q : Nat) (x : Queue) : (s.setQueue q x).sp = s.sp := rfl
@[simp] theorem setQueue_hp (s : State) (q : Nat) (x : Queue) : (s.setQueue q x).hp = s.hp := rfl
@[simp] theorem setQueue_tl (s : State) (q : Nat) (x : Queue) : (s.setQueue q x).tl = s.tl := rfl
@[simp] theorem setQueue_bd (s : State) (q : Nat) (x : Queue) : (s.setQueue q x).bd = s.bd := rfl
@[simp] theorem setQueue_hd (s : State) (q : Nat) (x : Queue) : (s.setQueue q x).hd = s.hd := rfl
@[simp] theorem setQueue_jt (s : State) (q : Nat) (x : Queue) : (s.setQueue q x).jt = s.jt := rfl
@[simp] theorem setQueue_mem (s : State) (q : Nat) (x : Queue) : (s.setQueue q x).mem = s.mem := rfl
@[simp] theorem setQueue_bus (s : State) (q : Nat) (x : Queue) : (s.setQueue q x).bus = s.bus := rfl
@[simp] theorem setQueue_free (s : State) (q : Nat) (x : Queue) : (s.setQueue q x).free = s.free := rfl
@[simp] theorem setQueue_pending (s : State) (q : Nat) (x : Queue) : (s.setQueue q x).pending = s.pending := rfl
@[simp] theorem setQueue_cp_time (s : State) (q : Nat) (x : Queue) : (s.setQueue q x).cp.time = s.cp.time := rfl
@[simp] theorem setQueue_cp_events (s : State) (q : Nat) (x : Queue) : (s.setQueue q x).cp.events = s.cp.events := rfl
@[simp] theorem setQueue_cp_table (s : State) (q : Nat) (x : Queue) : (s.setQueue q x).cp.table = s.cp.table := rfl
@[simp] theorem setQueue_cp_nextId (s : State) (q : Nat) (x : Queue) : (s.setQueue q x).cp.nextId = s.cp.nextId := rfl
@[simp] theorem setQueue_cp_lastAccept (s : State) (q : Nat) (x : Queue) : (s.setQueue q x).cp.lastAccept = s.cp.lastAccept := rfl
@[simp] theorem setQueue_cp_lastItem (s : State) (q : Nat) (x : Queue) : (s.setQueue q x).cp.lastItem = s.cp.lastItem := rfl
@[simp] theorem setQueue_cp_cache (s : State) (q : Nat) (x : Queue) : (s.setQueue q x).cp.cache = s.cp.cache := rfl
@[simp] theorem setQueue_cp_flushBusy (s : State) (q : Nat) (x : Queue) : (s.setQueue q x).cp.flushBusy = s.cp.flushBusy := rfl
@[simp] theorem setQueue_cp_diag (s : State) (q : Nat) (x : Queue) : (s.setQueue q x).cp.diag = s.cp.diag := rfl
@[simp] theorem setQueue_cp_redo (s : State) (q : Nat) (x : Queue) : (s.setQueue q x).cp.redo = s.cp.redo := rfl
@[simp] theorem setQueue_cp_releases (s : State) (q : Nat) (x : Queue) : (s.setQueue q x).cp.releases = s.cp.releases := rfl
@[simp] theorem setQueue_cp_internal (s : State) (q : Nat) (x : Queue) : (s.setQueue q x).cp.internal = s.cp.internal := rfl
@[simp] theorem setQueue_queue_same (s : State) (q : Nat) (x : Queue) : (s.setQueue q x).queue q = x := tget_tset_same ..
@[simp] theorem setQueue_queue_other (s : State) (q j : Nat) (x : Queue) (h : j ≠ q) : (s.setQueue q x).queue j = s.queue j := tget_tset_other _ _ _ _ _ h
@[simp] theorem setQueue_event (s : State) (q : Nat) (x : Queue) (j : Nat) : (s.setQueue q x).event j = s.event j := rfl
@[simp] theorem setQueue_array (s : State) (q : Nat) (x : Queue) (j : Nat) : (s.setQueue q x).array j = s.array j := rfl
@[simp] theorem setQueue_ribOf (s : State) (q : Nat) (x : Queue) (j : Nat) : (s.setQueue q x).ribOf j = s.ribOf j := rfl
@[simp] theorem setQueue_streamer (s : State) (q : Nat) (x : Queue) (j : Nat) : (s.setQueue q x).streamer j = s.streamer j := rfl
@[simp] theorem setQueue_base (s : State) (q : Nat) (x : Queue) (j : Nat) : (s.setQueue q x).base j = s.base j := rfl
@[simp] theorem setQueue_port (s : State) (q : Nat) (x : Queue) (j : Nat) : (s.setQueue q x).port j = s.port j := rfl
@[simp] theorem setQueue_slot (s : State) (q : Nat) (x : Queue) (j : Nat) : (s.setQueue q x).slot j = s.slot j := rfl
@[simp] theorem setQueue_desc (s : State) (q : Nat) (x : Queue) (j : Nat) : (s.setQueue q x).desc j = s.desc j := rfl
@[simp] theorem setQueue_window (s : State) (q : Nat) (x : Queue) (j : Nat) : (s.setQueue q x).window j = s.window j := rfl
@[simp] theorem setQueue_die (s : State) (q : Nat) (x : Queue) (j : Nat) : (s.setQueue q x).die j = s.die j := rfl

@[simp] theorem setEvent_arr (s : State) (e : Nat) (x : Event) : (s.setEvent e x).arr = s.arr := rfl
@[simp] theorem setEvent_rib (s : State) (e : Nat) (x : Event) : (s.setEvent e x).rib = s.rib := rfl
@[simp] theorem setEvent_st (s : State) (e : Nat) (x : Event) : (s.setEvent e x).st = s.st := rfl
@[simp] theorem setEvent_sk (s : State) (e : Nat) (x : Event) : (s.setEvent e x).sk = s.sk := rfl
@[simp] theorem setEvent_bs (s : State) (e : Nat) (x : Event) : (s.setEvent e x).bs = s.bs := rfl
@[simp] theorem setEvent_rings (s : State) (e : Nat) (x : Event) : (s.setEvent e x).rings = s.rings := rfl
@[simp] theorem setEvent_cl (s : State) (e : Nat) (x : Event) : (s.setEvent e x).cl = s.cl := rfl
@[simp] theorem setEvent_sp (s : State) (e : Nat) (x : Event) : (s.setEvent e x).sp = s.sp := rfl
@[simp] theorem setEvent_hp (s : State) (e : Nat) (x : Event) : (s.setEvent e x).hp = s.hp := rfl
@[simp] theorem setEvent_tl (s : State) (e : Nat) (x : Event) : (s.setEvent e x).tl = s.tl := rfl
@[simp] theorem setEvent_bd (s : State) (e : Nat) (x : Event) : (s.setEvent e x).bd = s.bd := rfl
@[simp] theorem setEvent_hd (s : State) (e : Nat) (x : Event) : (s.setEvent e x).hd = s.hd := rfl
@[simp] theorem setEvent_jt (s : State) (e : Nat) (x : Event) : (s.setEvent e x).jt = s.jt := rfl
@[simp] theorem setEvent_mem (s : State) (e : Nat) (x : Event) : (s.setEvent e x).mem = s.mem := rfl
@[simp] theorem setEvent_bus (s : State) (e : Nat) (x : Event) : (s.setEvent e x).bus = s.bus := rfl
@[simp] theorem setEvent_free (s : State) (e : Nat) (x : Event) : (s.setEvent e x).free = s.free := rfl
@[simp] theorem setEvent_pending (s : State) (e : Nat) (x : Event) : (s.setEvent e x).pending = s.pending := rfl
@[simp] theorem setEvent_cp_time (s : State) (e : Nat) (x : Event) : (s.setEvent e x).cp.time = s.cp.time := rfl
@[simp] theorem setEvent_cp_queues (s : State) (e : Nat) (x : Event) : (s.setEvent e x).cp.queues = s.cp.queues := rfl
@[simp] theorem setEvent_cp_table (s : State) (e : Nat) (x : Event) : (s.setEvent e x).cp.table = s.cp.table := rfl
@[simp] theorem setEvent_cp_nextId (s : State) (e : Nat) (x : Event) : (s.setEvent e x).cp.nextId = s.cp.nextId := rfl
@[simp] theorem setEvent_cp_lastAccept (s : State) (e : Nat) (x : Event) : (s.setEvent e x).cp.lastAccept = s.cp.lastAccept := rfl
@[simp] theorem setEvent_cp_lastItem (s : State) (e : Nat) (x : Event) : (s.setEvent e x).cp.lastItem = s.cp.lastItem := rfl
@[simp] theorem setEvent_cp_cache (s : State) (e : Nat) (x : Event) : (s.setEvent e x).cp.cache = s.cp.cache := rfl
@[simp] theorem setEvent_cp_flushBusy (s : State) (e : Nat) (x : Event) : (s.setEvent e x).cp.flushBusy = s.cp.flushBusy := rfl
@[simp] theorem setEvent_cp_diag (s : State) (e : Nat) (x : Event) : (s.setEvent e x).cp.diag = s.cp.diag := rfl
@[simp] theorem setEvent_cp_redo (s : State) (e : Nat) (x : Event) : (s.setEvent e x).cp.redo = s.cp.redo := rfl
theorem setEvent_cp_releases (s : State) (e : Nat) (x : Event) : (s.setEvent e x).cp.releases =
    if x.released && !(s.event e).released then tset 0 s.cp.releases e s.cp.time else s.cp.releases := rfl
@[simp] theorem setEvent_cp_internal (s : State) (e : Nat) (x : Event) : (s.setEvent e x).cp.internal = s.cp.internal := rfl
@[simp] theorem setEvent_event_same (s : State) (e : Nat) (x : Event) : (s.setEvent e x).event e = x := tget_tset_same ..
@[simp] theorem setEvent_event_other (s : State) (e j : Nat) (x : Event) (h : j ≠ e) : (s.setEvent e x).event j = s.event j := tget_tset_other _ _ _ _ _ h
@[simp] theorem setEvent_queue (s : State) (e : Nat) (x : Event) (j : Nat) : (s.setEvent e x).queue j = s.queue j := rfl
@[simp] theorem setEvent_array (s : State) (e : Nat) (x : Event) (j : Nat) : (s.setEvent e x).array j = s.array j := rfl
@[simp] theorem setEvent_ribOf (s : State) (e : Nat) (x : Event) (j : Nat) : (s.setEvent e x).ribOf j = s.ribOf j := rfl
@[simp] theorem setEvent_streamer (s : State) (e : Nat) (x : Event) (j : Nat) : (s.setEvent e x).streamer j = s.streamer j := rfl
@[simp] theorem setEvent_base (s : State) (e : Nat) (x : Event) (j : Nat) : (s.setEvent e x).base j = s.base j := rfl
@[simp] theorem setEvent_port (s : State) (e : Nat) (x : Event) (j : Nat) : (s.setEvent e x).port j = s.port j := rfl
@[simp] theorem setEvent_slot (s : State) (e : Nat) (x : Event) (j : Nat) : (s.setEvent e x).slot j = s.slot j := rfl
@[simp] theorem setEvent_desc (s : State) (e : Nat) (x : Event) (j : Nat) : (s.setEvent e x).desc j = s.desc j := rfl
@[simp] theorem setEvent_window (s : State) (e : Nat) (x : Event) (j : Nat) : (s.setEvent e x).window j = s.window j := rfl
@[simp] theorem setEvent_die (s : State) (e : Nat) (x : Event) (j : Nat) : (s.setEvent e x).die j = s.die j := rfl

@[simp] theorem setArray_cp (s : State) (a : Nat) (x : Arr) : (s.setArray a x).cp = s.cp := rfl
@[simp] theorem setArray_rib (s : State) (a : Nat) (x : Arr) : (s.setArray a x).rib = s.rib := rfl
@[simp] theorem setArray_st (s : State) (a : Nat) (x : Arr) : (s.setArray a x).st = s.st := rfl
@[simp] theorem setArray_sk (s : State) (a : Nat) (x : Arr) : (s.setArray a x).sk = s.sk := rfl
@[simp] theorem setArray_bs (s : State) (a : Nat) (x : Arr) : (s.setArray a x).bs = s.bs := rfl
@[simp] theorem setArray_rings (s : State) (a : Nat) (x : Arr) : (s.setArray a x).rings = s.rings := rfl
@[simp] theorem setArray_cl (s : State) (a : Nat) (x : Arr) : (s.setArray a x).cl = s.cl := rfl
@[simp] theorem setArray_sp (s : State) (a : Nat) (x : Arr) : (s.setArray a x).sp = s.sp := rfl
@[simp] theorem setArray_hp (s : State) (a : Nat) (x : Arr) : (s.setArray a x).hp = s.hp := rfl
@[simp] theorem setArray_tl (s : State) (a : Nat) (x : Arr) : (s.setArray a x).tl = s.tl := rfl
@[simp] theorem setArray_bd (s : State) (a : Nat) (x : Arr) : (s.setArray a x).bd = s.bd := rfl
@[simp] theorem setArray_hd (s : State) (a : Nat) (x : Arr) : (s.setArray a x).hd = s.hd := rfl
@[simp] theorem setArray_jt (s : State) (a : Nat) (x : Arr) : (s.setArray a x).jt = s.jt := rfl
@[simp] theorem setArray_mem (s : State) (a : Nat) (x : Arr) : (s.setArray a x).mem = s.mem := rfl
@[simp] theorem setArray_bus (s : State) (a : Nat) (x : Arr) : (s.setArray a x).bus = s.bus := rfl
@[simp] theorem setArray_free (s : State) (a : Nat) (x : Arr) : (s.setArray a x).free = s.free := rfl
@[simp] theorem setArray_pending (s : State) (a : Nat) (x : Arr) : (s.setArray a x).pending = s.pending := rfl
@[simp] theorem setArray_array_same (s : State) (a : Nat) (x : Arr) : (s.setArray a x).array a = x := tget_tset_same ..
@[simp] theorem setArray_array_other (s : State) (a j : Nat) (x : Arr) (h : j ≠ a) : (s.setArray a x).array j = s.array j := tget_tset_other _ _ _ _ _ h
@[simp] theorem setArray_queue (s : State) (a : Nat) (x : Arr) (j : Nat) : (s.setArray a x).queue j = s.queue j := rfl
@[simp] theorem setArray_event (s : State) (a : Nat) (x : Arr) (j : Nat) : (s.setArray a x).event j = s.event j := rfl
@[simp] theorem setArray_ribOf (s : State) (a : Nat) (x : Arr) (j : Nat) : (s.setArray a x).ribOf j = s.ribOf j := rfl
@[simp] theorem setArray_streamer (s : State) (a : Nat) (x : Arr) (j : Nat) : (s.setArray a x).streamer j = s.streamer j := rfl
@[simp] theorem setArray_base (s : State) (a : Nat) (x : Arr) (j : Nat) : (s.setArray a x).base j = s.base j := rfl
@[simp] theorem setArray_port (s : State) (a : Nat) (x : Arr) (j : Nat) : (s.setArray a x).port j = s.port j := rfl
@[simp] theorem setArray_slot (s : State) (a : Nat) (x : Arr) (j : Nat) : (s.setArray a x).slot j = s.slot j := rfl
@[simp] theorem setArray_desc (s : State) (a : Nat) (x : Arr) (j : Nat) : (s.setArray a x).desc j = s.desc j := rfl
@[simp] theorem setArray_window (s : State) (a : Nat) (x : Arr) (j : Nat) : (s.setArray a x).window j = s.window j := rfl
@[simp] theorem setArray_die (s : State) (a : Nat) (x : Arr) (j : Nat) : (s.setArray a x).die j = s.die j := rfl

@[simp] theorem setRib_cp (s : State) (a : Nat) (x : Rib) : (s.setRib a x).cp = s.cp := rfl
@[simp] theorem setRib_arr (s : State) (a : Nat) (x : Rib) : (s.setRib a x).arr = s.arr := rfl
@[simp] theorem setRib_st (s : State) (a : Nat) (x : Rib) : (s.setRib a x).st = s.st := rfl
@[simp] theorem setRib_sk (s : State) (a : Nat) (x : Rib) : (s.setRib a x).sk = s.sk := rfl
@[simp] theorem setRib_bs (s : State) (a : Nat) (x : Rib) : (s.setRib a x).bs = s.bs := rfl
@[simp] theorem setRib_rings (s : State) (a : Nat) (x : Rib) : (s.setRib a x).rings = s.rings := rfl
@[simp] theorem setRib_cl (s : State) (a : Nat) (x : Rib) : (s.setRib a x).cl = s.cl := rfl
@[simp] theorem setRib_sp (s : State) (a : Nat) (x : Rib) : (s.setRib a x).sp = s.sp := rfl
@[simp] theorem setRib_hp (s : State) (a : Nat) (x : Rib) : (s.setRib a x).hp = s.hp := rfl
@[simp] theorem setRib_tl (s : State) (a : Nat) (x : Rib) : (s.setRib a x).tl = s.tl := rfl
@[simp] theorem setRib_bd (s : State) (a : Nat) (x : Rib) : (s.setRib a x).bd = s.bd := rfl
@[simp] theorem setRib_hd (s : State) (a : Nat) (x : Rib) : (s.setRib a x).hd = s.hd := rfl
@[simp] theorem setRib_jt (s : State) (a : Nat) (x : Rib) : (s.setRib a x).jt = s.jt := rfl
@[simp] theorem setRib_mem (s : State) (a : Nat) (x : Rib) : (s.setRib a x).mem = s.mem := rfl
@[simp] theorem setRib_bus (s : State) (a : Nat) (x : Rib) : (s.setRib a x).bus = s.bus := rfl
@[simp] theorem setRib_free (s : State) (a : Nat) (x : Rib) : (s.setRib a x).free = s.free := rfl
@[simp] theorem setRib_pending (s : State) (a : Nat) (x : Rib) : (s.setRib a x).pending = s.pending := rfl
@[simp] theorem setRib_ribOf_same (s : State) (a : Nat) (x : Rib) : (s.setRib a x).ribOf a = x := tget_tset_same ..
@[simp] theorem setRib_ribOf_other (s : State) (a j : Nat) (x : Rib) (h : j ≠ a) : (s.setRib a x).ribOf j = s.ribOf j := tget_tset_other _ _ _ _ _ h
@[simp] theorem setRib_queue (s : State) (a : Nat) (x : Rib) (j : Nat) : (s.setRib a x).queue j = s.queue j := rfl
@[simp] theorem setRib_event (s : State) (a : Nat) (x : Rib) (j : Nat) : (s.setRib a x).event j = s.event j := rfl
@[simp] theorem setRib_array (s : State) (a : Nat) (x : Rib) (j : Nat) : (s.setRib a x).array j = s.array j := rfl
@[simp] theorem setRib_streamer (s : State) (a : Nat) (x : Rib) (j : Nat) : (s.setRib a x).streamer j = s.streamer j := rfl
@[simp] theorem setRib_base (s : State) (a : Nat) (x : Rib) (j : Nat) : (s.setRib a x).base j = s.base j := rfl
@[simp] theorem setRib_port (s : State) (a : Nat) (x : Rib) (j : Nat) : (s.setRib a x).port j = s.port j := rfl
@[simp] theorem setRib_slot (s : State) (a : Nat) (x : Rib) (j : Nat) : (s.setRib a x).slot j = s.slot j := rfl
@[simp] theorem setRib_desc (s : State) (a : Nat) (x : Rib) (j : Nat) : (s.setRib a x).desc j = s.desc j := rfl
@[simp] theorem setRib_window (s : State) (a : Nat) (x : Rib) (j : Nat) : (s.setRib a x).window j = s.window j := rfl
@[simp] theorem setRib_die (s : State) (a : Nat) (x : Rib) (j : Nat) : (s.setRib a x).die j = s.die j := rfl

@[simp] theorem setStreamer_cp (s : State) (n : Nat) (x : Streamer) : (s.setStreamer n x).cp = s.cp := rfl
@[simp] theorem setStreamer_arr (s : State) (n : Nat) (x : Streamer) : (s.setStreamer n x).arr = s.arr := rfl
@[simp] theorem setStreamer_rib (s : State) (n : Nat) (x : Streamer) : (s.setStreamer n x).rib = s.rib := rfl
@[simp] theorem setStreamer_st (s : State) (n : Nat) (x : Streamer) : (s.setStreamer n x).st = s.st := rfl
@[simp] theorem setStreamer_bs (s : State) (n : Nat) (x : Streamer) : (s.setStreamer n x).bs = s.bs := rfl
@[simp] theorem setStreamer_rings (s : State) (n : Nat) (x : Streamer) : (s.setStreamer n x).rings = s.rings := rfl
@[simp] theorem setStreamer_cl (s : State) (n : Nat) (x : Streamer) : (s.setStreamer n x).cl = s.cl := rfl
@[simp] theorem setStreamer_sp (s : State) (n : Nat) (x : Streamer) : (s.setStreamer n x).sp = s.sp := rfl
@[simp] theorem setStreamer_hp (s : State) (n : Nat) (x : Streamer) : (s.setStreamer n x).hp = s.hp := rfl
@[simp] theorem setStreamer_tl (s : State) (n : Nat) (x : Streamer) : (s.setStreamer n x).tl = s.tl := rfl
@[simp] theorem setStreamer_bd (s : State) (n : Nat) (x : Streamer) : (s.setStreamer n x).bd = s.bd := rfl
@[simp] theorem setStreamer_hd (s : State) (n : Nat) (x : Streamer) : (s.setStreamer n x).hd = s.hd := rfl
@[simp] theorem setStreamer_jt (s : State) (n : Nat) (x : Streamer) : (s.setStreamer n x).jt = s.jt := rfl
@[simp] theorem setStreamer_mem (s : State) (n : Nat) (x : Streamer) : (s.setStreamer n x).mem = s.mem := rfl
@[simp] theorem setStreamer_bus (s : State) (n : Nat) (x : Streamer) : (s.setStreamer n x).bus = s.bus := rfl
@[simp] theorem setStreamer_free (s : State) (n : Nat) (x : Streamer) : (s.setStreamer n x).free = s.free := rfl
@[simp] theorem setStreamer_pending (s : State) (n : Nat) (x : Streamer) : (s.setStreamer n x).pending = s.pending := rfl
@[simp] theorem setStreamer_streamer_same (s : State) (n : Nat) (x : Streamer) : (s.setStreamer n x).streamer n = x := tget_tset_same ..
@[simp] theorem setStreamer_streamer_other (s : State) (n j : Nat) (x : Streamer) (h : j ≠ n) : (s.setStreamer n x).streamer j = s.streamer j := tget_tset_other _ _ _ _ _ h
@[simp] theorem setStreamer_queue (s : State) (n : Nat) (x : Streamer) (j : Nat) : (s.setStreamer n x).queue j = s.queue j := rfl
@[simp] theorem setStreamer_event (s : State) (n : Nat) (x : Streamer) (j : Nat) : (s.setStreamer n x).event j = s.event j := rfl
@[simp] theorem setStreamer_array (s : State) (n : Nat) (x : Streamer) (j : Nat) : (s.setStreamer n x).array j = s.array j := rfl
@[simp] theorem setStreamer_ribOf (s : State) (n : Nat) (x : Streamer) (j : Nat) : (s.setStreamer n x).ribOf j = s.ribOf j := rfl
@[simp] theorem setStreamer_base (s : State) (n : Nat) (x : Streamer) (j : Nat) : (s.setStreamer n x).base j = s.base j := rfl
@[simp] theorem setStreamer_port (s : State) (n : Nat) (x : Streamer) (j : Nat) : (s.setStreamer n x).port j = s.port j := rfl
@[simp] theorem setStreamer_slot (s : State) (n : Nat) (x : Streamer) (j : Nat) : (s.setStreamer n x).slot j = s.slot j := rfl
@[simp] theorem setStreamer_desc (s : State) (n : Nat) (x : Streamer) (j : Nat) : (s.setStreamer n x).desc j = s.desc j := rfl
@[simp] theorem setStreamer_window (s : State) (n : Nat) (x : Streamer) (j : Nat) : (s.setStreamer n x).window j = s.window j := rfl
@[simp] theorem setStreamer_die (s : State) (n : Nat) (x : Streamer) (j : Nat) : (s.setStreamer n x).die j = s.die j := rfl

@[simp] theorem setBase_cp (s : State) (n : Nat) (x : BaseCtl) : (s.setBase n x).cp = s.cp := rfl
@[simp] theorem setBase_arr (s : State) (n : Nat) (x : BaseCtl) : (s.setBase n x).arr = s.arr := rfl
@[simp] theorem setBase_rib (s : State) (n : Nat) (x : BaseCtl) : (s.setBase n x).rib = s.rib := rfl
@[simp] theorem setBase_st (s : State) (n : Nat) (x : BaseCtl) : (s.setBase n x).st = s.st := rfl
@[simp] theorem setBase_sk (s : State) (n : Nat) (x : BaseCtl) : (s.setBase n x).sk = s.sk := rfl
@[simp] theorem setBase_rings (s : State) (n : Nat) (x : BaseCtl) : (s.setBase n x).rings = s.rings := rfl
@[simp] theorem setBase_cl (s : State) (n : Nat) (x : BaseCtl) : (s.setBase n x).cl = s.cl := rfl
@[simp] theorem setBase_sp (s : State) (n : Nat) (x : BaseCtl) : (s.setBase n x).sp = s.sp := rfl
@[simp] theorem setBase_hp (s : State) (n : Nat) (x : BaseCtl) : (s.setBase n x).hp = s.hp := rfl
@[simp] theorem setBase_tl (s : State) (n : Nat) (x : BaseCtl) : (s.setBase n x).tl = s.tl := rfl
@[simp] theorem setBase_bd (s : State) (n : Nat) (x : BaseCtl) : (s.setBase n x).bd = s.bd := rfl
@[simp] theorem setBase_hd (s : State) (n : Nat) (x : BaseCtl) : (s.setBase n x).hd = s.hd := rfl
@[simp] theorem setBase_jt (s : State) (n : Nat) (x : BaseCtl) : (s.setBase n x).jt = s.jt := rfl
@[simp] theorem setBase_mem (s : State) (n : Nat) (x : BaseCtl) : (s.setBase n x).mem = s.mem := rfl
@[simp] theorem setBase_bus (s : State) (n : Nat) (x : BaseCtl) : (s.setBase n x).bus = s.bus := rfl
@[simp] theorem setBase_free (s : State) (n : Nat) (x : BaseCtl) : (s.setBase n x).free = s.free := rfl
@[simp] theorem setBase_pending (s : State) (n : Nat) (x : BaseCtl) : (s.setBase n x).pending = s.pending := rfl
@[simp] theorem setBase_base_same (s : State) (n : Nat) (x : BaseCtl) : (s.setBase n x).base n = x := tget_tset_same ..
@[simp] theorem setBase_base_other (s : State) (n j : Nat) (x : BaseCtl) (h : j ≠ n) : (s.setBase n x).base j = s.base j := tget_tset_other _ _ _ _ _ h
@[simp] theorem setBase_queue (s : State) (n : Nat) (x : BaseCtl) (j : Nat) : (s.setBase n x).queue j = s.queue j := rfl
@[simp] theorem setBase_event (s : State) (n : Nat) (x : BaseCtl) (j : Nat) : (s.setBase n x).event j = s.event j := rfl
@[simp] theorem setBase_array (s : State) (n : Nat) (x : BaseCtl) (j : Nat) : (s.setBase n x).array j = s.array j := rfl
@[simp] theorem setBase_ribOf (s : State) (n : Nat) (x : BaseCtl) (j : Nat) : (s.setBase n x).ribOf j = s.ribOf j := rfl
@[simp] theorem setBase_streamer (s : State) (n : Nat) (x : BaseCtl) (j : Nat) : (s.setBase n x).streamer j = s.streamer j := rfl
@[simp] theorem setBase_port (s : State) (n : Nat) (x : BaseCtl) (j : Nat) : (s.setBase n x).port j = s.port j := rfl
@[simp] theorem setBase_slot (s : State) (n : Nat) (x : BaseCtl) (j : Nat) : (s.setBase n x).slot j = s.slot j := rfl
@[simp] theorem setBase_desc (s : State) (n : Nat) (x : BaseCtl) (j : Nat) : (s.setBase n x).desc j = s.desc j := rfl
@[simp] theorem setBase_window (s : State) (n : Nat) (x : BaseCtl) (j : Nat) : (s.setBase n x).window j = s.window j := rfl
@[simp] theorem setBase_die (s : State) (n : Nat) (x : BaseCtl) (j : Nat) : (s.setBase n x).die j = s.die j := rfl

@[simp] theorem setPort_cp (s : State) (p : Nat) (x : Port) : (s.setPort p x).cp = s.cp := rfl
@[simp] theorem setPort_arr (s : State) (p : Nat) (x : Port) : (s.setPort p x).arr = s.arr := rfl
@[simp] theorem setPort_rib (s : State) (p : Nat) (x : Port) : (s.setPort p x).rib = s.rib := rfl
@[simp] theorem setPort_st (s : State) (p : Nat) (x : Port) : (s.setPort p x).st = s.st := rfl
@[simp] theorem setPort_sk (s : State) (p : Nat) (x : Port) : (s.setPort p x).sk = s.sk := rfl
@[simp] theorem setPort_bs (s : State) (p : Nat) (x : Port) : (s.setPort p x).bs = s.bs := rfl
@[simp] theorem setPort_rings (s : State) (p : Nat) (x : Port) : (s.setPort p x).rings = s.rings := rfl
@[simp] theorem setPort_cl (s : State) (p : Nat) (x : Port) : (s.setPort p x).cl = s.cl := rfl
@[simp] theorem setPort_sp (s : State) (p : Nat) (x : Port) : (s.setPort p x).sp = s.sp := rfl
@[simp] theorem setPort_tl (s : State) (p : Nat) (x : Port) : (s.setPort p x).tl = s.tl := rfl
@[simp] theorem setPort_bd (s : State) (p : Nat) (x : Port) : (s.setPort p x).bd = s.bd := rfl
@[simp] theorem setPort_hd (s : State) (p : Nat) (x : Port) : (s.setPort p x).hd = s.hd := rfl
@[simp] theorem setPort_jt (s : State) (p : Nat) (x : Port) : (s.setPort p x).jt = s.jt := rfl
@[simp] theorem setPort_mem (s : State) (p : Nat) (x : Port) : (s.setPort p x).mem = s.mem := rfl
@[simp] theorem setPort_bus (s : State) (p : Nat) (x : Port) : (s.setPort p x).bus = s.bus := rfl
@[simp] theorem setPort_free (s : State) (p : Nat) (x : Port) : (s.setPort p x).free = s.free := rfl
@[simp] theorem setPort_pending (s : State) (p : Nat) (x : Port) : (s.setPort p x).pending = s.pending := rfl
@[simp] theorem setPort_port_same (s : State) (p : Nat) (x : Port) : (s.setPort p x).port p = x := tget_tset_same ..
@[simp] theorem setPort_port_other (s : State) (p j : Nat) (x : Port) (h : j ≠ p) : (s.setPort p x).port j = s.port j := tget_tset_other _ _ _ _ _ h
@[simp] theorem setPort_queue (s : State) (p : Nat) (x : Port) (j : Nat) : (s.setPort p x).queue j = s.queue j := rfl
@[simp] theorem setPort_event (s : State) (p : Nat) (x : Port) (j : Nat) : (s.setPort p x).event j = s.event j := rfl
@[simp] theorem setPort_array (s : State) (p : Nat) (x : Port) (j : Nat) : (s.setPort p x).array j = s.array j := rfl
@[simp] theorem setPort_ribOf (s : State) (p : Nat) (x : Port) (j : Nat) : (s.setPort p x).ribOf j = s.ribOf j := rfl
@[simp] theorem setPort_streamer (s : State) (p : Nat) (x : Port) (j : Nat) : (s.setPort p x).streamer j = s.streamer j := rfl
@[simp] theorem setPort_base (s : State) (p : Nat) (x : Port) (j : Nat) : (s.setPort p x).base j = s.base j := rfl
@[simp] theorem setPort_slot (s : State) (p : Nat) (x : Port) (j : Nat) : (s.setPort p x).slot j = s.slot j := rfl
@[simp] theorem setPort_desc (s : State) (p : Nat) (x : Port) (j : Nat) : (s.setPort p x).desc j = s.desc j := rfl
@[simp] theorem setPort_window (s : State) (p : Nat) (x : Port) (j : Nat) : (s.setPort p x).window j = s.window j := rfl
@[simp] theorem setPort_die (s : State) (p : Nat) (x : Port) (j : Nat) : (s.setPort p x).die j = s.die j := rfl

@[simp] theorem setSlot_cp (s : State) (n : Nat) (x : Slot) : (s.setSlot n x).cp = s.cp := rfl
@[simp] theorem setSlot_arr (s : State) (n : Nat) (x : Slot) : (s.setSlot n x).arr = s.arr := rfl
@[simp] theorem setSlot_rib (s : State) (n : Nat) (x : Slot) : (s.setSlot n x).rib = s.rib := rfl
@[simp] theorem setSlot_st (s : State) (n : Nat) (x : Slot) : (s.setSlot n x).st = s.st := rfl
@[simp] theorem setSlot_sk (s : State) (n : Nat) (x : Slot) : (s.setSlot n x).sk = s.sk := rfl
@[simp] theorem setSlot_bs (s : State) (n : Nat) (x : Slot) : (s.setSlot n x).bs = s.bs := rfl
@[simp] theorem setSlot_rings (s : State) (n : Nat) (x : Slot) : (s.setSlot n x).rings = s.rings := rfl
@[simp] theorem setSlot_cl (s : State) (n : Nat) (x : Slot) : (s.setSlot n x).cl = s.cl := rfl
@[simp] theorem setSlot_sp (s : State) (n : Nat) (x : Slot) : (s.setSlot n x).sp = s.sp := rfl
@[simp] theorem setSlot_hp (s : State) (n : Nat) (x : Slot) : (s.setSlot n x).hp = s.hp := rfl
@[simp] theorem setSlot_bd (s : State) (n : Nat) (x : Slot) : (s.setSlot n x).bd = s.bd := rfl
@[simp] theorem setSlot_hd (s : State) (n : Nat) (x : Slot) : (s.setSlot n x).hd = s.hd := rfl
@[simp] theorem setSlot_jt (s : State) (n : Nat) (x : Slot) : (s.setSlot n x).jt = s.jt := rfl
@[simp] theorem setSlot_mem (s : State) (n : Nat) (x : Slot) : (s.setSlot n x).mem = s.mem := rfl
@[simp] theorem setSlot_bus (s : State) (n : Nat) (x : Slot) : (s.setSlot n x).bus = s.bus := rfl
@[simp] theorem setSlot_free (s : State) (n : Nat) (x : Slot) : (s.setSlot n x).free = s.free := rfl
@[simp] theorem setSlot_pending (s : State) (n : Nat) (x : Slot) : (s.setSlot n x).pending = s.pending := rfl
@[simp] theorem setSlot_slot_same (s : State) (n : Nat) (x : Slot) : (s.setSlot n x).slot n = x := tget_tset_same ..
@[simp] theorem setSlot_slot_other (s : State) (n j : Nat) (x : Slot) (h : j ≠ n) : (s.setSlot n x).slot j = s.slot j := tget_tset_other _ _ _ _ _ h
@[simp] theorem setSlot_queue (s : State) (n : Nat) (x : Slot) (j : Nat) : (s.setSlot n x).queue j = s.queue j := rfl
@[simp] theorem setSlot_event (s : State) (n : Nat) (x : Slot) (j : Nat) : (s.setSlot n x).event j = s.event j := rfl
@[simp] theorem setSlot_array (s : State) (n : Nat) (x : Slot) (j : Nat) : (s.setSlot n x).array j = s.array j := rfl
@[simp] theorem setSlot_ribOf (s : State) (n : Nat) (x : Slot) (j : Nat) : (s.setSlot n x).ribOf j = s.ribOf j := rfl
@[simp] theorem setSlot_streamer (s : State) (n : Nat) (x : Slot) (j : Nat) : (s.setSlot n x).streamer j = s.streamer j := rfl
@[simp] theorem setSlot_base (s : State) (n : Nat) (x : Slot) (j : Nat) : (s.setSlot n x).base j = s.base j := rfl
@[simp] theorem setSlot_port (s : State) (n : Nat) (x : Slot) (j : Nat) : (s.setSlot n x).port j = s.port j := rfl
@[simp] theorem setSlot_desc (s : State) (n : Nat) (x : Slot) (j : Nat) : (s.setSlot n x).desc j = s.desc j := rfl
@[simp] theorem setSlot_window (s : State) (n : Nat) (x : Slot) (j : Nat) : (s.setSlot n x).window j = s.window j := rfl
@[simp] theorem setSlot_die (s : State) (n : Nat) (x : Slot) (j : Nat) : (s.setSlot n x).die j = s.die j := rfl

@[simp] theorem setDesc_cp (s : State) (n : Nat) (x : Desc) : (s.setDesc n x).cp = s.cp := rfl
@[simp] theorem setDesc_arr (s : State) (n : Nat) (x : Desc) : (s.setDesc n x).arr = s.arr := rfl
@[simp] theorem setDesc_rib (s : State) (n : Nat) (x : Desc) : (s.setDesc n x).rib = s.rib := rfl
@[simp] theorem setDesc_st (s : State) (n : Nat) (x : Desc) : (s.setDesc n x).st = s.st := rfl
@[simp] theorem setDesc_sk (s : State) (n : Nat) (x : Desc) : (s.setDesc n x).sk = s.sk := rfl
@[simp] theorem setDesc_bs (s : State) (n : Nat) (x : Desc) : (s.setDesc n x).bs = s.bs := rfl
@[simp] theorem setDesc_rings (s : State) (n : Nat) (x : Desc) : (s.setDesc n x).rings = s.rings := rfl
@[simp] theorem setDesc_sp (s : State) (n : Nat) (x : Desc) : (s.setDesc n x).sp = s.sp := rfl
@[simp] theorem setDesc_hp (s : State) (n : Nat) (x : Desc) : (s.setDesc n x).hp = s.hp := rfl
@[simp] theorem setDesc_tl (s : State) (n : Nat) (x : Desc) : (s.setDesc n x).tl = s.tl := rfl
@[simp] theorem setDesc_bd (s : State) (n : Nat) (x : Desc) : (s.setDesc n x).bd = s.bd := rfl
@[simp] theorem setDesc_hd (s : State) (n : Nat) (x : Desc) : (s.setDesc n x).hd = s.hd := rfl
@[simp] theorem setDesc_jt (s : State) (n : Nat) (x : Desc) : (s.setDesc n x).jt = s.jt := rfl
@[simp] theorem setDesc_mem (s : State) (n : Nat) (x : Desc) : (s.setDesc n x).mem = s.mem := rfl
@[simp] theorem setDesc_bus (s : State) (n : Nat) (x : Desc) : (s.setDesc n x).bus = s.bus := rfl
@[simp] theorem setDesc_free (s : State) (n : Nat) (x : Desc) : (s.setDesc n x).free = s.free := rfl
@[simp] theorem setDesc_pending (s : State) (n : Nat) (x : Desc) : (s.setDesc n x).pending = s.pending := rfl
@[simp] theorem setDesc_desc_same (s : State) (n : Nat) (x : Desc) : (s.setDesc n x).desc n = x := tget_tset_same ..
@[simp] theorem setDesc_desc_other (s : State) (n j : Nat) (x : Desc) (h : j ≠ n) : (s.setDesc n x).desc j = s.desc j := tget_tset_other _ _ _ _ _ h
@[simp] theorem setDesc_queue (s : State) (n : Nat) (x : Desc) (j : Nat) : (s.setDesc n x).queue j = s.queue j := rfl
@[simp] theorem setDesc_event (s : State) (n : Nat) (x : Desc) (j : Nat) : (s.setDesc n x).event j = s.event j := rfl
@[simp] theorem setDesc_array (s : State) (n : Nat) (x : Desc) (j : Nat) : (s.setDesc n x).array j = s.array j := rfl
@[simp] theorem setDesc_ribOf (s : State) (n : Nat) (x : Desc) (j : Nat) : (s.setDesc n x).ribOf j = s.ribOf j := rfl
@[simp] theorem setDesc_streamer (s : State) (n : Nat) (x : Desc) (j : Nat) : (s.setDesc n x).streamer j = s.streamer j := rfl
@[simp] theorem setDesc_base (s : State) (n : Nat) (x : Desc) (j : Nat) : (s.setDesc n x).base j = s.base j := rfl
@[simp] theorem setDesc_port (s : State) (n : Nat) (x : Desc) (j : Nat) : (s.setDesc n x).port j = s.port j := rfl
@[simp] theorem setDesc_slot (s : State) (n : Nat) (x : Desc) (j : Nat) : (s.setDesc n x).slot j = s.slot j := rfl
@[simp] theorem setDesc_window (s : State) (n : Nat) (x : Desc) (j : Nat) : (s.setDesc n x).window j = s.window j := rfl
@[simp] theorem setDesc_die (s : State) (n : Nat) (x : Desc) (j : Nat) : (s.setDesc n x).die j = s.die j := rfl

@[simp] theorem setWindow_cp (s : State) (w : Nat) (x : Window) : (s.setWindow w x).cp = s.cp := rfl
@[simp] theorem setWindow_arr (s : State) (w : Nat) (x : Window) : (s.setWindow w x).arr = s.arr := rfl
@[simp] theorem setWindow_rib (s : State) (w : Nat) (x : Window) : (s.setWindow w x).rib = s.rib := rfl
@[simp] theorem setWindow_st (s : State) (w : Nat) (x : Window) : (s.setWindow w x).st = s.st := rfl
@[simp] theorem setWindow_sk (s : State) (w : Nat) (x : Window) : (s.setWindow w x).sk = s.sk := rfl
@[simp] theorem setWindow_bs (s : State) (w : Nat) (x : Window) : (s.setWindow w x).bs = s.bs := rfl
@[simp] theorem setWindow_rings (s : State) (w : Nat) (x : Window) : (s.setWindow w x).rings = s.rings := rfl
@[simp] theorem setWindow_cl (s : State) (w : Nat) (x : Window) : (s.setWindow w x).cl = s.cl := rfl
@[simp] theorem setWindow_hp (s : State) (w : Nat) (x : Window) : (s.setWindow w x).hp = s.hp := rfl
@[simp] theorem setWindow_tl (s : State) (w : Nat) (x : Window) : (s.setWindow w x).tl = s.tl := rfl
@[simp] theorem setWindow_bd (s : State) (w : Nat) (x : Window) : (s.setWindow w x).bd = s.bd := rfl
@[simp] theorem setWindow_hd (s : State) (w : Nat) (x : Window) : (s.setWindow w x).hd = s.hd := rfl
@[simp] theorem setWindow_jt (s : State) (w : Nat) (x : Window) : (s.setWindow w x).jt = s.jt := rfl
@[simp] theorem setWindow_mem (s : State) (w : Nat) (x : Window) : (s.setWindow w x).mem = s.mem := rfl
@[simp] theorem setWindow_bus (s : State) (w : Nat) (x : Window) : (s.setWindow w x).bus = s.bus := rfl
@[simp] theorem setWindow_free (s : State) (w : Nat) (x : Window) : (s.setWindow w x).free = s.free := rfl
@[simp] theorem setWindow_pending (s : State) (w : Nat) (x : Window) : (s.setWindow w x).pending = s.pending := rfl
@[simp] theorem setWindow_window_same (s : State) (w : Nat) (x : Window) : (s.setWindow w x).window w = x := tget_tset_same ..
@[simp] theorem setWindow_window_other (s : State) (w j : Nat) (x : Window) (h : j ≠ w) : (s.setWindow w x).window j = s.window j := tget_tset_other _ _ _ _ _ h
@[simp] theorem setWindow_queue (s : State) (w : Nat) (x : Window) (j : Nat) : (s.setWindow w x).queue j = s.queue j := rfl
@[simp] theorem setWindow_event (s : State) (w : Nat) (x : Window) (j : Nat) : (s.setWindow w x).event j = s.event j := rfl
@[simp] theorem setWindow_array (s : State) (w : Nat) (x : Window) (j : Nat) : (s.setWindow w x).array j = s.array j := rfl
@[simp] theorem setWindow_ribOf (s : State) (w : Nat) (x : Window) (j : Nat) : (s.setWindow w x).ribOf j = s.ribOf j := rfl
@[simp] theorem setWindow_streamer (s : State) (w : Nat) (x : Window) (j : Nat) : (s.setWindow w x).streamer j = s.streamer j := rfl
@[simp] theorem setWindow_base (s : State) (w : Nat) (x : Window) (j : Nat) : (s.setWindow w x).base j = s.base j := rfl
@[simp] theorem setWindow_port (s : State) (w : Nat) (x : Window) (j : Nat) : (s.setWindow w x).port j = s.port j := rfl
@[simp] theorem setWindow_slot (s : State) (w : Nat) (x : Window) (j : Nat) : (s.setWindow w x).slot j = s.slot j := rfl
@[simp] theorem setWindow_desc (s : State) (w : Nat) (x : Window) (j : Nat) : (s.setWindow w x).desc j = s.desc j := rfl
@[simp] theorem setWindow_die (s : State) (w : Nat) (x : Window) (j : Nat) : (s.setWindow w x).die j = s.die j := rfl

@[simp] theorem setDie_cp (s : State) (d : Nat) (x : Jtag) : (s.setDie d x).cp = s.cp := rfl
@[simp] theorem setDie_arr (s : State) (d : Nat) (x : Jtag) : (s.setDie d x).arr = s.arr := rfl
@[simp] theorem setDie_rib (s : State) (d : Nat) (x : Jtag) : (s.setDie d x).rib = s.rib := rfl
@[simp] theorem setDie_st (s : State) (d : Nat) (x : Jtag) : (s.setDie d x).st = s.st := rfl
@[simp] theorem setDie_sk (s : State) (d : Nat) (x : Jtag) : (s.setDie d x).sk = s.sk := rfl
@[simp] theorem setDie_bs (s : State) (d : Nat) (x : Jtag) : (s.setDie d x).bs = s.bs := rfl
@[simp] theorem setDie_rings (s : State) (d : Nat) (x : Jtag) : (s.setDie d x).rings = s.rings := rfl
@[simp] theorem setDie_cl (s : State) (d : Nat) (x : Jtag) : (s.setDie d x).cl = s.cl := rfl
@[simp] theorem setDie_sp (s : State) (d : Nat) (x : Jtag) : (s.setDie d x).sp = s.sp := rfl
@[simp] theorem setDie_hp (s : State) (d : Nat) (x : Jtag) : (s.setDie d x).hp = s.hp := rfl
@[simp] theorem setDie_tl (s : State) (d : Nat) (x : Jtag) : (s.setDie d x).tl = s.tl := rfl
@[simp] theorem setDie_bd (s : State) (d : Nat) (x : Jtag) : (s.setDie d x).bd = s.bd := rfl
@[simp] theorem setDie_hd (s : State) (d : Nat) (x : Jtag) : (s.setDie d x).hd = s.hd := rfl
@[simp] theorem setDie_mem (s : State) (d : Nat) (x : Jtag) : (s.setDie d x).mem = s.mem := rfl
@[simp] theorem setDie_bus (s : State) (d : Nat) (x : Jtag) : (s.setDie d x).bus = s.bus := rfl
@[simp] theorem setDie_free (s : State) (d : Nat) (x : Jtag) : (s.setDie d x).free = s.free := rfl
@[simp] theorem setDie_pending (s : State) (d : Nat) (x : Jtag) : (s.setDie d x).pending = s.pending := rfl
@[simp] theorem setDie_die_same (s : State) (d : Nat) (x : Jtag) : (s.setDie d x).die d = x := tget_tset_same ..
@[simp] theorem setDie_die_other (s : State) (d j : Nat) (x : Jtag) (h : j ≠ d) : (s.setDie d x).die j = s.die j := tget_tset_other _ _ _ _ _ h
@[simp] theorem setDie_queue (s : State) (d : Nat) (x : Jtag) (j : Nat) : (s.setDie d x).queue j = s.queue j := rfl
@[simp] theorem setDie_event (s : State) (d : Nat) (x : Jtag) (j : Nat) : (s.setDie d x).event j = s.event j := rfl
@[simp] theorem setDie_array (s : State) (d : Nat) (x : Jtag) (j : Nat) : (s.setDie d x).array j = s.array j := rfl
@[simp] theorem setDie_ribOf (s : State) (d : Nat) (x : Jtag) (j : Nat) : (s.setDie d x).ribOf j = s.ribOf j := rfl
@[simp] theorem setDie_streamer (s : State) (d : Nat) (x : Jtag) (j : Nat) : (s.setDie d x).streamer j = s.streamer j := rfl
@[simp] theorem setDie_base (s : State) (d : Nat) (x : Jtag) (j : Nat) : (s.setDie d x).base j = s.base j := rfl
@[simp] theorem setDie_port (s : State) (d : Nat) (x : Jtag) (j : Nat) : (s.setDie d x).port j = s.port j := rfl
@[simp] theorem setDie_slot (s : State) (d : Nat) (x : Jtag) (j : Nat) : (s.setDie d x).slot j = s.slot j := rfl
@[simp] theorem setDie_desc (s : State) (d : Nat) (x : Jtag) (j : Nat) : (s.setDie d x).desc j = s.desc j := rfl
@[simp] theorem setDie_window (s : State) (d : Nat) (x : Jtag) (j : Nat) : (s.setDie d x).window j = s.window j := rfl

@[simp] theorem mapCmd_arr (s : State) (id : Nat) (f : Cmd → Cmd) : (s.mapCmd id f).arr = s.arr := rfl
@[simp] theorem dropCmd_arr (s : State) (id : Nat) : (s.dropCmd id).arr = s.arr := rfl
@[simp] theorem mapCmd_rib (s : State) (id : Nat) (f : Cmd → Cmd) : (s.mapCmd id f).rib = s.rib := rfl
@[simp] theorem dropCmd_rib (s : State) (id : Nat) : (s.dropCmd id).rib = s.rib := rfl
@[simp] theorem mapCmd_st (s : State) (id : Nat) (f : Cmd → Cmd) : (s.mapCmd id f).st = s.st := rfl
@[simp] theorem dropCmd_st (s : State) (id : Nat) : (s.dropCmd id).st = s.st := rfl
@[simp] theorem mapCmd_sk (s : State) (id : Nat) (f : Cmd → Cmd) : (s.mapCmd id f).sk = s.sk := rfl
@[simp] theorem dropCmd_sk (s : State) (id : Nat) : (s.dropCmd id).sk = s.sk := rfl
@[simp] theorem mapCmd_bs (s : State) (id : Nat) (f : Cmd → Cmd) : (s.mapCmd id f).bs = s.bs := rfl
@[simp] theorem dropCmd_bs (s : State) (id : Nat) : (s.dropCmd id).bs = s.bs := rfl
@[simp] theorem mapCmd_rings (s : State) (id : Nat) (f : Cmd → Cmd) : (s.mapCmd id f).rings = s.rings := rfl
@[simp] theorem dropCmd_rings (s : State) (id : Nat) : (s.dropCmd id).rings = s.rings := rfl
@[simp] theorem mapCmd_cl (s : State) (id : Nat) (f : Cmd → Cmd) : (s.mapCmd id f).cl = s.cl := rfl
@[simp] theorem dropCmd_cl (s : State) (id : Nat) : (s.dropCmd id).cl = s.cl := rfl
@[simp] theorem mapCmd_sp (s : State) (id : Nat) (f : Cmd → Cmd) : (s.mapCmd id f).sp = s.sp := rfl
@[simp] theorem dropCmd_sp (s : State) (id : Nat) : (s.dropCmd id).sp = s.sp := rfl
@[simp] theorem mapCmd_hp (s : State) (id : Nat) (f : Cmd → Cmd) : (s.mapCmd id f).hp = s.hp := rfl
@[simp] theorem dropCmd_hp (s : State) (id : Nat) : (s.dropCmd id).hp = s.hp := rfl
@[simp] theorem mapCmd_tl (s : State) (id : Nat) (f : Cmd → Cmd) : (s.mapCmd id f).tl = s.tl := rfl
@[simp] theorem dropCmd_tl (s : State) (id : Nat) : (s.dropCmd id).tl = s.tl := rfl
@[simp] theorem mapCmd_bd (s : State) (id : Nat) (f : Cmd → Cmd) : (s.mapCmd id f).bd = s.bd := rfl
@[simp] theorem dropCmd_bd (s : State) (id : Nat) : (s.dropCmd id).bd = s.bd := rfl
@[simp] theorem mapCmd_hd (s : State) (id : Nat) (f : Cmd → Cmd) : (s.mapCmd id f).hd = s.hd := rfl
@[simp] theorem dropCmd_hd (s : State) (id : Nat) : (s.dropCmd id).hd = s.hd := rfl
@[simp] theorem mapCmd_jt (s : State) (id : Nat) (f : Cmd → Cmd) : (s.mapCmd id f).jt = s.jt := rfl
@[simp] theorem dropCmd_jt (s : State) (id : Nat) : (s.dropCmd id).jt = s.jt := rfl
@[simp] theorem mapCmd_mem (s : State) (id : Nat) (f : Cmd → Cmd) : (s.mapCmd id f).mem = s.mem := rfl
@[simp] theorem dropCmd_mem (s : State) (id : Nat) : (s.dropCmd id).mem = s.mem := rfl
@[simp] theorem mapCmd_bus (s : State) (id : Nat) (f : Cmd → Cmd) : (s.mapCmd id f).bus = s.bus := rfl
@[simp] theorem dropCmd_bus (s : State) (id : Nat) : (s.dropCmd id).bus = s.bus := rfl
@[simp] theorem mapCmd_free (s : State) (id : Nat) (f : Cmd → Cmd) : (s.mapCmd id f).free = s.free := rfl
@[simp] theorem dropCmd_free (s : State) (id : Nat) : (s.dropCmd id).free = s.free := rfl
@[simp] theorem mapCmd_pending (s : State) (id : Nat) (f : Cmd → Cmd) : (s.mapCmd id f).pending = s.pending := rfl
@[simp] theorem dropCmd_pending (s : State) (id : Nat) : (s.dropCmd id).pending = s.pending := rfl
@[simp] theorem mapCmd_cp_time (s : State) (id : Nat) (f : Cmd → Cmd) : (s.mapCmd id f).cp.time = s.cp.time := rfl
@[simp] theorem mapCmd_cp_queues (s : State) (id : Nat) (f : Cmd → Cmd) : (s.mapCmd id f).cp.queues = s.cp.queues := rfl
@[simp] theorem mapCmd_cp_events (s : State) (id : Nat) (f : Cmd → Cmd) : (s.mapCmd id f).cp.events = s.cp.events := rfl
@[simp] theorem mapCmd_cp_nextId (s : State) (id : Nat) (f : Cmd → Cmd) : (s.mapCmd id f).cp.nextId = s.cp.nextId := rfl
@[simp] theorem mapCmd_cp_lastAccept (s : State) (id : Nat) (f : Cmd → Cmd) : (s.mapCmd id f).cp.lastAccept = s.cp.lastAccept := rfl
@[simp] theorem mapCmd_cp_lastItem (s : State) (id : Nat) (f : Cmd → Cmd) : (s.mapCmd id f).cp.lastItem = s.cp.lastItem := rfl
@[simp] theorem mapCmd_cp_cache (s : State) (id : Nat) (f : Cmd → Cmd) : (s.mapCmd id f).cp.cache = s.cp.cache := rfl
@[simp] theorem mapCmd_cp_flushBusy (s : State) (id : Nat) (f : Cmd → Cmd) : (s.mapCmd id f).cp.flushBusy = s.cp.flushBusy := rfl
@[simp] theorem mapCmd_cp_diag (s : State) (id : Nat) (f : Cmd → Cmd) : (s.mapCmd id f).cp.diag = s.cp.diag := rfl
@[simp] theorem mapCmd_cp_redo (s : State) (id : Nat) (f : Cmd → Cmd) : (s.mapCmd id f).cp.redo = s.cp.redo := rfl
@[simp] theorem mapCmd_cp_releases (s : State) (id : Nat) (f : Cmd → Cmd) : (s.mapCmd id f).cp.releases = s.cp.releases := rfl
@[simp] theorem mapCmd_cp_internal (s : State) (id : Nat) (f : Cmd → Cmd) : (s.mapCmd id f).cp.internal = s.cp.internal := rfl
@[simp] theorem mapCmd_queue (s : State) (id : Nat) (f : Cmd → Cmd) (j : Nat) : (s.mapCmd id f).queue j = s.queue j := rfl
@[simp] theorem mapCmd_event (s : State) (id : Nat) (f : Cmd → Cmd) (j : Nat) : (s.mapCmd id f).event j = s.event j := rfl
@[simp] theorem mapCmd_array (s : State) (id : Nat) (f : Cmd → Cmd) (j : Nat) : (s.mapCmd id f).array j = s.array j := rfl
@[simp] theorem mapCmd_ribOf (s : State) (id : Nat) (f : Cmd → Cmd) (j : Nat) : (s.mapCmd id f).ribOf j = s.ribOf j := rfl
@[simp] theorem mapCmd_streamer (s : State) (id : Nat) (f : Cmd → Cmd) (j : Nat) : (s.mapCmd id f).streamer j = s.streamer j := rfl
@[simp] theorem mapCmd_base (s : State) (id : Nat) (f : Cmd → Cmd) (j : Nat) : (s.mapCmd id f).base j = s.base j := rfl
@[simp] theorem mapCmd_port (s : State) (id : Nat) (f : Cmd → Cmd) (j : Nat) : (s.mapCmd id f).port j = s.port j := rfl
@[simp] theorem mapCmd_slot (s : State) (id : Nat) (f : Cmd → Cmd) (j : Nat) : (s.mapCmd id f).slot j = s.slot j := rfl
@[simp] theorem mapCmd_desc (s : State) (id : Nat) (f : Cmd → Cmd) (j : Nat) : (s.mapCmd id f).desc j = s.desc j := rfl
@[simp] theorem mapCmd_window (s : State) (id : Nat) (f : Cmd → Cmd) (j : Nat) : (s.mapCmd id f).window j = s.window j := rfl
@[simp] theorem mapCmd_die (s : State) (id : Nat) (f : Cmd → Cmd) (j : Nat) : (s.mapCmd id f).die j = s.die j := rfl
@[simp] theorem dropCmd_cp_time (s : State) (id : Nat) : (s.dropCmd id).cp.time = s.cp.time := rfl
@[simp] theorem dropCmd_cp_queues (s : State) (id : Nat) : (s.dropCmd id).cp.queues = s.cp.queues := rfl
@[simp] theorem dropCmd_cp_events (s : State) (id : Nat) : (s.dropCmd id).cp.events = s.cp.events := rfl
@[simp] theorem dropCmd_cp_nextId (s : State) (id : Nat) : (s.dropCmd id).cp.nextId = s.cp.nextId := rfl
@[simp] theorem dropCmd_cp_lastAccept (s : State) (id : Nat) : (s.dropCmd id).cp.lastAccept = s.cp.lastAccept := rfl
@[simp] theorem dropCmd_cp_lastItem (s : State) (id : Nat) : (s.dropCmd id).cp.lastItem = s.cp.lastItem := rfl
@[simp] theorem dropCmd_cp_cache (s : State) (id : Nat) : (s.dropCmd id).cp.cache = s.cp.cache := rfl
@[simp] theorem dropCmd_cp_flushBusy (s : State) (id : Nat) : (s.dropCmd id).cp.flushBusy = s.cp.flushBusy := rfl
@[simp] theorem dropCmd_cp_diag (s : State) (id : Nat) : (s.dropCmd id).cp.diag = s.cp.diag := rfl
@[simp] theorem dropCmd_cp_redo (s : State) (id : Nat) : (s.dropCmd id).cp.redo = s.cp.redo := rfl
@[simp] theorem dropCmd_cp_releases (s : State) (id : Nat) : (s.dropCmd id).cp.releases = s.cp.releases := rfl
@[simp] theorem dropCmd_cp_internal (s : State) (id : Nat) : (s.dropCmd id).cp.internal = s.cp.internal := rfl
@[simp] theorem dropCmd_queue (s : State) (id : Nat) (j : Nat) : (s.dropCmd id).queue j = s.queue j := rfl
@[simp] theorem dropCmd_event (s : State) (id : Nat) (j : Nat) : (s.dropCmd id).event j = s.event j := rfl
@[simp] theorem dropCmd_array (s : State) (id : Nat) (j : Nat) : (s.dropCmd id).array j = s.array j := rfl
@[simp] theorem dropCmd_ribOf (s : State) (id : Nat) (j : Nat) : (s.dropCmd id).ribOf j = s.ribOf j := rfl
@[simp] theorem dropCmd_streamer (s : State) (id : Nat) (j : Nat) : (s.dropCmd id).streamer j = s.streamer j := rfl
@[simp] theorem dropCmd_base (s : State) (id : Nat) (j : Nat) : (s.dropCmd id).base j = s.base j := rfl
@[simp] theorem dropCmd_port (s : State) (id : Nat) (j : Nat) : (s.dropCmd id).port j = s.port j := rfl
@[simp] theorem dropCmd_slot (s : State) (id : Nat) (j : Nat) : (s.dropCmd id).slot j = s.slot j := rfl
@[simp] theorem dropCmd_desc (s : State) (id : Nat) (j : Nat) : (s.dropCmd id).desc j = s.desc j := rfl
@[simp] theorem dropCmd_window (s : State) (id : Nat) (j : Nat) : (s.dropCmd id).window j = s.window j := rfl
@[simp] theorem dropCmd_die (s : State) (id : Nat) (j : Nat) : (s.dropCmd id).die j = s.die j := rfl

@[simp] theorem setRing_cp (s : State) (r : Nat) (x : SlotRing) : (s.setRing r x).cp = s.cp := rfl
@[simp] theorem setRing_arr (s : State) (r : Nat) (x : SlotRing) : (s.setRing r x).arr = s.arr := rfl
@[simp] theorem setRing_rib (s : State) (r : Nat) (x : SlotRing) : (s.setRing r x).rib = s.rib := rfl
@[simp] theorem setRing_st (s : State) (r : Nat) (x : SlotRing) : (s.setRing r x).st = s.st := rfl
@[simp] theorem setRing_sk (s : State) (r : Nat) (x : SlotRing) : (s.setRing r x).sk = s.sk := rfl
@[simp] theorem setRing_bs (s : State) (r : Nat) (x : SlotRing) : (s.setRing r x).bs = s.bs := rfl
@[simp] theorem setRing_cl (s : State) (r : Nat) (x : SlotRing) : (s.setRing r x).cl = s.cl := rfl
@[simp] theorem setRing_sp (s : State) (r : Nat) (x : SlotRing) : (s.setRing r x).sp = s.sp := rfl
@[simp] theorem setRing_hp (s : State) (r : Nat) (x : SlotRing) : (s.setRing r x).hp = s.hp := rfl
@[simp] theorem setRing_tl (s : State) (r : Nat) (x : SlotRing) : (s.setRing r x).tl = s.tl := rfl
@[simp] theorem setRing_bd (s : State) (r : Nat) (x : SlotRing) : (s.setRing r x).bd = s.bd := rfl
@[simp] theorem setRing_hd (s : State) (r : Nat) (x : SlotRing) : (s.setRing r x).hd = s.hd := rfl
@[simp] theorem setRing_jt (s : State) (r : Nat) (x : SlotRing) : (s.setRing r x).jt = s.jt := rfl
@[simp] theorem setRing_mem (s : State) (r : Nat) (x : SlotRing) : (s.setRing r x).mem = s.mem := rfl
@[simp] theorem setRing_bus (s : State) (r : Nat) (x : SlotRing) : (s.setRing r x).bus = s.bus := rfl
@[simp] theorem setRing_free (s : State) (r : Nat) (x : SlotRing) : (s.setRing r x).free = s.free := rfl
@[simp] theorem setRing_pending (s : State) (r : Nat) (x : SlotRing) : (s.setRing r x).pending = s.pending := rfl
@[simp] theorem setRing_ringAt_same (s : State) (r : Nat) (x : SlotRing) : (s.setRing r x).ringAt r = x := tget_tset_same ..
@[simp] theorem setRing_ringAt_other (s : State) (r j : Nat) (x : SlotRing) (h : j ≠ r) : (s.setRing r x).ringAt j = s.ringAt j := tget_tset_other _ _ _ _ _ h
@[simp] theorem setRing_queue (s : State) (r : Nat) (x : SlotRing) (j : Nat) : (s.setRing r x).queue j = s.queue j := rfl
@[simp] theorem setRing_event (s : State) (r : Nat) (x : SlotRing) (j : Nat) : (s.setRing r x).event j = s.event j := rfl
@[simp] theorem setRing_array (s : State) (r : Nat) (x : SlotRing) (j : Nat) : (s.setRing r x).array j = s.array j := rfl
@[simp] theorem setRing_ribOf (s : State) (r : Nat) (x : SlotRing) (j : Nat) : (s.setRing r x).ribOf j = s.ribOf j := rfl
@[simp] theorem setRing_streamer (s : State) (r : Nat) (x : SlotRing) (j : Nat) : (s.setRing r x).streamer j = s.streamer j := rfl
@[simp] theorem setRing_base (s : State) (r : Nat) (x : SlotRing) (j : Nat) : (s.setRing r x).base j = s.base j := rfl
@[simp] theorem setRing_port (s : State) (r : Nat) (x : SlotRing) (j : Nat) : (s.setRing r x).port j = s.port j := rfl
@[simp] theorem setRing_slot (s : State) (r : Nat) (x : SlotRing) (j : Nat) : (s.setRing r x).slot j = s.slot j := rfl
@[simp] theorem setRing_desc (s : State) (r : Nat) (x : SlotRing) (j : Nat) : (s.setRing r x).desc j = s.desc j := rfl
@[simp] theorem setRing_window (s : State) (r : Nat) (x : SlotRing) (j : Nat) : (s.setRing r x).window j = s.window j := rfl
@[simp] theorem setRing_die (s : State) (r : Nat) (x : SlotRing) (j : Nat) : (s.setRing r x).die j = s.die j := rfl
@[simp] theorem setArray_ringAt (s : State) (a : Nat) (x : Arr) (j : Nat) : (s.setArray a x).ringAt j = s.ringAt j := rfl
@[simp] theorem setBase_ringAt (s : State) (n : Nat) (x : BaseCtl) (j : Nat) : (s.setBase n x).ringAt j = s.ringAt j := rfl
@[simp] theorem setDie_ringAt (s : State) (d : Nat) (x : Jtag) (j : Nat) : (s.setDie d x).ringAt j = s.ringAt j := rfl
@[simp] theorem setEvent_ringAt (s : State) (e : Nat) (x : Event) (j : Nat) : (s.setEvent e x).ringAt j = s.ringAt j := rfl
@[simp] theorem setPort_ringAt (s : State) (p : Nat) (x : Port) (j : Nat) : (s.setPort p x).ringAt j = s.ringAt j := rfl
@[simp] theorem setQueue_ringAt (s : State) (q : Nat) (x : Queue) (j : Nat) : (s.setQueue q x).ringAt j = s.ringAt j := rfl
@[simp] theorem setRib_ringAt (s : State) (a : Nat) (x : Rib) (j : Nat) : (s.setRib a x).ringAt j = s.ringAt j := rfl
@[simp] theorem setSlot_ringAt (s : State) (n : Nat) (x : Slot) (j : Nat) : (s.setSlot n x).ringAt j = s.ringAt j := rfl
@[simp] theorem setStreamer_ringAt (s : State) (n : Nat) (x : Streamer) (j : Nat) : (s.setStreamer n x).ringAt j = s.ringAt j := rfl
@[simp] theorem setWindow_ringAt (s : State) (w : Nat) (x : Window) (j : Nat) : (s.setWindow w x).ringAt j = s.ringAt j := rfl

/-! ### Events on their way to Tally -/

@[simp] theorem noteEvent_cp (s : State) (code unit n : Nat) : (noteEvent s code unit n).cp = s.cp := by unfold noteEvent; split <;> rfl
@[simp] theorem noteEvent_arr (s : State) (code unit n : Nat) : (noteEvent s code unit n).arr = s.arr := by unfold noteEvent; split <;> rfl
@[simp] theorem noteEvent_rib (s : State) (code unit n : Nat) : (noteEvent s code unit n).rib = s.rib := by unfold noteEvent; split <;> rfl
@[simp] theorem noteEvent_st (s : State) (code unit n : Nat) : (noteEvent s code unit n).st = s.st := by unfold noteEvent; split <;> rfl
@[simp] theorem noteEvent_sk (s : State) (code unit n : Nat) : (noteEvent s code unit n).sk = s.sk := by unfold noteEvent; split <;> rfl
@[simp] theorem noteEvent_bs (s : State) (code unit n : Nat) : (noteEvent s code unit n).bs = s.bs := by unfold noteEvent; split <;> rfl
@[simp] theorem noteEvent_rings (s : State) (code unit n : Nat) : (noteEvent s code unit n).rings = s.rings := by unfold noteEvent; split <;> rfl
@[simp] theorem noteEvent_cl (s : State) (code unit n : Nat) : (noteEvent s code unit n).cl = s.cl := by unfold noteEvent; split <;> rfl
@[simp] theorem noteEvent_sp (s : State) (code unit n : Nat) : (noteEvent s code unit n).sp = s.sp := by unfold noteEvent; split <;> rfl
@[simp] theorem noteEvent_hp (s : State) (code unit n : Nat) : (noteEvent s code unit n).hp = s.hp := by unfold noteEvent; split <;> rfl
@[simp] theorem noteEvent_bd (s : State) (code unit n : Nat) : (noteEvent s code unit n).bd = s.bd := by unfold noteEvent; split <;> rfl
@[simp] theorem noteEvent_hd (s : State) (code unit n : Nat) : (noteEvent s code unit n).hd = s.hd := by unfold noteEvent; split <;> rfl
@[simp] theorem noteEvent_jt (s : State) (code unit n : Nat) : (noteEvent s code unit n).jt = s.jt := by unfold noteEvent; split <;> rfl
@[simp] theorem noteEvent_mem (s : State) (code unit n : Nat) : (noteEvent s code unit n).mem = s.mem := by unfold noteEvent; split <;> rfl
@[simp] theorem noteEvent_bus (s : State) (code unit n : Nat) : (noteEvent s code unit n).bus = s.bus := by unfold noteEvent; split <;> rfl
@[simp] theorem noteEvent_free (s : State) (code unit n : Nat) : (noteEvent s code unit n).free = s.free := by unfold noteEvent; split <;> rfl
@[simp] theorem noteEvent_pending (s : State) (code unit n : Nat) : (noteEvent s code unit n).pending = s.pending := by unfold noteEvent; split <;> rfl
@[simp] theorem noteEvent_tl_slots (s : State) (code unit n : Nat) : (noteEvent s code unit n).tl.slots = s.tl.slots := by unfold noteEvent; split <;> rfl
@[simp] theorem noteEvent_tl_tagRate (s : State) (code unit n : Nat) : (noteEvent s code unit n).tl.tagRate = s.tl.tagRate := by unfold noteEvent; split <;> rfl
@[simp] theorem noteEvent_tl_tagEnable (s : State) (code unit n : Nat) : (noteEvent s code unit n).tl.tagEnable = s.tl.tagEnable := by unfold noteEvent; split <;> rfl
@[simp] theorem noteEvent_tl_userPage (s : State) (code unit n : Nat) : (noteEvent s code unit n).tl.userPage = s.tl.userPage := by unfold noteEvent; split <;> rfl
@[simp] theorem noteEvent_tl_freeze (s : State) (code unit n : Nat) : (noteEvent s code unit n).tl.freeze = s.tl.freeze := by unfold noteEvent; split <;> rfl
@[simp] theorem noteEvent_tl_tagSkipped (s : State) (code unit n : Nat) : (noteEvent s code unit n).tl.tagSkipped = s.tl.tagSkipped := by unfold noteEvent; split <;> rfl
@[simp] theorem noteEvent_tl_traceHead (s : State) (code unit n : Nat) : (noteEvent s code unit n).tl.traceHead = s.tl.traceHead := by unfold noteEvent; split <;> rfl
@[simp] theorem noteEvent_tl_flags (s : State) (code unit n : Nat) : (noteEvent s code unit n).tl.flags = s.tl.flags := by unfold noteEvent; split <;> rfl
@[simp] theorem noteEvent_tl_flagCount (s : State) (code unit n : Nat) : (noteEvent s code unit n).tl.flagCount = s.tl.flagCount := by unfold noteEvent; split <;> rfl
@[simp] theorem noteEvent_tl_onWay (s : State) (code unit n : Nat) : (noteEvent s code unit n).tl.onWay = s.tl.onWay := by unfold noteEvent; split <;> rfl
@[simp] theorem noteEvent_tl_aclk (s : State) (code unit n : Nat) : (noteEvent s code unit n).tl.aclk = s.tl.aclk := by unfold noteEvent; split <;> rfl
@[simp] theorem noteEvent_tl_cntHi (s : State) (code unit n : Nat) : (noteEvent s code unit n).tl.cntHi = s.tl.cntHi := by unfold noteEvent; split <;> rfl
@[simp] theorem noteEvent_tl_lfsr (s : State) (code unit n : Nat) : (noteEvent s code unit n).tl.lfsr = s.tl.lfsr := by unfold noteEvent; split <;> rfl
@[simp] theorem noteEvent_tl_cfg (s : State) (code unit n : Nat) : (noteEvent s code unit n).tl.cfg = s.tl.cfg := by unfold noteEvent; split <;> rfl
@[simp] theorem noteEvent_tl_cnt (s : State) (code unit n : Nat) : (noteEvent s code unit n).tl.cnt = s.tl.cnt := by unfold noteEvent; split <;> rfl
@[simp] theorem noteEvent_tl_ovf (s : State) (code unit n : Nat) : (noteEvent s code unit n).tl.ovf = s.tl.ovf := by unfold noteEvent; split <;> rfl
@[simp] theorem noteEvent_tl_trace (s : State) (code unit n : Nat) : (noteEvent s code unit n).tl.trace = s.tl.trace := by unfold noteEvent; split <;> rfl
@[simp] theorem noteEvent_queue (s : State) (code unit n : Nat) (j : Nat) : (noteEvent s code unit n).queue j = s.queue j := by unfold noteEvent; split <;> rfl
@[simp] theorem noteEvent_event (s : State) (code unit n : Nat) (j : Nat) : (noteEvent s code unit n).event j = s.event j := by unfold noteEvent; split <;> rfl
@[simp] theorem noteEvent_array (s : State) (code unit n : Nat) (j : Nat) : (noteEvent s code unit n).array j = s.array j := by unfold noteEvent; split <;> rfl
@[simp] theorem noteEvent_ribOf (s : State) (code unit n : Nat) (j : Nat) : (noteEvent s code unit n).ribOf j = s.ribOf j := by unfold noteEvent; split <;> rfl
@[simp] theorem noteEvent_streamer (s : State) (code unit n : Nat) (j : Nat) : (noteEvent s code unit n).streamer j = s.streamer j := by unfold noteEvent; split <;> rfl
@[simp] theorem noteEvent_base (s : State) (code unit n : Nat) (j : Nat) : (noteEvent s code unit n).base j = s.base j := by unfold noteEvent; split <;> rfl
@[simp] theorem noteEvent_port (s : State) (code unit n : Nat) (j : Nat) : (noteEvent s code unit n).port j = s.port j := by unfold noteEvent; split <;> rfl
@[simp] theorem noteEvent_slot (s : State) (code unit n : Nat) (j : Nat) : (noteEvent s code unit n).slot j = s.slot j := by unfold noteEvent; split <;> rfl
@[simp] theorem noteEvent_desc (s : State) (code unit n : Nat) (j : Nat) : (noteEvent s code unit n).desc j = s.desc j := by unfold noteEvent; split <;> rfl
@[simp] theorem noteEvent_window (s : State) (code unit n : Nat) (j : Nat) : (noteEvent s code unit n).window j = s.window j := by unfold noteEvent; split <;> rfl
@[simp] theorem noteEvent_die (s : State) (code unit n : Nat) (j : Nat) : (noteEvent s code unit n).die j = s.die j := by unfold noteEvent; split <;> rfl
@[simp] theorem noteEvent_ringAt (s : State) (code unit n : Nat) (j : Nat) : (noteEvent s code unit n).ringAt j = s.ringAt j := by unfold noteEvent; split <;> rfl
theorem noteEvent_tl_events (s : State) (code unit n : Nat) (j : Nat) : tget 0 (noteEvent s code unit n).tl.events j =
    tget 0 s.tl.events j + if j = 512 * code + unit % 512 then n else 0 := by
  unfold noteEvent
  split
  · simp_all
  · by_cases h : j = 512 * code + unit % 512 <;> simp [tmod, h]

end Sys2Proof.Machine.State
end

