-- ==== Sys2Proof/WellFormed.lean ====
section
/-! DEFINITION. Which commands are well formed: their unit numbers lie in the ranges that the manual gives, and a message is whole
flits (R435). -/

namespace Sys2Proof

/-- R422, R435: a message arrives on a port, with up to 64 payload flits, and a GET_REQ asks for up to 4 KiB. -/
def Msg.wf (m : Msg) : Bool := m.port < 16 && m.data.length % 64 == 0 && m.data.length ≤ 4096 && m.length.toNat ≤ 4096

/-- The operands of a command lie in their ranges. -/
def Instr.wf : Instr → Bool
  | .doorbell q _ => q < 256
  | .packetAccept => true
  | .commandRetire _ _ => true
  | .nop q => q < 256
  | .fence q => q < 256
  | .signal q => q < 256
  | .waitEvents q => q < 256
  | .gemm q => q < 256
  | .gemm2 q => q < 256
  | .convert q => q < 256
  | .rowstat q => q < 256
  | .softmax q => q < 256
  | .attnFwd q => q < 256
  | .attnBwd q => q < 256
  | .attnDecode q => q < 256
  | .scanFwd q => q < 256
  | .scanBwd q => q < 256
  | .seqOpen q => q < 256
  | .seqClose q => q < 256
  | .kvAppend q => q < 256
  | .kvFork q => q < 256
  | .kvTrim q => q < 256
  | .kvEvict q => q < 256
  | .kvPin q => q < 256
  | .xlMap q => q < 256
  | .xlInval q => q < 256
  | .winOpen q => q < 256
  | .winClose q => q < 256
  | .windowCloseComplete w => w < 4096
  | .ringSweep q => q < 256
  | .ringStepCommit r => r < 256
  | .allreduce q => q < 256
  | .allreduceV q => q < 256
  | .putRemote q => q < 256
  | .getRemote q => q < 256
  | .cfgWriteShadow q => q < 256
  | .cfgSwap q => q < 256
  | .tallySnap q => q < 256
  | .scaleUpdate q => q < 256
  | .checkpoint q => q < 256
  | .adopt q => q < 256
  | .replay q => q < 256
  | .engineReset q => q < 256
  | .queueAbort q => q < 256
  | .abortComplete q => q < 256
  | .queueEnable q _ => q < 256
  | .queueDisable q _ => q < 256
  | .queueDisableComplete q => q < 256
  | .resume q _ => q < 256
  | .cpEventWrite e _ => e < 4096
  | .workItemAssign a _ => a < 32
  | .arrayReform a form => a < 32 && form < 3
  | .latchCopy a t => a < 32 && t < 2
  | .drainComplete a _ => a < 32
  | .arrayFault a t cause => a < 32 && t < 3 && 1 ≤ cause && cause ≤ 3
  | .arrayProgressTimeout a t => a < 32 && t < 2
  | .arrayOffline a => a < 32
  | .wvCfgWrite a _ => a < 32
  | .wvColBypassWrite a k _ => a < 32 && k < 4
  | .heldArrayWriteApply a => a < 32
  | .wvBistRun a _ => a < 32
  | .bistDone a _ => a < 32
  | .programLoad a _ => a < 32
  | .bankSwitch a => a < 32
  | .passStart a _ => a < 32
  | .beat a _ => a < 32
  | .sweepFinish a _ => a < 32
  | .dPass _ => true
  | .bandStart _ => true
  | .dqPartialCombine a => a < 32
  | .dqFinish _ => true
  | .decodeCombine _ _ _ => true
  | .partialCombine a _ => a < 32
  | .finishItem a _ => a < 32
  | .slotReady a r _ _ => a < 32 && r < 16
  | .slotFree a r _ => a < 32 && r < 16
  | .seedSwap a _ => a < 32
  | .seedSwapExchange a => a < 32
  | .rbSeedDataWrite a _ => a < 32
  | .rbSeedDataRead a => a < 32
  | .rbBroadcastWrite off _ => off < 4096 && off % 4 == 0
  | .ribNop a _ => a < 32
  | .mov a _ => a < 32
  | .sel a _ => a < 32
  | .ldb a _ => a < 32
  | .stb a _ => a < 32
  | .konst a _ => a < 32
  | .rowv a _ => a < 32
  | .colv a _ => a < 32
  | .laneidx a _ => a < 32
  | .lswp a _ => a < 32
  | .fadd a _ => a < 32
  | .fsub a _ => a < 32
  | .fmul a _ => a < 32
  | .ffma a _ => a < 32
  | .fdiv a _ => a < 32
  | .fsqrt a _ => a < 32
  | .fmin a _ => a < 32
  | .fmax a _ => a < 32
  | .fcmp a _ => a < 32
  | .fsgn a _ => a < 32
  | .fscale a _ => a < 32
  | .fexpo a _ => a < 32
  | .fcvt a _ => a < 32
  | .dadd a _ => a < 32
  | .dsub a _ => a < 32
  | .dmul a _ => a < 32
  | .dfma a _ => a < 32
  | .ddiv a _ => a < 32
  | .dsqrt a _ => a < 32
  | .dcmp a _ => a < 32
  | .turn a _ => a < 32
  | .iadd a _ => a < 32
  | .isub a _ => a < 32
  | .imul a _ => a < 32
  | .iand a _ => a < 32
  | .ior a _ => a < 32
  | .ixor a _ => a < 32
  | .ish a _ => a < 32
  | .icmp a _ => a < 32
  | .exp a _ => a < 32
  | .exp2 a _ => a < 32
  | .log2 a _ => a < 32
  | .rcp a _ => a < 32
  | .rsqrt a _ => a < 32
  | .tanh a _ => a < 32
  | .sint a _ => a < 32
  | .cost a _ => a < 32
  | .gact a _ => a < 32
  | .wexp a _ => a < 32
  | .wlog a _ => a < 32
  | .rsum a _ => a < 32
  | .rmax a _ => a < 32
  | .racc a _ => a < 32
  | .rowfin a _ => a < 32
  | .stg a _ => a < 32
  | .drop a _ => a < 32
  | .addF32 pa vals => pa % 64 == 0 && pa < 2 ^ 52 && vals.length == 16
  | .testSet pa bit => pa % 64 == 0 && pa < 2 ^ 52 && bit < 512
  | .inc32 pa word => pa % 64 == 0 && pa < 2 ^ 52 && word < 16
  | .scrub bank row _ => bank < 768 && row < 32768
  | .transferIssue sk => sk < 64
  | .transferComplete sk ch _ => sk < 64 && ch < 8
  | .pageEntryDelivery sk _ => sk < 64
  | .stRingCfgWrite _ => true
  | .ringCfgApply => true
  | .stMdataWrite _ => true
  | .stMdataRead _ => true
  | .managementStakeWaitExpiry => true
  | .stackTempRead n t => n < 32 && t < 256
  | .parityRetry n pa => n < 32 && pa < 2 ^ 52
  | .coilInit _ => true
  | .coilInitDone => true
  | .translation agent ctx va _ q tag word => agent < 66 && ctx < 64 && va < 2 ^ 52 && q < 256 && tag < 65536 && word < 16
  | .missRetry _ => true
  | .missFault _ => true
  | .missTimeout seq => seq < 65536
  | .agentWithdrawalAck agent => agent < 66
  | .splintEnable _ => true
  | .splintReady => true
  | .splintDisable _ => true
  | .segmentStore _ => true
  | .segmentLoad _ => true
  | .portEnable p _ => p < 16
  | .portTrainingDone p peer => p < 16 && peer < 65536
  | .portTrainingTimeout p => p < 16
  | .portReset p _ => p < 16
  | .linkBlock p _ => p < 16
  | .laneAlignmentLoss p lane => p < 16 && lane < 4
  | .putData m => m.wf
  | .putAck m => m.wf
  | .putNack m => m.wf
  | .getReq m => m.wf
  | .getData m => m.wf
  | .getNack m => m.wf
  | .shardData m => m.wf
  | .shardDone m => m.wf
  | .shardHome m => m.wf
  | .chunkData m _ => m.wf
  | .chunkSignal m => m.wf
  | .counts m => m.wf
  | .slotGrant m => m.wf
  | .leave m => m.wf
  | .hello m => m.wf
  | .ringStepWatchdog r => r < 256
  | .putGetWatchdog _ => true
  | .tableStore _ => true
  | .tableLoad _ => true
  | .tallyEventArrival code unit _ => code < 256 && unit < 256
  | .tlCntWrite n _ _ => n < 16
  | .tlCntRead n => n < 16
  | .clearCounters _ => true
  | .freeze _ => true
  | .tlTagSeedWrite _ => true
  | .tlFlagCountRead _ => true
  | .cpRedoRead _ => true
  | .rbEccRead a _ => a < 32
  | .stEccRead _ => true
  | .bsEccRead n _ _ => n < 32
  | .hpPortErrRead p _ _ _ => p < 16
  | .spWinRefusedRead _ => true
  | .spMissStatusRead _ _ => true
  | .tlStatusRead _ => true
  | .hdErrRead _ _ => true
  | .flush _ => true
  | .verificationFlushDone => true
  | .targetRun => true
  | .targetIdle => true
  | .targetRest => true
  | .targetPark => true
  | .powerStateEntry => true
  | .returnToRun => true
  | .parkExit => true
  | .protectivePark => true
  | .warmResetRegister _ => true
  | .engineResetRegister _ => true
  | .engineResetDone => true
  | .powerUp => true
  | .powerRemoval => true
  | .coldResetAssert => true
  | .coldResetRelease => true
  | .warmResetPin => true
  | .warmResetRelease => true
  | .rootPllLock => true
  | .rootPllUnlock => true
  | .fuseDone => true
  | .stakeClearDone => true
  | .stacksReady _ => true
  | .plaitReady _ => true
  | .junctionSensorRead temps => temps.length == 136
  | .thermalCapFall => true
  | .thermalCapRise => true
  | .energyReport _ => true
  | .excursionLimit => true
  | .coolDownEnd => true
  | .keepRatioApply => true
  | .pmbusPoll rails => rails.length == 8
  | .pmbusEnable _ => true
  | .bdCfgDataWrite _ => true
  | .heartbeat => true
  | .portSilence p => p < 16
  | .plaitReport => true
  | .plaitHung => true
  | .handleModuleEnable _ => true
  | .handleModuleUp m _ => m < 16
  | .handleModuleDown m => m < 16
  | .handleTimeout _ => true
  | .managementFrame _ _ _ _ => true
  | .registerPathAccess _ _ _ => true
  | .registerWrite _ _ _ => true
  | .bypass die => die < 18
  | .idcode die => die < 18
  | .samplePreload die => die < 18
  | .extest die => die < 18
  | .clamp die => die < 18
  | .highz die => die < 18
  | .powerStateEntered => true
  | .reformDone a => a < 32

end Sys2Proof
end

