-- ==== Sys2Proof/Tests/Slice0.lean ====
section
/-! SUPPORT. Tests: ill-formed terms that each check of WellFormed refuses, words and worked cases of the manual, and, for every statement
that has hypotheses, a concrete state that meets them (`met_…`, one part for each clause, in its order). -/

namespace Sys2Proof.Tests

open Sys2Proof Sys2Proof.Machine

set_option Elab.async false

/-! ### Small states -/

/-- The block after bring-up, with memory of zeros. -/
def up : State := { State.reset with
  mem := {},
  bd := { divRun := true, rootLock := true, boot := { fuseDone := true, stakeClear := true, stacksReady := true, plaitReady := true } } }

/-- Queue 0 in a state. -/
def q0 (x : QState) : State := up.setQueue 0 { st := x, cfg := { enable := true, priv := true } }

/-- Context 0 sees the device-physical space as it is, through one segment. -/
def seg : State := { q0 .running with sp := { ready := true, enable := true, segments := [(0, some ⟨0, 0, 2 ^ 50⟩)] } }

/-- A packet with an opcode and some further words. -/
def packet (op : Nat) (l : List (Nat × Nat)) : List Word := wd op :: (List.range 15).map (fun i => wd (tget 0 l (i + 1)))

/-- A command of queue 0 that waits to start. -/
def cmd (op : Nat) (l : List (Nat × Nat)) : Cmd := { id := 1, words := packet op l }

/-- A started one. -/
def ran (op : Nat) (l : List (Nat × Nat)) : Cmd := { cmd op l with started := true }

/-- A state whose command table holds one command. -/
def holds (s : State) (c : Cmd) : State := { s with cp := { s.cp with table := [c], nextId := 2 } }

theorem met_StepRunsTheFrontCommand : ({ up with pending := [.flush 1#32] } : State).pending = .flush 1#32 :: [] := rfl

theorem met_IdleStepIsOneCclk :
    (State.reset.pending = [] ∧ State.reset.bd.divRun = false) ∧ (up.pending = [] ∧ up.bd.divRun = true) := by decide

/-- The three tails: the furthest legal one, one for an Aborting queue, one in Rest. -/
theorem met_DoorbellRecordsTheTail :
    ((q0 .running).windowOpen 0 = true ∧ (q0 .running).bd.power = .run ∧ ((q0 .running).queue 0).st ≠ .aborting ∧
      ((16#32).toNat % 2 ^ 17 + 2 ^ 17 - ((q0 .running).queue 0).head % 2 ^ 17) % 2 ^ 17 ≤ 2 ^ ((q0 .running).queue 0).cfg.log2Size) ∧
    (let s : State := { q0 .running with bd := { up.bd with power := .idle } }
     s.windowOpen 0 = true ∧ s.bd.power = .idle ∧ (s.queue 0).st ≠ .aborting ∧
      ((16#32).toNat % 2 ^ 17 + 2 ^ 17 - (s.queue 0).head % 2 ^ 17) % 2 ^ 17 ≤ 2 ^ (s.queue 0).cfg.log2Size) ∧
    ((q0 .aborting).windowOpen 0 = true ∧ (q0 .aborting).bd.power = .run ∧ ((q0 .aborting).queue 0).st = .aborting) ∧
    (let s : State := { up with bd := { up.bd with power := .rest } }
     s.windowOpen 0 = true ∧ s.bd.power = .rest) := by decide

theorem met_DoorbellErrorHaltsTheQueue :
    (q0 .running).windowOpen 0 = true ∧ (q0 .running).bd.power = .run ∧ ((q0 .running).queue 0).st ≠ .aborting ∧
    2 ^ ((q0 .running).queue 0).cfg.log2Size <
      ((17#32).toNat % 2 ^ 17 + 2 ^ 17 - ((q0 .running).queue 0).head % 2 ^ 17) % 2 ^ 17 := by decide

/-- A queue of one packet whose words read `ws` (only the first is not zero). -/
def oneWaits (op : Nat) : State :=
  let s := seg.setQueue 0 { seg.queue 0 with doorbell := 1, base := 0x1000 }
  { s with mem := s.mem.write 0x1000 (BitVec.ofNat 8 op) }

/-- A NOP passes the checks; opcode 5 fails the first. -/
theorem met_PacketAcceptEntersTheCommand : ∀ p ∈ [(1, none), (5, some 1)],
    let s := oneWaits p.1
    let r := translateRange s 0 { agent := 64, queue := 0, va := 0x1000 } 0x1000 64
    s.running = true ∧ arbitrate s s.cp.lastAccept (mayAccept s) = some 0 ∧ r.2.1 = some [(0x1000, 64)] ∧
    let v := readMeets r.1 [(0x1000, 64)]
    v.2 = none ∧ (r.1.queue 0).st = .running ∧ r.1.cp.table = [] ∧
    issueCheck (r.1.queue 0).cfg { words := wordsOf (readPieces v.1.mem [(0x1000, 64)]), id := 1 } = p.2 := by decide

/-- A NOP that has its status, and a quiet one. -/
theorem met_RetireWritesTheReply :
    (let c := { ran 1 [] with status := some {} }
     let s := holds seg c
     let r := translateRange s 0 { agent := 64, queue := 0, va := 0, write := true, reply := some 1 } 0 16
     s.plaitUp = true ∧ s.cmd? 1 = some c ∧ c.noReply = false ∧ c.quiet = false ∧ c.irq = false ∧ c.gathers = [] ∧ c.opcode = 1 ∧
     r.2.1 = some [(0, 16)] ∧ r.1.cmd? 1 = some c ∧
     (writeMeets r.1 [(0, 16)] (wordBytes [wd (1 * 2 ^ 24), wd (2 ^ 31), wd 0, wd 0])).2 = none) ∧
    (let c := { ran 0x101 [] with status := some {} }
     let s := holds seg c
     s.plaitUp = true ∧ s.cmd? 1 = some c ∧ c.quiet = true ∧ c.irq = false ∧ c.opcode = 1) := by decide

/-- What `Starts` asks: queue 0 starts the command next. -/
def starts (s : State) (c : Cmd) : Bool :=
  startable s 0 c.opcode == some c && s.cmd? c.id == some c && c.run == .none && c.undo == []

theorem starts_iff (s : State) (c : Cmd) (h : starts s c = true) : Starts s 0 c.opcode c := by
  simpa [starts, Starts, and_assoc] using h

def starting (op : Nat) (l : List (Nat × Nat)) : Bool := starts (holds seg (cmd op l)) (cmd op l)

theorem met_OrderingCommandsComplete :
    starting 0x01 [] = true ∧ starting 0x02 [(2, 1)] = true ∧ starting 0x04 [(2, 0x8000)] = true := by decide

/-- The three operations at the bounds of the count, and a write of an event. -/
theorem met_EventCountsChange :
    (∀ o ∈ [0, 1, 2], starting 0x03 [(2, o * 2 ^ 12 + 4095), (3, 0xFFFF)] = true) ∧ up.windowOpen 0 = true := by decide

/-- An undrained queue 1 for the abort. -/
def twoQueues : State := (holds seg (cmd 0x7F [(2, 1)])).setQueue 1 { st := .running, cfg := { enable := true }, doorbell := 3 }

theorem met_QueueStatesMove :
    (up.windowOpen 0 = true ∧ (0x80000000#32).getLsbD 31 = true ∧ (up.queue 5).cfg.enable = false ∧ (up.queue 5).st = .disabled) ∧
    (∀ x ∈ [QState.halted, .aborting, .running], let s := up.setQueue 0 { st := x }
     s.windowOpen 0 = true ∧ (s.queue 0).cfg.enable = false ∧ (s.queue 0).st ≠ .disabled) ∧
    ((q0 .running).windowOpen 0 = true ∧ (0#32).getLsbD 31 = false ∧ ((q0 .running).queue 0).cfg.enable = true) ∧
    (∀ x ∈ [QState.running, .halted], let s := up.setQueue 0 { st := x }
     s.plaitUp = true ∧ (s.queue 0).cfg.enable = false ∧ (s.queue 0).st = x ∧ s.ofQueue 0 = []) ∧
    ((q0 .halted).windowOpen 0 = true ∧ (1#32).getLsbD 0 = true ∧ ((q0 .halted).queue 0).st = .halted) ∧
    (starts twoQueues (cmd 0x7F [(2, 1)]) = true ∧ (cmd 0x7F [(2, 1)]).word 2 % 2 ^ 8 = 1 ∧ (twoQueues.queue 1).st ≠ .disabled ∧
      (twoQueues.cp.table.map (·.id)).Nodup) ∧
    (∀ h ∈ [none, some 16], let s := up.setQueue 0 { st := .aborting, held := h }
     s.plaitUp = true ∧ (s.queue 0).st = .aborting ∧ s.ofQueue 0 = [] ∧ ahead 16 (s.queue 0).head ≤ 2 ^ (s.queue 0).cfg.log2Size) := by
  decide

theorem met_FlushAndEngineReset :
    up.windowOpen 0 = true ∧ (1#32).getLsbD 0 = true ∧ up.bd.divRun = true ∧ starting 0x7E [(2, 1)] = true ∧ starting 0x7E [] = true := by
  decide

def withArr (x : Arr) : State := up.setArray 31 x

/-- Array 31, free and busy, with writes held. -/
theorem met_ArrayControls :
    up.windowOpen 1 = true ∧ (up.array 31).busy = false ∧ ((withArr { acc0 := some {} }).array 31).busy = true ∧
    (let s := withArr { heldCfg := some 0x112#32, heldBypass := [(3, 5#32), (0, 1#32), (3, 2#32)] }
     s.bd.divRun = true ∧ (s.array 31).busy = false ∧ (∀ p ∈ (s.array 31).heldBypass, p.1 < 4)) := by decide

theorem met_ArrayControls_test :
    ((up.array 31).online = true ∧ (1#32).getLsbD 0 = true ∧ ((withArr { acc0 := some {} }).array 31).busy = true) ∧
    (let s := withArr { offline := true }
     s.windowOpen 1 = true ∧ (s.array 31).online = false ∧ (s.array 31).busy = false ∧ (s.array 31).offline = true) ∧
    ((withArr { bistRunning := true }).array 31).bistRunning = true ∧
    (let s := withArr { formLock := true, form := 2 }
     s.bd.divRun = true ∧ (s.array 31).busy = false ∧ (s.array 31).reforming = none ∧ (s.array 31).current ≠ 2 ∧
     (s.array 31).formLock = true ∧ (s.array 31).form = 2) ∧
    ((withArr { reforming := some 2 }).array 31).reforming = some 2 := by decide

/-- A GEMM that works on item 5 in accumulator tile 0 of array 31, abandoned `n` times before. -/
def struck (n : Nat) : State :=
  holds (withArr { acc0 := some { cmd := 1, item := 5 } })
    { ran 0x10 [] with run := .compute { items := 9, counter := 6, assigned := [5], abandoned := if n = 0 then [] else [⟨5, n⟩] } }

theorem met_ArrayFaultsAreCounted :
    (up.running = true ∧ struckTile (up.array 31) 2 = none) ∧
    (∀ n ∈ [0, 2, 3], (struck n).running = true ∧ struckTile ((struck n).array 31) 0 = some { cmd := 1, item := 5 } ∧
      (∃ c ∈ (struck n).cmd? 1, c.status = none ∧ timesOf (workOf c) 5 = n ∧ c.run = .compute (workOf c) ∧
        c.stop = none ∧ (workOf c).bands = [] ∧ (workOf c).snaps = [] ∧
      tileInFlight (clearOn (discardOn 1 5 (countFault (struck n) 31 3) 31) 1 31) 1 = false)) ∧
    (let s := withArr { retiring := true }
     s.bd.divRun = true ∧ (s.array 31).retiring = true ∧ (s.array 31).acc0 = none ∧ (s.array 31).acc1 = none ∧
     (s.array 31).latch = none ∧ s.cp.table = []) := by decide

/-! ### Work on an array -/

/-- A GEMM of one row, column and batch, K = 32, with work `k`. -/
def gemm1 (k : Compute) : Cmd :=
  { ran 0x10 [(2, 0x100), (4, 0x10000), (6, 0x20000), (8, 0x30000), (10, 0x10001), (11, 32), (12, 1)] with run := .compute k }

def inLatch (t : Tile) : State := holds { seg with arr := [(31, { latch := some t })] } (gemm1 { items := 9, counter := 1, assigned := [0] })

/-- A ring of array 31 with one slot of one row of 32 codes filled or to be filled. -/
def ring31 (tail reads : Nat) (got : Nat) : SlotRing :=
  { cmd := 1, depth := 8, tail := tail, members := [(31, reads)], homes := [31],
    plan := [{ view := { rows := 1, cols := 32, rowsIn := 1, colsIn := 32, fmt := .e4m3 }, bytes := 32 }],
    slots := [(0, { got := got, parts := [(0, List.replicate 32 0x38#8)], codes := List.replicate 32 [0x38], fmt := .e4m3 })] }

/-- A chain of GEMM2 on array 31 with one P slot building or ready. -/
def chain (b : Option PSlot) (r : List PSlot) : State :=
  holds { seg with
    arr := [(31, { acc1 := some { cmd := 1, cols := 32, rows := 1, vals := List.replicate 32 0#32 }, work := some {
      cmd := 1, rings := [(ringValue, 1), (ringP, 2)], sweep := some { blocks := [0], building := b, ready := r } } })],
    rings := [(1, ring31 1 0 32), (2, ring31 r.length 0 0)] }
    { ran 0x11 [(4, 0x10000), (6, 0x20000), (8, 0x30000), (10, 0x10001), (11, 0x200001), (12, 0x40000), (14, 1)] with
      run := .compute { shape := { n := 1 }, items := 9 } }

/-- Array 31 with a tile in accumulator `n`, and a scan in progress or none. -/
def filled (n : Nat) (scan : Option ScanRun) : State :=
  let t : Tile := { cmd := 1, role := if scan.isSome then roleHeld else roleOut }
  let w : Option Work := if scan.isSome then some { cmd := 1, scan := scan } else none
  holds { up with arr := [(31, if n = 0 then { acc0 := some t, work := w } else { acc1 := some t, work := w })] } (ran 0x24 [])

/-- Array 31 with the last tile of a chain, and perhaps with the tile of the chain before on its way out. -/
def lastTile (e : Option Work) : State :=
  holds { up with arr := [(31, { acc1 := some { cmd := 1 }, work := some { cmd := 1, sweep := some {} }, ending := e })] } (ran 0x20 [])

/-- Either tile, the last of a chain, the state tile of a scan at the stage that copies it, and a full latch. -/
theorem met_LatchCopyFreesTheTile :
    (∀ n ∈ [0, 1], let s := filled n none
     s.running = true ∧ (s.array 31).latch = none ∧ ((s.array 31).acc n).isSome = true ∧ tileComplete s 31 n = true ∧ scanOf s 31 = none ∧
     sweepOf s 31 = none) ∧
    (∀ e ∈ [none, some {}], let s := lastTile e
     s.running = true ∧ (s.array 31).latch = none ∧ (s.array 31).acc1.isSome = true ∧ tileComplete s 31 1 = true ∧ scanOf s 31 = none ∧
     (sweepOf s 31).isSome = true ∧ (s.array 31).ending = e) ∧
    (let s := filled 1 (some { stage := due scanCopy })
     s.running = true ∧ (s.array 31).latch = none ∧ (s.array 31).acc1.isSome = true ∧ tileComplete s 31 1 = true ∧ (scanOf s 31).isSome = true) ∧
    (∀ n ∈ [0, 1], let s := withArr { latch := some {} }
     s.running = true ∧ n < 2 ∧ (s.array 31).latch.isSome = true) := by decide

theorem met_DrainEmptiesTheLatch :
    (let s := inLatch { cmd := 1, role := rolePartial }
     s.running = true ∧ (s.cmd? 1).isSome = true ∧ (s.ribOf 31).room = true) ∧
    (let x : Tile := { cmd := 1, rows := 1, cols := 1, rowsIn := 1, colsIn := 1, vals := [0x3F800000#32] }
     let k : Compute := { items := 9, counter := 1, assigned := [0] }
     let c := gemm1 k
     let s := inLatch x
     let r := writeOut s c 31 (outAt s 31 c k 0) (drainTile (outFactor s 31 c k 0) x.rowsIn x.colsIn x.matrix).1
     s.running = true ∧ s.cmd? 1 = some c ∧ c.status = none ∧ c.stop = none ∧ x.role = roleOut ∧ (r.1.array 31).ending = none ∧
     imageAt s 31 1 3 = none ∧ r.2 = some () ∧
     r.1.cmd? 1 = some { c with undo := ((r.1.cmd? 1).getD c).undo, gathers := ((r.1.cmd? 1).getD c).gathers } ∧
     k.done.length + 1 < k.items) := by decide +kernel

/-- A rib that works on a ring of its own, number 15. -/
def withRing (x : SlotRing) : State :=
  holds { up with arr := [(31, { work := some { cmd := 1, rings := [(15, 1)] } })], rings := [(1, x)] } (ran 0x10 [])

/-- A written slot, one with a byte missing, a slot that its member has read, and one that it has not. -/
theorem met_SlotRingsAdvance :
    (let s := withRing (ring31 0 0 32)
     let x := s.ringAt (ringKeyOf s 31 15)
     s.running = true ∧ ringKeyOf s 31 15 ≠ 0 ∧ x.tail < x.plan.length ∧ x.free x.tail = true ∧
     (x.slot x.tail).got = (x.planOf x.tail).bytes ∧ x.point = none ∧ (s.cmd? x.cmd).isSome = true) ∧
    (let s := withRing (ring31 0 0 31)
     let x := s.ringAt (ringKeyOf s 31 15)
     s.running = true ∧ ringKeyOf s 31 15 ≠ 0 ∧ (x.slot x.tail).got ≠ (x.planOf x.tail).bytes) ∧
    (let s := withRing (ring31 1 1 32)
     let x := s.ringAt (ringKeyOf s 31 15)
     s.running = true ∧ sweepOf s 31 = none ∧ ringKeyOf s 31 15 ≠ 0 ∧ x.head < x.tail ∧ (∀ p ∈ x.members, x.head < p.2)) ∧
    (let s := withRing (ring31 1 0 32)
     let x := s.ringAt (ringKeyOf s 31 15)
     s.running = true ∧ sweepOf s 31 = none ∧ ringKeyOf s 31 15 ≠ 0 ∧ (∃ p ∈ x.members, p.2 ≤ x.head)) := by decide

theorem met_PRingFeedsTheSecondProduct :
    (let p : PSlot := { p := List.replicate 128 [0], dec := List.replicate 128 [0] }
     let s := chain (some p) []
     s.running = true ∧ (∃ y ∈ sweepOf s 31, y.2.2.building = some p ∧
       (jobOf s 31 y.1 (workOf y.1) y.2.1.item).m ≤ p.p.length ∧
       (s.ringAt (y.2.1.ring ringP)).free (s.ringAt (y.2.1.ring ringP)).tail = true)) ∧
    (let s := chain none [{ p := [[0]], dec := [[0]] }]
     s.running = true ∧ (s.array 31).acc1.isSome = true ∧ (∃ y ∈ sweepOf s 31, y.2.2.ready.length = 1 ∧
       ((nextSlots s y.1 31 {} [y.2.1.ring ringP, y.2.1.ring ringValue]).2.map (·.length)) = some 2)) := by decide +kernel

/-! ### Plans -/

/-- Words at places. -/
def put (m : Memory) (l : List (Nat × Nat)) : Memory := l.foldl (fun m p => m.writeBytes p.1 (wordBytes [wd p.2])) m

/-- Coil with one open sequence, 0, of 70 tokens in two pages of one group (dimension 64, E4M3), the first shared with sequence 3. -/
def coil1 : Coil := {
  ready := true, headDim := 1, stakeCount := 8, refs := [(0, 2), (1, 1)], listBlocks := 8, metaBase := 0x100000,
  descs := [(0, { state := 1, groups := 1, length := 70, capacity := 4096, root := some 0, blocks := [1], pages := [⟨1, 0⟩, ⟨1, 1⟩] }),
    (3, { state := 1, groups := 1, length := 64, capacity := 4096, root := some 2, blocks := [3], pages := [⟨1, 0⟩] })],
  freeStake := { fresh := 2, total := 8 }, freeList := { fresh := 4, total := 8 } }

/-- A step record (R281, R284) of a kind: version 1, its header at 0x1000, one family of 128 by 128 of form 0, partitions 0 and 1, one head of
dimension 64, keep_scale 1, strides of 128 bytes. -/
def stepTbl (kind : Nat) : List (Nat × Nat) :=
  [(0, kind + 0x100), (2, 0x1000), (4, 0x1001), (8, 128 + 128 * 2 ^ 8 + 2 ^ 25)] ++
  (List.range 16).map (fun i => (16 + i, if i % 2 = 0 then 128 else 2)) ++ [(32, 0x400101), (35, 0x3F800000)]

/-- A plan header (R280): version 1, programs at 0x2000 and data at 0x4000, partition 0 for operands and 1 for ribs. -/
def headerTbl : List (Nat × Nat) :=
  [(3, 0x100), (4, 0x2000), (6, 0x1000), (7, 0x4000), (10, 0x2000 + 8 * 2 ^ 6), (11, 0x3000 + 2 ^ 6 + 8)]

def wordsAt (l : List (Nat × Nat)) : List Word := (List.range 64).map (fun i => wd (tget 0 l i))

/-- The argument block (R78) at 0x50000 of the kinds whose references are all to be present. -/
def argsTbl (kind : Nat) : List (Nat × Nat) :=
  let o := [(10, 0x70000), (12, 0x80000), (14, 0x90000)]
  match kind with
  | 0x21 => [(0, 0x60000), (1, 0x300000), (8, 0x61000)] ++ o
  | 0x24 => [(0, 0x60000), (1, 0x300000)]
  | 0x25 => [(0, 0x60000), (1, 0x300000), (5, 0x61000), (6, 0x300000)] ++ o
  | _ => []

def planAt (kind : Nat) : Memory :=
  put {} ((argsTbl kind).map (fun p => (0x50000 + 4 * p.1, p.2)) ++ (stepTbl kind).map (fun p => (0x100 + 4 * p.1, p.2)) ++ headerTbl.map (fun p => (0x1000 + 4 * p.1, p.2)))

/-- Work of such a step, on tiles of one element. -/
def work (kind : Nat) : Compute :=
  { step := wordsAt (stepTbl kind), header := wordsAt headerTbl, items := 9, shape := { m := 1, n := 1 } }

/-- The same, on a Burnoeg queue, whose plans R290 verifies by checks 1 and 2 alone. -/
def planned (op : Nat) (l : List (Nat × Nat)) : State :=
  let s := holds { seg with mem := planAt op, cl := coil1 } (cmd op l)
  s.setQueue 0 { s.queue 0 with cfg := { enable := true, burnoeg := true, priv := true } }

/-- The ten commands that start with a plan, each on small operands. -/
def plans : List (Nat × List (Nat × Nat)) :=
  let a := [(2, 0x100), (4, 0x10000), (6, 0x20000), (8, 0x30000)]
  let b := a ++ [(10, 0x40000), (12, 0x50000), (14, 0x10001)]
  [(0x10, a ++ [(10, 0x10001), (11, 32), (12, 1)]), (0x11, a ++ [(10, 0x10001), (11, 0x200001), (12, 0x40000), (14, 1)]),
   (0x12, a ++ [(10, 1), (11, 1)]), (0x13, a ++ [(10, 1), (11, 1)]), (0x14, a ++ [(10, 1), (11, 1)]),
   (0x20, b), (0x21, b), (0x22, [(2, 0x100), (4, 0x10000), (6, 0x60000), (10, 0x40000), (12, 0x50000), (14, 0x10001)]), (0x24, b), (0x25, b)]

theorem plan_found {args : State → Cmd → State × Option (List Word)} {more : State → Cmd → Compute → Option Nat} {s : State} {c : Cmd}
    (P : State → Compute → Bool) (h : (planWith args more (fun u _ k => if P u k then up else State.reset) s c).bd.divRun = true)
    (h' : (planWith args more (fun _ _ _ => State.reset) s c).bd.divRun = false) :
    ∃ u k, (∀ fin : State → Cmd → Compute → State, planWith args more fin s c = fin u c k) ∧ P u k = true := by
  rcases plan_cases args more s c with ⟨v, hv⟩ | ⟨u, k, hk⟩
  · rw [hv] at h h'; simp [h] at h'
  · refine ⟨u, k, hk, ?_⟩
    rw [hk] at h
    cases hp : P u k
    · rw [hp] at h; exact absurd h (by decide)
    · rfl

/-- What PlanCommandsStart asks of the plan of a command of id 1. -/
def ready (u : State) (k : Compute) : Bool :=
  (match u.cmd? 1 with | some d => d.status == none && d.stop == none | none => false) && k.done.isEmpty && k.finish.isEmpty && decide (0 < k.items) && k.shape.split == 1

theorem plan_of (s : State) (c : Cmd) (hs : starts s c = true)
    (h : (planGo (fun u _ k => if ready u k then up else State.reset) (begin_ s c) (begun s c)).bd.divRun = true)
    (h' : (planGo (fun _ _ _ => State.reset) (begin_ s c) (begun s c)).bd.divRun = false) :
    Starts s 0 c.opcode c ∧ ∃ u k, Planned (begin_ s c) (begun s c) u k ∧ ready u k = true :=
  ⟨starts_iff s c hs, plan_found ready h h'⟩

/-- The start of a listed command in its state, and what the plan then does. -/
def startOf (p : Nat × List (Nat × Nat)) : State := begin_ (planned p.1 p.2) (cmd p.1 p.2)
def goOf (p : Nat × List (Nat × Nat)) (f : State → Cmd → Compute → State) : State :=
  planGo f (startOf p) (begun (planned p.1 p.2) (cmd p.1 p.2))

/-- Each of the ten starts, its plan passes, and it has work to do. -/
theorem met_PlanCommandsStart (p : Nat × List (Nat × Nat)) (hp : p ∈ plans) :
    Starts (planned p.1 p.2) 0 (cmd p.1 p.2).opcode (cmd p.1 p.2) ∧
    ∃ u k, Planned (begin_ (planned p.1 p.2) (cmd p.1 p.2)) (begun (planned p.1 p.2) (cmd p.1 p.2)) u k ∧ ready u k = true := by
  have h : ∀ p ∈ plans, starts (planned p.1 p.2) (cmd p.1 p.2) = true ∧
      (goOf p (fun u _ k => if ready u k then up else State.reset)).bd.divRun = true ∧
      (goOf p (fun _ _ _ => State.reset)).bd.divRun = false := by decide +kernel
  obtain ⟨a, b, c⟩ := h p hp
  unfold goOf startOf at b c
  exact plan_of _ _ a b c

/-- A GEMM that is not split zeroes no headers. -/
theorem met_PlanCommandsStart_gemm (u : State) (c : Cmd) (k : Compute) (h : k.shape.split = 1) : zeroHeaders u c k = (u, some ()) := by
  simp [zeroHeaders, h]

/-- With memory of zeros the step record names kind 0, which no command has. -/
theorem met_PlanCommandsStart_rejected : ∀ p ∈ plans,
    let s := { planned p.1 p.2 with mem := {} }
    let c := cmd p.1 p.2
    let r := plaitRead (begin_ s c) (begun s c) 2 (c.addr 2) 256
    starts s c = true ∧ c.stepCopy = [] ∧ (r.2.map (·.length)) = some 256 ∧ ((r.2.getD []).headD 0).toNat ≠ p.1 ∧
    r.1.cmd? 1 = some (begun s c) ∧ (begun s c).status = none ∧ (r.1.queue 0).st = .running := by decide +kernel

/-! ### Items, passes, chains and bands -/

/-- A started command on device-physical memory of zeros, with Coil open. -/
def works (op : Nat) (l : List (Nat × Nat)) (k : Compute) : Cmd := { ran op l with run := .compute k }
def running (c : Cmd) (arr : Arr) (rib : Rib) : State := { holds seg c with arr := tset {} [] 31 arr, rib := tset {} [] 31 rib, cl := coil1 }

/-- The same with context 0 on stake, which a rib reaches itself. -/
def staked (c : Cmd) (arr : Arr) (rib : Rib) : State :=
  let s := running c arr rib
  { s with sp := { s.sp with segments := [(0, some ⟨0, stakeBase, 2 ^ 30⟩)] } }

def gemmW : List (Nat × Nat) := [(2, 0x100), (4, 0x10000), (6, 0x20000), (8, 0x30000), (10, 0x10001), (11, 32), (12, 1)]
def attnW : List (Nat × Nat) := [(2, 0x100), (4, 0x10000), (6, 0x20000), (8, 0x30000), (10, 0x40000), (12, 0x50000), (14, 0x10001)]

/-- A GEMM in its second segment on array 31, both slots ready or the right one not. -/
def product (right : Nat) : State :=
  holds { seg with
    arr := [(31, { acc0 := some { cmd := 1, rows := 1, cols := 1, rowsIn := 1, colsIn := 1, vals := [0#32] },
                   work := some { cmd := 1, filled := true, rings := [(ringLeft, 1), (ringRight, 2)] } })],
    rings := [(1, ring31 1 0 32), (2, ring31 right 0 32)] } (works 0x10 gemmW (work 0x10))

/-- A chain whose row operand and K ring are ready. -/
def scoring : State :=
  let s := chain none []
  { s with rings := [(1, ring31 1 0 32), (2, ring31 1 0 32)],
           arr := s.arr.map (fun p => (p.1, { p.2 with work := p.2.work.map (fun w => { w with rings := [(ringLeft, 1), (ringRight, 2)] }) })) }

/-- A GEMM in the middle of a product on array 0, and one of a Burnoeg queue whose step names the tile that it holds. -/
def clash : State :=
  let c := works 0x10 gemmW { work 0x10 with counter := 9 }
  let d := { works 0x10 gemmW { work 0x10 with step := (work 0x10).step.set 4 0x11001#32 } with id := 2 }
  let s := { holds seg c with arr := [(0, { acc0 := some { cmd := 1 }, work := some { cmd := 1, filled := true } })] }
  { s with cp := { s.cp with table := [c, d], queues := s.cp.queues.map (fun p => (p.1, { p.2 with cfg := { p.2.cfg with burnoeg := true } })) } }

/-- The first item of a command of every kind but the backward step's, for array 0 (the first clause of WorkItemsAreAssigned). -/
theorem met_WorkItemsOfEveryKind (p : Nat × List (Nat × Nat)) (hp : p ∈ plans) (hb : p.1 ≠ 0x21) :
    let k := work p.1
    let c := works p.1 p.2 k
    let u := endUnheld (staked c {} {})
    let v := assignKind u c k (assignment u 0 c k 0)
    (staked c {} {}).running = true ∧ (readyStrip u 0).isNone = true ∧ (u.array 0).work = none ∧ chooseItem u 0 = some c ∧ stepKind c ≠ 0x21 ∧
    computeOf c.run = some k ∧ nextItem k = some 0 ∧ accClash u 0 c k = false ∧ tileOverflow u c k = none ∧ v.2 = some () ∧
    (∃ e ∈ v.1.cmd? 1, (computeOf e.run).isSome = true) := by
  revert p; decide +kernel

/-- The other clauses: the next item of a GEMM, from the counter or from the redo list, for array 0; the next score tile of a chain; the next segment of a
product; and one whose slot is not ready. -/
theorem met_WorkItemsAreAssigned :
    (∀ r ∈ [[], [5]],
      let k := { work 0x10 with redo := r }
      let c := works 0x10 gemmW k
      let u := endUnheld (running c {} {})
      let item := if r = [] then 0 else 5
      let v := startGemm u c k 0 0 item
      (running c {} {}).running = true ∧ readyStrip u 0 = none ∧ (u.array 0).work = none ∧ chooseItem u 0 = some c ∧ c.opcode = 0x10 ∧
      nextItem k = some item ∧ accClash u 0 c k = false ∧ tileOverflow u c k = none ∧ gemmAcc u 0 c k = some 0 ∧
      v.2 = some () ∧ (∃ e ∈ v.1.cmd? 1, e.run = .compute k)) ∧
    (let u := endUnheld scoring
     scoring.running = true ∧ readyStrip u 31 = none ∧ clashing u 31 = none ∧ (∃ w ∈ (u.array 31).work, ∃ c ∈ u.cmd? w.cmd, c.status = none ∧ c.stop = none ∧
       (∃ sw ∈ w.sweep, sw.blocks = [0]) ∧ (u.array 31).acc0 = none ∧
       (nextSlots u c 31 {} [w.ring ringLeft, w.ring ringRight]).2.map (·.length) = some 2)) ∧
    (let u := endUnheld (product 1)
     (product 1).running = true ∧ readyStrip u 31 = none ∧ clashing u 31 = none ∧ (∃ w ∈ (u.array 31).work, ∃ c ∈ u.cmd? w.cmd, c.status = none ∧ w.sweep = none ∧
       w.scan = none ∧ w.band = none ∧ w.filled = true ∧ ((u.array 31).acc w.acc).isSome = true ∧
       (nextSlots u c 31 {} [w.ring ringLeft, w.ring ringRight]).2.map (·.length) = some 2)) ∧
    (let u := endUnheld (product 0)
     (product 0).running = true ∧ readyStrip u 31 = none ∧ clashing u 31 = none ∧ (∃ w ∈ (u.array 31).work, (u.cmd? w.cmd).isSome = true ∧ w.sweep = none ∧
       w.scan = none ∧ w.band = none ∧ w.filled = true ∧ (u.ringAt (w.ring ringRight)).nextReady 31 = false)) := by decide +kernel

/-- The clause of the named tile. -/
theorem met_WorkItemsAreAssigned_hazard :
    let u := endUnheld clash
    clash.running = true ∧ readyStrip u 0 = none ∧ (u.array 0).work.isSome = true ∧ (∃ c ∈ clashing u 0, u.cmd? c.id = some c ∧
       c.run = .compute (workOf c) ∧ c.status = none ∧ c.stop = none ∧ c.opcode < 0x40 ∧ stepKind c ≠ 0x21 ∧ nextItem (workOf c) = some 0 ∧
       tileInFlight u c.id = false) := by decide +kernel

/-- The FFMA of R243's worked word, in one pass. -/
def oneInst : Image := { passes := [0x801000#64], code := [0x1314108340000000#64] }

/-- A step that names the image at 0x2040 as its epilogue. -/
def epilogue : Compute := { work 0x10 with step := (work 0x10).step.set 49 0x10000#32 }

def imageMem : Memory := put {} [(0x2040, 0x801000), (0x2048, 0x40000000), (0x204C, 0x13141083)]

theorem met_BanksAndSeedBuffers_banks :
    (let c := works 0x10 gemmW epilogue
     let s := { running c {} {} with mem := imageMem }
     let r := readBank s c epilogue
     s.running = true ∧ s.cmd? 1 = some c ∧ c.started = true ∧ c.status = none ∧ (s.ribOf 31).hasBank 1 = false ∧
     (s.ribOf 31).bankPending = false ∧ bankFree s 31 (tget {} (s.ribOf 31).banks (s.ribOf 31).idleBank) = true ∧
     r.2.map (·.images) = some [(3, oneInst)] ∧ stepOver epilogue [(3, oneInst)] = none) ∧
    (let s := running (works 0x10 gemmW epilogue) {} { bankPending := true }
     s.running = true ∧ (s.ribOf 31).pass = none ∧ (s.ribOf 31).nextPass = 0 ∧ (s.ribOf 31).bankPending = true) := by decide +kernel

/-- A tile landed on rib 31, whose bank 0 holds the image; its first pass starts, or runs. -/
def landedWith (im : Image) (p : Option (Nat × Nat)) (m role beat : Nat) : State :=
  running (works 0x10 gemmW { epilogue with shape := { m := m, n := 1 } }) {}
    { landing := [{ cmd := 1, role := role, rows := m, cols := 1, vals := List.replicate m 0#32 }], pass := p, beat := beat,
      banks := [(0, { cmd := 1, images := [(3, im)] })] }

def landedTile (p : Option (Nat × Nat)) (m : Nat) : State := landedWith oneInst p m roleOut 0

/-- Two passes of that instruction. -/
def twoPasses : Image := { passes := [0x1000#64, 0x801000#64], code := oneInst.code }

theorem met_PassesRunBeatByBeat :
    (let s := landedTile none 4
     s.running = true ∧ ∃ y ∈ landed s 31, takesPasses y.1 = true ∧ (s.ribOf 31).pass = none ∧ y.2.1.status = none ∧ y.2.1.stop = none ∧ burnoeg s y.2.1 = false ∧
       (y.2.2.points.isEmpty || (tget {} (s.ribOf 31).banks (b2n (s.ribOf 31).bank)).cmd == y.2.1.id) = true ∧
       ((tilePasses s 31 y.2.1 y.2.2 y.1).drop (s.ribOf 31).nextPass).length = 1 ∧ slotFor s 31 y.1 = true ∧
       imageIllegal (tileImage s 31 y.2.1 y.2.2 y.1) = none ∧ (s.ribOf 31).corr < 2 ^ 16) ∧
    (let s := landedTile (some (3, 0)) 4
     s.running = true ∧ ∃ y ∈ landed s 31, (s.ribOf 31).pass = some (3, 0) ∧ y.2.1.status = none ∧ y.2.1.stop = none ∧ y.1.role ≠ roleScore ∧
       (s.ribOf 31).beat + 1 < (tileGeom s 31 y.2.1 y.2.2 y.1).beats ∧
       (s.ribOf 31).corr < 2 ^ 16 ∧ y.2.1.opcode < 0x40 ∧ y.2.1.run = .compute y.2.2 ∧ y.2.1.undo = []) ∧
    (let s := landedWith twoPasses (some (3, 0)) 4 roleOut 1
     s.running = true ∧ ∃ y ∈ landed s 31, (s.ribOf 31).pass = some (3, 0) ∧ y.2.1.status = none ∧ y.2.1.stop = none ∧ y.1.role ≠ roleScore ∧
       (tileGeom s 31 y.2.1 y.2.2 y.1).beats ≤ (s.ribOf 31).beat + 1 ∧
       (s.ribOf 31).nextPass + 1 < (tilePasses s 31 y.2.1 y.2.2 y.1).length) ∧
    (let s := landedWith oneInst (some (2, 0)) 4 roleScore 1
     s.running = true ∧ ∃ y ∈ landed s 31, (s.ribOf 31).pass = some (2, 0) ∧ y.2.1.status = none ∧ y.2.1.stop = none ∧ y.1.role = roleScore ∧
       (tileGeom s 31 y.2.1 y.2.2 y.1).beats ≤ (s.ribOf 31).beat + 1 ∧
       (tilePasses s 31 y.2.1 y.2.2 y.1).length ≤ (s.ribOf 31).nextPass + 1) := by decide +kernel

/-- The last tile of an attention chain of one query; and a decode of one split. -/
theorem met_ChainsFinish :
    (let k := work 0x20
     let c := works 0x20 attnW k
     let x : Tile := { cmd := 1, role := roleFinal, rows := 1, cols := 64, vals := List.replicate 64 0#32 }
     let w : Work := { cmd := 1, sweep := some { states := [{}], count := 1 } }
     let s := staked c { ending := some w } { landing := [x] }
     let v := finishAll s c k 31 (jobOf s 31 c k 0) [{}] x.matrix
     s.running = true ∧ (∃ y ∈ landed s 31, y.1 = x) ∧ (∃ y ∈ endingOf s 31, y.1 = c ∧ y.2.1 = w) ∧ c.status = none ∧ c.opcode ≠ 0x22 ∧
     v.2 = some () ∧ (∃ e ∈ v.1.cmd? 1, e.status = none ∧ e.stop = none ∧ e.run = .compute k) ∧ k.done.length + 1 < k.items) ∧
    (let k := { work 0x22 with snaps := [⟨0, 70, coil1.descs.headD (0, {}) |>.2⟩], finish := [(0, 31)] }
     let c := works 0x22 [(2, 0x100), (4, 0x10000), (6, 0x60000), (10, 0x40000), (12, 0x50000), (14, 0x10001)] k
     let s := staked c {} {}
     let v := combineDecode s c k 0 31 {}
     s.running = true ∧ s.cmd? 1 = some c ∧ c.opcode = 0x22 ∧ c.status = none ∧ c.stop = none ∧ k.points = [] ∧
     k.finish.find? (fun p => p.1 == 0) = some (0, 31) ∧ v.2 = some () ∧
     (∃ e ∈ v.1.cmd? 1, e.status = none ∧ e.stop = none ∧ e.run = .compute k) ∧ k.done.length < k.items) := by decide +kernel

/-- A partial of three, and a finish item. -/
theorem met_SplitProductsCombine :
    (let k := { work 0x10 with shape := { m := 1, n := 1, split := 3 } }
     let c := works 0x1010 gemmW k
     let s := staked c {} { landing := [{ cmd := 1, item := 1, role := rolePartial, rows := 1, cols := 1, vals := [0#32] }] }
     let head : Loc := .virt (ctxOf s c) (entryAddr c k 0)
     let v := placeAt s c (agentOf 31) 2 [(head, 64), (head.plus (64 + 1 * (4 * k.shape.m * k.shape.n)), 4 * k.shape.m * k.shape.n)]
     let w := takeAt v.1 c (agentOf 31) 2 head 64
     let h := wordsOf (w.2.getD [])
     let y := makeAt w.1 c (agentOf 31) 2 false (v.2.getD []) [wordBytes (claimed true 3 1 h), wordBytes (crop 1 1 [[0#32]]).flatten]
     s.running = true ∧ (∃ y ∈ landed s 31, y.1.role = rolePartial ∧ y.1.item = 1 ∧ y.2.1 = c ∧ y.2.2 = k) ∧ c.status = none ∧
     c.determ = true ∧ (v.2.map (·.map (·.2))) = some [[(stakeBase, 64)], [(stakeBase + 68, 4)]] ∧ (w.2.map (·.length)) = some 64 ∧
     errorFree w.1 = true ∧ bit (tw h 2) 1 = false ∧ tw h 0 + 1 < 3 ∧ y.2 = some () ∧
     (∃ e ∈ y.1.cmd? 1, e.status = none ∧ e.stop = none ∧ e.run = .compute k) ∧ k.done.length + 1 < k.items) ∧
    (let k := { work 0x10 with shape := { m := 1, n := 1, split := 2 }, finish := [(0, 0)] }
     let c := works 0x1010 gemmW k
     let s := staked c {} {}
     let v := collectAll s (fun s i => readVa s c (agentOf 31) 2 (entryAddr c k 0 + 64 + i * 4 + 0) 4) (List.range 2)
     let w := finishTile v.1 c k 31 0 0 (within 0 8 1) ((chunksOf 1 (slotTree (within 0 8 1 * 1) ((v.2.getD []).map wordsOf))).map (fun r => r.map (·.1)))
     s.cp.table.find? (fun c => c.opcode == 0x10 && c.status.isNone && c.stop.isNone && !(workOf c).finish.isEmpty && ribReady s 31 c (workOf c)) = some c ∧
     v.2.isSome = true ∧ w.2 = some () ∧ (∃ e ∈ w.1.cmd? 1, e.status = none ∧ e.stop = none ∧ e.run = .compute k) ∧ k.done.length < k.items) := by
  decide +kernel

/-- A step whose window of 0 masks every element. -/
def bwdWork : Compute := { work 0x21 with shape := {}, step := (work 0x21).step.set 32 0x2400101#32 }
def bwdCmd1 (k : Compute) : Cmd := works 0x21 attnW k

theorem met_BackwardBandsRun :
    (let k := bwdWork
     let c := bwdCmd1 k
     let s := staked c {} {}
     let v := dPassWrites s c { k with buffers := [(0, 0)] } [0] none
     bwdCmd s 1 = some (c, k) ∧ nextGroup c k = some (0, 0) ∧ v.2 = some () ∧ (∃ e ∈ v.1.cmd? 1, e.run = .compute k)) ∧
    (let k := { bwdWork with buffers := [(0, 0)] }
     let c := bwdCmd1 k
     let s := running c {} {}
     let v := openRings s c k (bandRings s c k (List.range 8) (bandJob s c k 0))
     bwdCmd s 1 = some (c, k) ∧ nextItem k = some 0 ∧ bandGroupFor s c k 0 = some (List.range 8) ∧ chooseItem s 0 = some c ∧
     (∀ b ∈ List.range 8, overruled s b c = false) ∧ tileOverflow s c k = none ∧ v.2.isSome = true ∧ (∃ e ∈ v.1.cmd? 1, e.run = .compute k)) ∧
    (∀ n ∈ [1, 0],
     let x : Tile := { cmd := 1, role := roleDq, rows := 128, cols := 64, rowsIn := 1, colsIn := 64, vals := List.replicate 64 0#32 }
     let k := { bwdWork with buffers := [(0, 0)] }
     let c := bwdCmd1 k
     let s := { staked c { latch := some x } {} with mem := put {} [(stakeBase + claimsAt up c k {}, n)] }
     let j := bandJob s c k 0
     let claim : Loc := .virt (ctxOf s c) (claimsAt s c k j)
     let v := takeAt s c (agentOf 31) 2 claim 1
     let rows := (((drainTile (bwdEnv c k).fDq 1 64 x.matrix).1.take 1).zip (upTo 0 1)).map (fun r =>
       (Loc.virt (ctxOf s c) (dqRow s c k j (0 / queryBlocks c) (128 * (0 % queryBlocks c) + r.2)), r.1))
     let w := addRows v.1 c (agentOf 31) rows
     let u := writeAt w.1 c (agentOf 31) 2 ((w.2.map (·.1)).getD [] ++ [(claim, [1#8])])
     s.running = true ∧ partWaits s c k 0 0 = false ∧ v.2 = some [BitVec.ofNat 8 n] ∧ claimBit c j 0 = 0 ∧ (∃ e ∈ v.1.cmd? 1, e.run = .compute k) ∧
     (n = 0 → w.2.isSome = true ∧ u.2 = some () ∧ (∃ e ∈ u.1.cmd? 1, e.run = .compute k))) ∧
    (let k := { bwdWork with buffers := [(0, 0)], finish := [(0, 0)] }
     let c := bwdCmd1 k
     let s := staked c {} {}
     let v := andThen (readDqRows s c k { group := 0 }) (fun u rows => writeDq u c k rows)
     bwdCmd s 1 = some (c, k) ∧ v.2.isSome = true ∧ (∃ e ∈ v.1.cmd? 1, e.status = none ∧ e.stop = none ∧ e.run = .compute k) ∧ k.done.length < k.items) := by
  decide +kernel
/-! ### Rib instructions -/

/-- Every instruction of a rib that only asks for a running engine and a rib below 32: IntegerAndSelectInstructions,
DataMovementInstructions, SinglePrecisionInstructions, CompareAndConvertInstructions, DoublePrecisionInstructions, SpecialFunctions and RowAndStorageInstructions, with
the immediates, rounding directions and registers at the ends of the ranges of their clauses. -/
theorem met_ribInstructions :
    up.running = true ∧ 31 < 32 ∧ (∀ n ∈ [0, 1, 2, 4, 5, 6], n % 4 ≠ 3) ∧ (∀ n ∈ [0, 3, 4, 5], n % 8 < 6) ∧ (∀ n ∈ [2, 7, 10, 63], 2 ≤ n % 8) ∧
    (∀ n ∈ [0, 6, 8], n % 8 ≠ 7) ∧ (∀ n ∈ [0, 3, 11], n % 8 < 4) ∧ (∀ n ∈ [0, 4], n ≤ 4) ∧ (∀ n ∈ [0, 62], n % 2 = 0) ∧
    (∀ n ∈ [0, 1], n % 4 < 2) ∧ 6 % 4 = 2 ∧ 7 % 4 = 3 ∧ (∀ n ∈ [0, 4, 12], n % 8 ≤ 4) ∧ (∀ n ∈ [0, 3], n ≤ 3) := by decide +kernel

/-- A constant pool of two words: its last constant. -/
theorem met_DataMovementInstructions :
    let s := running (works 0x10 gemmW epilogue) {} {
      landing := [{ cmd := 1 }], banks := [(0, { cmd := 1, pool := [1#32, 2#32] })] }
    s.running = true ∧ (envOf s 31).pool[({ imm := 1 } : RibArgs).imm.toNat % 64]? = some 2#32 := by decide +kernel

/-- A predicate register with lane 0 alone, and the five kinds of illegal instruction on a rib that works for a command. -/
theorem met_SegmentReductionsAndIllegalWords :
    (let s := up.setRib 31 { regs := { p := [(2, [true])] } }
     s.running = true ∧ laneOn s 31 { pr := 2 } 0 = true ∧ laneOn s 31 { pr := 2 } 128 = false) ∧
    (∀ l ∈ [none, some { cmd := 1, item := 1 }],
     let c := works 0x10 gemmW epilogue
     let s := (running c {} { landing := [{ cmd := 1 }] }).setArray 30 { latch := l }
     s.running = true ∧ s.cmd? (ribCmd (s.ribOf 31)) = some c ∧ c.status = none ∧ c.stop = none ∧ c.opcode < 0x50 ∧ epilogue.snaps = [] ∧
     tileInFlight (clearOn s 1 31) 1 = l.isSome) ∧
    (4 < ({ md := 5 } : RibArgs).md.toNat ∧ ({ vd := 63 } : RibArgs).vd.toNat % 2 = 1 ∧ ({ vd := 9 } : RibArgs).vd.toNat % 8 < 2 ∧
     ({ imm := 7 } : RibArgs).imm.toNat % 4 = 3 ∧ 3 < ({ md := 4 } : RibArgs).md.toNat) := by decide +kernel

theorem met_BanksAndSeedBuffers :
    up.windowOpen 2 = true ∧ (2#32).getLsbD 1 = true ∧ (up.ribOf 31).swapPending = false ∧
    (let s := up.setRib 31 { swapPending := true, seedAddr := 16380 }
     s.windowOpen 2 = true ∧ s.bd.divRun = true ∧ (s.ribOf 31).swapPending = true ∧ (s.ribOf 31).pass = none ∧ (s.ribOf 31).nextPass = 0) := by
  decide +kernel

/-! ### Stake, streamers and Coil -/

/-- The first and the last line of stake, intact and failing. -/
theorem met_AtomicOperations : ∀ pa ∈ [stakeBase, stakeEnd - 64],
    up.running = true ∧ stakeBase ≤ pa ∧ pa < stakeEnd ∧ pa % 64 = 0 ∧ (readMeets up [(pa, 64)]).2 = none ∧
    (readMeets { up with mem := { bad := [pa] } } [(pa, 64)]).2 = some pa ∧ (List.replicate 16 0#32).length = 16 := by decide +kernel

theorem met_RingConfiguration :
    (up.windowOpen 3 = true ∧ up.cp.table = []) ∧ ((holds up (cmd 1 [])).windowOpen 3 = true ∧ (holds up (cmd 1 [])).cp.table ≠ []) ∧
    (let s : State := { up with st := { pending := some 3 } }
     s.bd.divRun = true ∧ s.cp.table = [] ∧ s.st.pending = some 3) := by decide +kernel

/-- The last word that exists and the first that does not, the Coil region, the word below it; rows of the scrubber; a stack at 104 and
105 C; a parity error of the last stack with no, one and two repeats. -/
theorem met_StakeAccessScrubAndParity :
    (∀ o ∈ [0, 0x5FFFFFFC], let s : State := { up with st := { offset := o } }
     s.windowOpen 3 = true ∧ s.st.offset ≤ 0x5FFFFFFC ∧ stakeWriteDropped s (stakeBase + s.st.offset) = false ∧
     (writeMeets s [(stakeBase + s.st.offset, 4)] (Memory.leBytes 4 5)).2 = none ∧ errorFree s = true) ∧
    (let s : State := { up with st := { offset := 0x60000000 } }
     s.windowOpen 3 = true ∧ 0x5FFFFFFC < s.st.offset) ∧
    (∀ o ∈ [0x5C000000, 0x5FFFFFFC], let s : State := { up with st := { offset := o }, cl := coil1 }
     s.windowOpen 3 = true ∧ 0x5C000000 ≤ s.st.offset ∧ s.st.offset ≤ 0x5FFFFFFC ∧ s.cl.ready = true) ∧
    (let s : State := { up with st := { offset := 0x5BFFFFFC } }
     s.windowOpen 3 = true ∧ s.st.offset < 0x5C000000 ∧ (readMeets (meetAt s (stakeBase + s.st.offset) { corrected := 1 }) [(stakeBase + s.st.offset, 4)]).2 = none ∧
     errorFree s = true ∧ ({} : Finding).uncorrectable = false ∧ ({ uncorrectable := true } : Finding).uncorrectable = true) ∧
    (up.bd.divRun = true ∧ up.st.scrubEnable = true ∧ up.bd.power = .run ∧ errorFree up = true ∧
     (readMeets (meetAt up (stakeBase + stakeOffset 767 32767) {}) [(stakeBase + stakeOffset 767 32767, 64)]).2 = none) ∧
    (stackOf (stackEnd - 64) < 32 ∧ (∀ r ∈ [[], [(stackEnd - 64, 1)], [(stackEnd - 64, 2)]],
      let s := up.setBase (stackOf (stackEnd - 64)) { repeats := r }
      s.bd.divRun = true ∧ tget 0 (s.base (stackOf (stackEnd - 64))).repeats ((stackEnd - 64) / 32 * 32) = r.length + (r.map (·.2 - 1)).sum ∧ channelsOn s (stackEnd - 64) = [])) := by decide +kernel

/-- Streamer 63 with some channels. -/
def chans (l : List Channel) (turn : Nat) : State := { holds seg (ran 1 []) with sk := [(63, { channels := l, turn := turn })], cl := coil1 }
def chan (c : Channel) : State := chans [c] 0

/-- The second of two channels in its turn, with two transfers that do not merge; one whose slot is not free; a cursor with a page; a
transfer to end, with one queued after it; and a cursor with a token block to come. -/
theorem met_TransfersMoveBytes :
    (let t : Transfer := { src := .virt 0 0x1000, dst := .phys 0x9000, bytes := 64 }
     let c : Channel := { cmd := 1, queued := [t, { t with bytes := 32 }] }
     let s := chans [{}, c] 3
     let u := placePieces s (streamerAccess s 63 1 t false) 64 t.src
     let w := placePieces u.1 (streamerAccess u.1 63 1 t true) 64 t.dst
     s.running = true ∧ (s.streamer 63).outstanding < 8 ∧ (s.streamer 63).channels[1]? = some c ∧
     1 = (s.streamer 63).turn % (s.streamer 63).channels.length ∧ (nextPage s c).queued = t :: [{ t with bytes := 32 }] ∧
     destFree s t = true ∧ mergeFrom t [{ t with bytes := 32 }] = (t, [{ t with bytes := 32 }]) ∧ u.2.1 = some [(0x1000, 64)] ∧
     w.2.1 = some [(0x9000, 64)] ∧ w.1.streamer 63 = s.streamer 63) ∧
    (let t : Transfer := { dst := .slot 1 0 0, bytes := 64 }
     let c : Channel := { cmd := 1, queued := [t] }
     (chan c).running = true ∧ ((chan c).streamer 63).outstanding < 8 ∧ ((chan c).streamer 63).channels = [c] ∧
     (nextPage (chan c) c).queued = [t] ∧ destFree (chan c) t = false) ∧
    (let c : Channel := { cmd := 1, cursor := some { kRing := 1, vRing := 2 }, pages := [{ slots := 1 }] }
     let r : SlotRing := { depth := 1, plan := [{ view := { rows := 1, cols := 32, rowsIn := 1, colsIn := 32, fmt := .e4m3 } }] }
     let s : State := { chan c with rings := [(1, r), (2, r)] }
     s.running = true ∧ (s.streamer 63).outstanding < 8 ∧ (nextPage s c).queued.length = 2 ∧ (nextPage s c).queued.all (destFree s) = true) ∧
    (let m : Moving := { t := { bytes := 64 }, src := [(0x1000, 32), (0x2000, 32)], dst := [(0x9000, 64)] }
     let c : Channel := { cmd := 1, queued := [{}], moving := [m] }
     (chan c).running = true ∧ ((chan c).streamer 63).channels[0]? = some c ∧ sumNat (m.src.map (·.2)) = m.t.bytes ∧ m.t.data = none ∧
     m.t.dst = .phys 0 ∧ (∀ p ∈ m.src ++ m.dst, regionOf p.1 ≠ .host) ∧ errorFree (chan c) = true ∧ (readMeets (chan c) m.src).2 = none ∧
     (writeMeets (keepOld (readMeets (chan c) m.src).1 c.cmd m.dst) m.dst (readPieces (chan c).mem m.src)).2 = none) ∧
    (let c : Channel := { cmd := 1, cursor := some { last := 1, snapshot := 70, next := 1 } }
     (chan c).running = true ∧ hungryChannel ((chan c).streamer 63) = some (0, c, { last := 1, snapshot := 70, next := 1 }) ∧
     errorFree (chan c) = true ∧ ((chan c).desc 0).state = 1) := by decide +kernel

/-- Commands that pass their checks on the small Coil: an open of sequence 1; a close, an append, a trim and a pin of sequence 0; a fork
of it into 1; an eviction to the stacks (which has frames there). The append moves data, the open does not. -/
def coilPackets : List (Nat × List (Nat × Nat)) :=
  [(0x30, [(2, 1), (3, 1), (4, 4096)]), (0x31, []), (0x32, [(3, 1), (4, 0x10000), (6, 0x20000)]), (0x33, [(3, 1), (4, 64)]), (0x34, [(3, 10)]),
   (0x35, [(4, 2)]), (0x36, [(3, 1)])]

def coil2 : Coil := { coil1 with stackCount := 4, freeStack := { total := 4 } }

def coilState (p : Nat × List (Nat × Nat)) : State := { holds seg (cmd p.1 p.2) with cl := coil2 }

def planOf (cl : Coil) (p : Nat × List (Nat × Nat)) : Except Nat CoilPlan := coilPlan cl (cmd p.1 p.2) 0

theorem met_CoilCommandsCommit :
    (∀ p ∈ coilPackets,
      let s := coilState p
      let c := cmd p.1 p.2
      starts s c = true ∧ s.cl.ready = true ∧ s.cl.metaFault = false ∧ coilCmds s = [] ∧ errorFree s = true ∧ coilCheck s.cl c = none ∧
      (s.desc c.seq).readers = 0 ∧ (planOf { s.cl with busy := [1] } p).isOk = true ∧ fewestOf s kvStreamers = some 0) ∧
    coilPackets.map (fun p => match planOf { coil2 with busy := [1] } p with | .ok x => x.moves.length | .error _ => 99) = [0, 0, 2, 0, 0, 1, 0] := by
  decide +kernel

/-- The plans of the same commands, and of an append of 60 tokens, which needs a frame more than a full pool has; an initialisation
that is refused (no list blocks), one that is not, and its end. -/
theorem met_CoilPlansAndInitialisation :
    (∀ p ∈ coilPackets, (planOf coil2 p).isOk = true) ∧ (coil2.desc 0).state = 1 ∧ ((coil2.desc 0).pages.map coil2.refKey).Nodup ∧
    (cmd 0x33 [(3, 1), (4, 64)]).child ≠ (cmd 0x33 [(3, 1), (4, 64)]).seq ∧
    (0 < (coil2.desc 0).groups ∧ (coil2.desc 0).pages.length = (coil2.desc 0).groups * (((coil2.desc 0).length + 63) / 64)) ∧
    (let cl := { coil2 with freeStake := { fresh := 8, total := 8 }, freeStack := {} }
     (cl.desc 0).pages.length = (cl.desc 0).groups * (((cl.desc 0).length + 63) / 64) ∧ cl.freeStake.size - cl.reserve + cl.freeStack.size < 1 ∧
     (coilPlan cl (cmd 0x32 [(3, 60), (4, 0x10000), (6, 0x20000)]) 0).isOk = false) ∧
    (let s : State := { up with cl := { coil2 with listBlocks := 0 } }
     s.windowOpen 6 = true ∧ (1#32).getLsbD 0 = true ∧ initRefused s = true) ∧
    (let s : State := { up with cl := coil2 }
     s.windowOpen 6 = true ∧ initRefused s = false) ∧
    (let s : State := { up with cl := { coil2 with initBusy := true } }
     s.bd.divRun = true ∧ s.cl.initBusy = true) := by decide +kernel

/-! ### Splint and Hoop -/

/-- With a Handle module up. -/
def segUp : State := { seg with hd := { moduleUp := 1 } }
def spWith (x : Splint) : State := { segUp with sp := x }

/-- A packet fetch that waits on a miss of page 5, at its last retry. -/
def missing (k : Nat) : Miss := { page := 5, waiters := [{ agent := 64, va := 0x5000, retries := k }], sent := true }

theorem met_TranslationsAndMisses :
    (let s := spWith { ready := true, tlbs := [(64, [⟨63, 5, 7, true, false⟩])] }
     s.plaitUp = true ∧ s.ofQueue 9 = [] ∧ handleUp s = true ∧ (tlbLookup s.sp 64 63 (0x5123 / 4096) true).isSome = true) ∧
    (segUp.plaitUp = true ∧ segUp.ofQueue 9 = [] ∧ handleUp segUp = true ∧ tlbLookup segUp.sp 64 0 ((2 ^ 50 - 1) / 4096) true = none ∧
     (segmentOf segUp.sp 0 (2 ^ 50 - 1)).isSome = true) ∧
    (tlbLookup segUp.sp 64 63 ((2 ^ 52 - 1) / 4096) true = none ∧ segmentOf segUp.sp 63 (2 ^ 52 - 1) = none ∧ rootOf segUp.sp 63 = none ∧
     segUp.sp.ready = true ∧ segUp.sp.misses = []) ∧
    (let m := missing 14
     let s := spWith { seg.sp with misses := [m] }
     let r := resolve { s with sp := { tlbDrop s.sp (fun e => e.ctx == m.ctx && e.vpn == m.page) with misses := [] } } 64 m.ctx 0x5000 false true
     s.windowOpen 7 = true ∧ s.bd.divRun = true ∧ (0#32).toNat / 2 ^ 16 % 4 = 0 ∧ outstandingMiss s 0 = some m ∧ r.2 = .at 0x5000 ∧
     r.1.sp.misses = []) ∧
    (let m := missing 0
     let s : State := { spWith { ready := true, misses := [m] } with cp := { seg.cp with time := 105000 } }
     s.windowOpen 7 = true ∧ s.bd.divRun = true ∧ (0x10000#32).toNat / 2 ^ 16 % 4 = 1 ∧ outstandingMiss s 0 = some m ∧
     m.notified + 105000 ≤ s.cp.time) ∧
    (let m : Miss := { page := 5, waiters := [{ agent := 64, va := 0x5000, cmd := some 1, word := 4 }], sent := true }
     let s := { holds seg (ran 0x10 []) with sp := { ready := true, misses := [m] } }
     outstandingMiss s 0 = some m ∧ (∃ c ∈ s.cmd? 1, c.id = 1 ∧ c.status = none ∧ c.undo = [])) ∧
    (outstandingMiss segUp 9 = none ∧ 9 ∉ segUp.sp.timedOut) := by decide +kernel

def mapping : Withdraw := { cmd := 1, ctx := 5, ranges := [(0x1000, 0x1000)], commit := .segment 80 none }
def unackedOf (w : Withdraw) (l : List Nat) : State :=
  { holds seg { ran 0x40 [] with run := .withdraw } with sp := { seg.sp with current := some w, unacked := l } }
def unacked (l : List Nat) : State := unackedOf mapping l
def rooting : Withdraw := { cmd := 1, ctx := 63, ranges := [(0, 2 ^ 52)], hostOnly := true, commit := .root 63 (some 0x1000) }
def opening : Cmd := cmd 0x42 [(2, 4095), (3, 0x1000), (5, 0x2000), (7, 2)]
def closing (x : Nat) : State := (holds seg (cmd 0x43 [(2, 4095)])).setWindow 4095 { state := x, length := 4096 }

/-- Where a run from entry 0 is free, Splint finds a run, whichever it takes (log 36). -/
theorem window_fits (s : State) (w base len : Nat) (h : base + len ≤ addressEnd ∧ (s.window w).state = 0 ∧ len ≤ 2 ^ 32 ∧ s.sp.ready = true ∧
    runFree s 0 (len / 4096) = true) : windowCheck s w base len = none := by
  have f : (findRun s (len / 4096)).isNone = false := by
    unfold findRun
    dsimp only
    split
    · rfl
    · rw [List.find?_cons_of_pos (by simpa using h.2.2.2.2)]; rfl
  obtain ⟨h1, h2, h3, h4, -⟩ := h
  rw [windowCheck, if_neg (Nat.not_lt.2 h1), if_neg (by rw [h2]; decide), if_neg (by rw [f, decide_eq_false (Nat.not_lt.2 h3)]; decide),
    if_neg (by rw [h4]; decide)]

/-- A mapping of context 5 and the removal of one of context 0, a root and its removal, an invalidation, the acknowledgements of two
agents, of a segment and of a root, and windows. -/
theorem met_WithdrawalsAndWindows :
    (∀ l ∈ [[(2, 5 + 15 * 2 ^ 8), (3, 0x1000), (7, 0x1000)], [(2, 0)]],
     let c := cmd 0x40 l
     let s := holds seg c
     starts s c = true ∧ c.word 2 / 2 ^ 12 % 4 = 0 ∧ s.sp.current = none ∧
     segmentCheck s (c.word 2 % 2 ^ 6) (c.word 2 / 2 ^ 8 % 2 ^ 4) (c.addr 3) (c.addr 5) (c.addr 7) = none) ∧
    (∀ n ∈ [0x1000, 0],
     let c := cmd 0x40 [(2, 63 + 2 ^ 12), (5, n)]
     let s := holds seg c
     starts s c = true ∧ c.word 2 / 2 ^ 12 % 4 = 1 ∧ s.sp.current = none ∧ rootCheck s (c.word 2 % 2 ^ 6) (c.addr 5) = none) ∧
    ((unackedOf rooting [4]).sp.current = some rooting ∧ agentBusy (unackedOf rooting [4]) rooting 4 = false ∧
      (unackedOf rooting [4]).sp.waiting = [] ∧ (∃ c ∈ (unackedOf rooting [4]).cmd? 1, c.status = none)) ∧
    (let c := cmd 0x41 [(2, 5), (4, 2 ^ 20 - 1), (3, 0xFFFFF000), (5, 0x1000)]
     let s := holds seg c
     starts s c = true ∧ s.sp.current = none ∧ c.addr 3 + c.addr 5 = 2 ^ 52 ∧
     meetsWindow s (c.word 2 % 2 ^ 6) [(c.addr 3, c.addr 5)] = false) ∧
    (∀ l ∈ [[4, 7], [4]],
      (unacked l).bd.divRun = true ∧ (unacked l).sp.current = some mapping ∧ 4 ∈ (unacked l).sp.unacked ∧ agentBusy (unacked l) mapping 4 = false ∧
      (unacked l).sp.waiting = [] ∧ (∃ c ∈ (unacked l).cmd? 1, c.status = none)) ∧
    (∀ x ∈ [0, 1], starts (closing x) (cmd 0x43 [(2, 4095)]) = true ∧ ((closing x).window 4095).state = x) ∧
    (let s := (holds seg { ran 0x43 [(2, 4095)] with run := .waiting }).setWindow 4095 { state := 2 }
     s.bd.divRun = true ∧ (s.window 4095).state = 2 ∧ (s.window 4095).inflight = 0 ∧ (s.cp.table.map (·.id)).Nodup) := by decide +kernel

/-- The window 4095 of two pages. -/
theorem met_WithdrawalsAndWindows_open :
    let s := holds seg opening
    let r := windowTranslate (s.mapCmd 1 (begun s)) (begun s opening) 0 (opening.addr 3) (opening.addr 5 / 4096) 0 []
    (starts s opening = true ∧ r.2 = ([0x1000, 0x2000], .at 0) ∧ opening.addr 5 / 4096 = 2 ∧ (r.1.queue 0).cfg.xlCtx = 0 ∧
      r.1.cmd? 1 = some (begun s opening)) ∧
    windowCheck s 4095 (opening.addr 3) (opening.addr 5) = none ∧ windowCheck r.1 4095 (opening.addr 3) (opening.addr 5) = none :=
  ⟨by decide +kernel, window_fits _ _ _ _ (by decide +kernel), window_fits _ _ _ _ (by decide +kernel)⟩

/-- The highest mirror area that fits the stacks, one byte above it, and no miss table. -/
theorem met_SplintControl :
    (let s := spWith { mirrorBase := stackEnd - 0x4029000, missBase := 16 }
     s.windowOpen 7 = true ∧ (1#32).getLsbD 0 = true ∧ s.sp.enable = false ∧ s.sp.mirrorBase + 0x4029000 ≤ stackEnd ∧ s.sp.missBase ≠ 0) ∧
    (∀ x ∈ [({ mirrorBase := stackEnd - 0x4029000 + 1, missBase := 16 } : Splint), { missBase := 0 }],
      (spWith x).sp.enable = false ∧ (stackEnd < (spWith x).sp.mirrorBase + 0x4029000 ∨ (spWith x).sp.missBase = 0)) ∧
    (let s := spWith { enable := true, initBusy := true }
     s.bd.divRun = true ∧ s.sp.enable = true ∧ s.sp.initBusy = true) ∧
    (let s : State := { up with sp := { enable := true } }
     s.windowOpen 7 = true ∧ (0#32).getLsbD 0 = false ∧ s.sp.enable = true ∧ ∀ q, q < 256 → (s.queue q).st = .disabled) ∧
    (seg.sp.enable = true ∧ (seg.queue 0).st ≠ .disabled) ∧
    (let s := spWith { enable := true, ready := true, selCtx := 63, selSegment := 15, segLen := 4096 }
     s.windowOpen 7 = true ∧ s.sp.selRoot = false ∧ 0 < s.sp.segLen ∧ storeRefused s = false) ∧
    (∀ n ∈ [0, 0x1000], storeRefused (spWith { enable := true, ready := true, selCtx := 63, selRoot := true, segTarget := n }) = false) ∧
    ((1#32).getLsbD 0 = true ∧ (1#32).getLsbD 1 = false ∧ (2#32).getLsbD 0 = false ∧ (2#32).getLsbD 1 = true) ∧
    storeRefused (spWith { enable := true, ready := true, selCtx := 0, segLen := 4096 }) = true ∧
    tget none seg.sp.segments (seg.sp.selCtx * 16 + seg.sp.selSegment) = some ⟨0, 0, 2 ^ 50⟩ ∧ seg.sp.selRoot = false := by decide +kernel

/-- Engine 1 of a ring of three, with all ports up to engine 2. -/
def hoop : State := { segUp with
  hp := { ports := [(15, { enable := true, state := .up, peer := 2, lanesOk := 15 })] }, bd := { up.bd with setA := { engineId := 1, torusX := 3 } } }

def atPort (x : Port) : State := { hoop with hp := { ports := [(15, x)] } }

/-- A message of engine 2 for this one, on port 15. -/
def msg : Msg := { src := 2, dest := 1, port := 15 }

theorem met_PortsTrain :
    (up.windowOpen 8 = true ∧ (5#32).getLsbD 0 = true ∧ (5#32).getLsbD 1 = false ∧ (up.port 15).enable = false) ∧
    (∀ x ∈ [LinkState.training, .resetting], let s := atPort { enable := true, state := x }
     hoopOn s = true ∧ (s.port 15).state = x ∧ s.hp.waiting = [] ∧ (s.port 15).unacked = [] ∧
     (let u : State := { s with cp := { s.cp with time := 262500000 } }
      hoopOn u = true ∧ (u.port 15).state = x ∧ (u.port 15).trainedSince + 262500000 ≤ u.cp.time)) ∧
    (hoopOn hoop = true ∧ portUp hoop 15 = true ∧ (hoop.port 15).unacked = [] ∧ hoop.hp.waiting = []) ∧
    ((3#32).getLsbD 0 = true ∧ (3#32).getLsbD 1 = true ∧ hoop.windowOpen 8 = true ∧ (hoop.port 15).enable = true) := by decide +kernel

def zeroFlits : List Byte := List.replicate 1024 0#8

/-- A block of zero flits with a sequence number. -/
def zeroBlock (seq : Nat) (idle : Bool) : Block :=
  { header := packHeader seq 7 false 1 31 zeroFlits, flits := zeroFlits, idle := idle }

theorem zeroBlock_intact (seq : Nat) (idle : Bool) : intact (zeroBlock seq idle) = true := by
  have h : crcGood (zeroBlock seq idle) = true := packHeader_crcGood _ _ _ _ _ _ _ rfl rfl
  have l : (zeroBlock seq idle).flits.length = 1024 := List.length_replicate
  have c : (zeroBlock seq idle).codewordsBad = 0 := rfl
  simp [intact, h, l, c]

theorem zeroBlock_field (seq : Nat) (idle : Bool) (hi lo : Nat) (h : hi < 32) (l : lo ≤ hi) :
    headerField (zeroBlock seq idle) hi lo = fld (wd (seq + 7 * 2 ^ 12 + 2 ^ 25 + 31 * 2 ^ 27)).toNat hi lo := by
  unfold headerField zeroBlock
  rw [packHeader_field _ _ _ _ _ _ _ _ h l]
  simp [b2n]

/-- The awaited block, an idle one, one out of order, and two that fail their check. -/
theorem met_LinkBlocks :
    let s := atPort { enable := true, state := .up, nextRx := 4095, failsInRow := 6, unacked := [{ last := 7 }] }
    (portUp s 15 = true ∧ loopedBlock (s.port 15) (zeroBlock 4095 false) = true ∧ s.hp.waiting = [] ∧ (s.port 15).failsInRow < 7 ∧ (s.port 15).credits.length = 4 ∧ (s.port 15).nextRx = 4095) ∧
    (intact (zeroBlock 4095 false) = true ∧ headerField (zeroBlock 4095 false) 11 0 = 4095 ∧ headerField (zeroBlock 4095 false) 26 25 = 1 ∧
     headerField (zeroBlock 4095 false) 31 27 = 31) ∧
    intact (zeroBlock 0 true) = true ∧
    (intact (zeroBlock 0 false) = true ∧ headerField (zeroBlock 0 false) 11 0 ≠ 4095) ∧
    (intact { zeroBlock 4095 false with codewordsBad := 2 } = false ∧ intact {} = false) := by
  refine ⟨by decide +kernel, ⟨zeroBlock_intact _ _, ?_, ?_, ?_⟩, zeroBlock_intact _ _, ⟨zeroBlock_intact _ _, ?_⟩, rfl, rfl⟩ <;>
    (rw [zeroBlock_field _ _ _ _ (by decide) (by decide)]; decide +kernel)

theorem met_Tables :
    (∀ n ∈ [0, 256], let s : State := { up with hp := { tblSel := n } }
     s.windowOpen 8 = true ∧ entryInUse s (bit s.hp.tblSel 8) (s.hp.tblSel % 2 ^ 8) = false ∧
     (if bit s.hp.tblSel 8 = true then groupEntry s (s.hp.tblSel % 2 ^ 8) else ringEntry s (s.hp.tblSel % 2 ^ 8)).length ≤ 16) ∧
    (let s := { holds up { ran 0x51 [(2, 64), (4, 1)] with run := .collective {} } with hp := { tblSel := 256 } }
     entryInUse s (bit s.hp.tblSel 8) (s.hp.tblSel % 2 ^ 8) = true) := by decide +kernel

/-! ### Remote access, rings and collectives -/

/-- Engine 1 of a torus of 3, with window 7 of two pages open to engine 2 and, of itself, to engine 1, and the identity of Hoop's TLB. -/
def remote (sender : Nat) : State := { (hoop.setWindow 7 { state := 1, sender := sender, length := 8192, pages := [0x6000, 0x8000] }) with
  bd := { up.bd with setA := { engineId := 0x10001, torusX := 3 } } }
def tlb : TlbEntry := ⟨0, 0x1, 0x4, true, false⟩
def tlb2 : TlbEntry := ⟨0, 0x2, 0x5, true, false⟩
def remoteTlb (s : State) : State := { s with sp := { s.sp with tlbs := [(65, [tlb, tlb2])] } }

/-- Two whole pages from 0x1000 to window 7 of engine `n`, at its first byte. -/
def transfer (op n : Nat) : Cmd := cmd op [(2, n + 7 * 2 ^ 16), (3, 0x1000), (7, 8192)]

/-- The pages 4 and 5 of the source, and 6 and 8 of the window, are all different. -/
theorem met_PutAndGetStart : ∀ op ∈ [0x53, 0x54], ∀ n ∈ [1, 2],
    let s := holds (remoteTlb (remote 1)) (transfer op n)
    starts s (transfer op n) = true ∧ 0 < (transfer op n).word 7 ∧ (transfer op n).addr 3 = 0x1000 ∧
    (transfer op n).addr 3 + (transfer op n).word 7 = 0x3000 ∧
    (∀ e ∈ [tlb, tlb2], tlbLookup s.sp 65 (s.queue 0).cfg.xlCtx e.vpn (op == 0x54) = some e) ∧ handleUp s = true ∧ errorFree s = true ∧ s.bs = [] ∧
    (transfer op n).remote = n ∧ ownId s = 1 ∧ remoteCheck s 2 = none ∧ (s.window 7).pages = [0x6000, 0x8000] ∧
    windowAdmits s (transfer op n).remoteWindow 1 ((transfer op n).addr 5) ((transfer op n).word 7) = true ∧
    parcels ((transfer op n).word 7) = [(0, 4096), (4096, 4096)] := by decide +kernel

def transporting (op : Nat) (r : Transport) : Cmd := { transfer op 2 with started := true, run := .transport r }
def trans1 : Transport := { remote := 2, window := 7, unanswered := [(0, 4096, 0)], checked := 8192 }
/-- The answer of engine 2 to command 1. -/
def answer (data : List Byte) : Msg := { msg with tag := Config.hoopTag 1, object := 7, data := data, length := BitVec.ofNat _ data.length }

theorem transport_found (op : Nat) (d : List Byte) (h : op = 0x53 ∨ op = 0x54) :
    transportFor (holds (remoteTlb (remote 2)) (transporting op trans1)) op (answer d) = some (transporting op trans1, trans1) := by
  rcases h with rfl | rfl <;>
    (unfold transportFor; simp [holds, transporting, trans1, answer, msg]; exact ⟨rfl, rfl, rfl⟩)

def arrivesHere (s : State) (m : Msg) : Bool := arrives s m && !discarded s m && m.dest.toNat == ownId s

theorem arrives_iff (s : State) (m : Msg) (h : arrivesHere s m = true) : Arrives s m := by
  simpa [arrivesHere, Arrives, and_assoc] using h

/-- Accesses of 64 bytes that window 7 admits, at its last 64 bytes, and that it does not, one beyond them; a watchdog at its limit. -/
theorem met_RemoteAccessesAreAnswered :
    (∀ o ∈ [4032, 8128, 8192],
      let m : Msg := { msg with object := 7, offset := BitVec.ofNat _ o, length := 64, data := List.replicate 64 1#8 }
      arrivesHere (remote 2) m = true ∧ (remote 2).bd.power = .run ∧ m.offset.toNat % 4096 + m.data.length ≤ 4096 ∧
      m.data ≠ [] ∧ arrivesHere (remote 2) { m with data := [] } = true ∧ m.length.toNat = m.data.length ∧ errorFree (remote 2) = true ∧ (remote 2).bs = [] ∧
      windowAdmits (remote 2) m.object.toNat m.src.toNat m.offset.toNat m.data.length = decide (o ≠ 8192)) ∧
    (∀ op ∈ [0x53, 0x54],
      let s := holds (remoteTlb (remote 2)) (transporting op trans1)
      s.cmd? 1 = some (transporting op trans1) ∧ (transporting op trans1).status = none ∧ (transporting op trans1).opcode = op ∧ (transporting op trans1).undo = [] ∧ trans1.unsent = [] ∧
      (transporting op trans1).word 7 ≤ trans1.checked) ∧
    ((transporting 0x54 trans1).addr 3 % 4096 + 4096 ≤ 4096 ∧ handleUp (remote 2) = true ∧
     tlbLookup (remoteTlb (remote 2)).sp 65 0 ((transporting 0x54 trans1).addr 3 / 4096) true = some tlb) ∧
    (let s : State := { (holds (remote 2) (transporting 0x53 trans1)) with cp := { seg.cp with table := [transporting 0x53 trans1], time := 10500000 } }
     hoopOn s = true ∧ s.cmd? 1 = some (transporting 0x53 trans1) ∧ trans1.unanswered.all (fun u => u.2.2 + watchdog s ≤ s.cp.time) = true) := by
  decide +kernel

/-- The answers arrive: one without data, one of a page. -/
theorem met_RemoteAccessesAreAnswered_answers (op : Nat) (h : op = 0x53 ∨ op = 0x54) (d : List Byte) (hd : d = [] ∨ d = List.replicate 4096 0#8) :
    Arrives (holds (remoteTlb (remote 2)) (transporting op trans1)) (answer d) ∧
    answeredPart (transporting op trans1) trans1 (answer d) = some (0, 4096, 0) := by
  rcases h with rfl | rfl <;> rcases hd with rfl | rfl <;>
    exact ⟨arrives_iff _ _ (by decide +kernel), by decide +kernel⟩

/-! ### Rings -/

/-- A ring table entry of `n` members, of one token each, this engine at position `p`, its neighbours at positions p ± 1; shards in stake,
state in the stacks. -/
def entry (n p : Nat) : List Word :=
  [1 + (n - 1) * 2 ^ 16, p, (p + 1) % n, (p + n - 1) % n + 2 ^ 16, 0, 1, 0, 0x80, 0x200000].map wd

def sweepL (tokens : Nat) : List (Nat × Nat) :=
  [(2, 0x100), (4, 0x10000), (6, 0x20000), (8, 0x30000), (10, 0x40000), (12, 0x50000), (14, tokens * 0x10001), (15, 255)]

/-- A sweep of a ring of `n` members, with its plan in memory and step 0 committed. -/
def sweeping (op : Nat) (l : List (Nat × Nat)) (n : Nat) : State :=
  let s := planned op l
  { s with
    mem := planAt 0x20, bd := (remote 2).bd, hd := { moduleUp := 1 },
    hp := { hoop.hp with
      rings := [(255, entry n (1 % n))], ringSteps := [(255, { valid := true })],
      records := [{ ring := 255, words := packet 0x50 (sweepL 1), args := List.replicate 16 0#32 }] } }

/-- What the clauses ask of the state after the checks, of a ring of one member, and of its home shards in a larger one. -/
def ringReadyFor (c : Cmd) (k' : Compute) (r : Ring) (enter : State → State) (u : State) : Bool :=
  let e := ringEntry u 255
  let x := enterStep (enter u) c r 0
  let w := collect x.1 (fun v d => shardToSend v c k' r d) (moveDirs e 0)
  (match u.cmd? 1 with | some d => d.status == none && d.stop == none | none => false) && (sweepFor u 255).isNone && u.hp.heldAccess.isEmpty &&
  (ringMembers e == 1 || (w.2.isSome && w.1.hp.heldAccess.isEmpty && !(moveDirs e 0).isEmpty &&
    (match w.1.cmd? 1 with | some f => f.status == none && f.run == .ring x.2 | none => false)))

theorem met_SweepsAndReplaysStart : ∀ n ∈ [1, 3],
    (let s := sweeping 0x50 (sweepL 1) n
     let c := cmd 0x50 (sweepL 1)
     let g := begun s c
     let ready (u : State) (k : Compute) := ringReadyFor g k (sweepRing g k) (fun u => sweepEntry u g k) u
     starts s c = true ∧ c.word 15 % 2 ^ 8 = 255 ∧ ringBwd c = false ∧ ringCheck (begin_ s c) g (ringInFlight (begin_ s c) g 255) = none ∧
     (planWith readArgs areasCheck (fun u _ k => if ready u k then up else State.reset) (begin_ s c) g).bd.divRun = true ∧
     (planWith readArgs areasCheck (fun _ _ _ => State.reset) (begin_ s c) g).bd.divRun = false) ∧
    (∀ resume ∈ [0, n / 2],
     let s := sweeping 0x72 [(2, 255), (3, resume)] n
     let c := cmd 0x72 [(2, 255), (3, resume)]
     let x : SweepRec := { ring := 255, words := packet 0x50 (sweepL 1), args := List.replicate 16 0#32 }
     let g : Cmd := { begun s c with words := replayWords c x }
     let ready (u : State) (k : Compute) :=
       ringReadyFor g (freshWork k 0) (replayRing 0 (some 0) g k) (fun u => replayEntry u g k) u
     let plan := planWith (fun s _ => (s, some x.args)) (replayCheck x resume (some 0))
     starts s c = true ∧ c.word 3 % 2 ^ 16 = resume ∧ s.hp.records.find? (fun y => y.ring == c.word 2 % 2 ^ 8) = some x ∧
     tget {} s.hp.ringSteps 255 = { valid := true } ∧ tw x.words 15 % 2 ^ 8 = x.ring ∧ ringBwd g = false ∧ ringCheck (begin_ s c) g false = none ∧
     (plan (fun u _ k => if ready u k then up else State.reset) (begin_ s c) g).bd.divRun = true ∧
     (plan (fun _ _ _ => State.reset) (begin_ s c) g).bd.divRun = false) := by decide +kernel

/-- A sweep of ring 255 of three members in step `r.step`, on engine 1. -/
def inRing (r : Ring) (t : Nat) : State :=
  let c : Cmd := { ran 0x50 (sweepL 1) with run := .ring r }
  let s := holds (remote 2) c
  { s with cp := { s.cp with time := t }, hp := { s.hp with rings := [(255, entry 3 1)] } }

/-- Its own shards sent, all work done. -/
def ring1 : Ring := { ring := 255, sent := true, work := { work 0x20 with items := 0 } }
def rmsg (src : Nat) : Msg := { src := BitVec.ofNat _ src, dest := 1, port := 15, object := 255 }
def shardMsg (src o : Nat) : Msg := { rmsg src with offset := BitVec.ofNat _ o, data := List.replicate 64 5#8, length := 64 }

theorem met_RingStepsAndShards :
    (∀ r ∈ [{ ring1 with gotCw := 128, gotAcw := 128, ackCw := true, ackAcw := true }, ring1],
      (inRing r 0).running = true ∧ (∃ y ∈ sweepFor (ringMove (inRing r 0) 255) 255, y.2.ring = 255 ∧ y.1.stop = none ∧
        stepComplete (ringMove (inRing r 0) 255) y.1 y.2 = r.ackCw)) ∧
    (∀ n ∈ [0, 2], ∀ o ∈ [0, 64],
      arrivesHere (inRing ring1 0) (shardMsg n o) = true ∧
      (∃ y ∈ sweepFor (inRing ring1 0) 255, y.2 = ring1 ∧ (inRing ring1 0).cmd? y.1.id = some y.1 ∧ y.1.stop = none ∧
        (shardMsg n o).offset.toNat + (shardMsg n o).data.length ≤ shardBytes y.1 ring1.work ring1.bwd) ∧
      ring1.waiting = false ∧ ring1.finishing = false ∧ (shardMsg n o).step.toNat = ring1.step ∧ errorFree (inRing ring1 0) = true ∧
      (fromDir (ringEntry (inRing ring1 0) 255) n).any (fun d => ring1.expects (ringEntry (inRing ring1 0) 255) d) = true) ∧
    (arrivesHere (inRing ring1 0) (rmsg 2) = true ∧ (rmsg 2).src.toNat = ringSucc (ringEntry (inRing ring1 0) 255) ∧ ring1.ackCw = false ∧
     (rmsg 2).src.toNat = homeSource (inRing ring1 0) (ringEntry (inRing ring1 0) 255) 255 0) ∧
    (∀ l ∈ [[], [(255, 2, 0)]], let s := { remote 2 with hp := { (remote 2).hp with owed := l } }
     arrivesHere s (rmsg 2) = true ∧ sweepFor s 255 = none ∧ s.hp.owed = l) := by decide +kernel

theorem met_WatchdogLeaveAndHello :
    (let s := inRing ring1 10500000
     hoopOn s = true ∧ (∃ y ∈ sweepFor s 255, y.2 = ring1 ∧ s.cmd? y.1.id = some y.1 ∧ y.1.opcode = 0x50 ∧ (waitedOn s y.1 ring1).head? = some 0 ∧
       max ring1.since y.1.tLast + watchdog s ≤ s.cp.time ∧ y.1.undo = []) ∧ ring1.workDone = true ∧
     2 ≤ ringMembers (ringEntry s ring1.ring) ∧ tw (ringEntry s ring1.ring) 0 % 2 = 1) ∧
    (arrivesHere (remote 2) (rmsg 2) = true ∧ leaveTarget (remote 2) 255 2 = none) ∧
    (let s := { remote 2 with bd := { (remote 2).bd with setA := { (remote 2).bd.setA with detour0 := 0x100 } } }
     let s := s.setPort 0 (s.port 15)
     arrives s { rmsg 2 with port := 0 } = true ∧ discarded s { rmsg 2 with port := 0 } = true) ∧
    (let s := inRing ring1 0
     arrivesHere s (rmsg 2) = true ∧ (∃ y ∈ leaveTarget s 255 2, y.1 = 1 ∧ (∃ c ∈ s.cmd? y.1, c.status = none ∧ c.undo = []))) := by
  decide +kernel

/-! ### Collectives -/

/-- Group 255 of the engines on the axes of a mask. -/
def grouped (mask : Nat) (s : State) : State := { s with hp := { s.hp with groups := [(255, [wd (1 + 2 * mask)])] } }
def reduce (n : Nat) : Cmd := cmd 0x51 [(2, 0x1000), (4, n), (5, 255)]

/-- Eight collectives of queue 1 in flight. -/
def eight : List Cmd := (List.range 8).map (fun i => { ran 0x51 [] with id := 10 + i, queue := 1, run := .collective { slot := i } })

/-- The exchange of 96 elements along X: the chunks of this engine hold 32. -/
def exchange : Collective :=
  { group := 255, addr := 0x1000, total := 96, ranges := [(0, 96)], stages := [(false, 0), (true, 0)], entered := true }

theorem met_CollectivesRun_start :
    (∀ k ∈ [0, 1], let s := holds (grouped k (remote 2)) (reduce 96)
     starts s (reduce 96) = true ∧ groupCheck s (groupEntry s ((reduce 96).word 5 % 2 ^ 8)) = none ∧
     (groupMembers s (groupEntry s 255)).length = 1 + 2 * k) ∧
    (let s := grouped 1 (remote 2)
     let s := { s with cp := { s.cp with table := reduce 96 :: eight } }
     starts s (reduce 96) = true ∧ freeSlot s = none ∧ 1 < (groupMembers s (groupEntry s 255)).length) ∧
    (let s := holds (grouped 1 (remote 2)) (reduce 96)
     freeSlot s = some 0 ∧ s.hp.heldAccess = [] ∧ maskAxes (groupEntry s 255) = [0] ∧ 1 < stageSize s exchange 0 ∧
     0 < (chunkRange exchange 0 3 (sendChunk false 3 (stagePos s exchange 0) 1)).2 ∧
     0 < (chunkRange exchange 0 3 (recvChunk false 3 (stagePos s exchange 0) 1)).2) ∧
    (∀ n ∈ [0, 2 ^ 32 - 1], let c := cmd 0x52 [(2, 0x1000), (4, 0x2000), (6, 255)]
     let s := holds { grouped 0 (remote 2) with mem := put {} [(0x2000, n)] } c
     let r := plaitRead (begin_ s c) (begun s c) 4 (c.addr 4) 4
     starts s c = true ∧ groupCheck s (groupEntry s 255) = none ∧ (groupMembers s (groupEntry s 255)).length = 1 ∧
     (r.2.map (fun bs => sumNat ((wordsOf bs).map (·.toNat)))) = some n ∧ r.1.cmd? 1 = some (begun s c)) := by
  decide +kernel

/-- The counts 2^32 - 1, `n` and 0 of a group of three, with collectives of queue 1 in flight. -/
theorem met_CollectivesRun_counts : ∀ n ∈ [0, 1], ∀ l ∈ [[], eight],
    let c := cmd 0x52 [(2, 0x1000), (4, 0x2000), (6, 255)]
    let s := holds { grouped 1 (remote 2) with mem := put {} [(0x2000, 2 ^ 32 - 1), (0x2004, n)] } c
    let s := { s with cp := { s.cp with table := c :: l } }
    let r := plaitRead (begin_ s c) (begun s c) 4 (c.addr 4) 12
    starts s c = true ∧ groupCheck s (groupEntry s 255) = none ∧ (groupMembers s (groupEntry s 255)).length = 3 ∧
    (r.2.map (fun bs => sumNat ((wordsOf bs).map (·.toNat)))) = some (2 ^ 32 - 1 + n) ∧ r.1.cmd? 1 = some (begun s c) ∧
    (begun s c).undo = [] ∧ (begun s c).run = .none ∧ freeSlot r.1 = (if l = [] then some 0 else none) ∧ r.1.hp.heldAccess = [] := by decide +kernel

def exchanging (g : Collective) : State :=
  grouped 1 (holds (remoteTlb (remote 2)) { ran 0x51 [(2, 0x1000), (4, 96), (5, 255)] with run := .collective g })
def chunkMsg (n k : Nat) : Msg := { rmsg 2 with step := BitVec.ofNat _ (stepKey exchange), offset := BitVec.ofNat _ n, data := List.replicate k 1#8, length := BitVec.ofNat _ k }

/-- The same with the sender's command known. -/
def known : Collective := { exchange with senders := [(2, 0)] }

theorem met_CollectivesRun :
    (let g := { known with sent := 32, signalled := true }
     let s := exchanging g
     let x := chunkRange g 0 3 (recvChunk false 3 (stagePos s g 0) g.step)
     let va := g.addr + 4 * (x.1 + 64 / 4)
     arrivesHere s (chunkMsg 64 64) = true ∧ s.hp.past = [] ∧ (∃ y ∈ collectiveFor s 0x20 (chunkMsg 64 64), y.2 = g ∧ s.cmd? y.1.id = some y.1) ∧
     stageSize s g 0 = 3 ∧ g.step < 3 ∧ (chunkMsg 64 64).step.toNat = stepKey g ∧ 64 / 4 + 64 / 4 ≤ x.2 ∧ g.got + 4 * 16 < chunkSlotBytes ∧
     64 + 64 ≤ chunkSlotBytes ∧ va % 4096 + 64 ≤ 4096 ∧ errorFree s = true ∧ handleUp s = true ∧
     (∀ w ∈ [false, true], tlbLookup s.sp 65 0 (va / 4096) w = some tlb) ∧
     g.sent = (chunkRange g 0 3 (sendChunk false 3 (stagePos s g 0) g.step)).2 ∧ tlb.ppn * 4096 + va % 4096 + 64 ≤ reduceLo) ∧
    (∀ p ∈ [(0x21, known, { known with signals := [(stepKey exchange, 0)] }),
        (0x23, { known with sent := 32, signalled := true }, { known with sent := 32, signalled := true, grants := [(stepKey exchange, 1)] })],
      let s := exchanging p.2.1
      arrivesHere s (chunkMsg 0 0) = true ∧ s.hp.past = [] ∧ (∃ y ∈ collectiveFor s p.1 (chunkMsg 0 0), y.2 = p.2.1 ∧
        (let v := setRun (credited s p.1 (chunkMsg 0 0)) y.1.id (.collective p.2.1)
         stepMove v y.1 p.2.2 false 0 = (v, none)))) := by decide +kernel

/-- The signal that ends the last stage. -/
theorem met_CollectivesRun_last :
    let g := { known with stages := [(true, 0)], step := 2, widened := true, signalled := true, sent := 32, got := 128 }
    let m := { chunkMsg 128 0 with step := BitVec.ofNat _ (stepKey g) }
    let s := exchanging g
    arrivesHere s m = true ∧ (∃ y ∈ collectiveFor s 0x21 m, y.2 = g) ∧ m.step.toNat = stepKey g ∧ m.offset.toNat ≤ g.got ∧ stageSize s g 0 = 3 ∧
    (chunkRange g 0 3 (sendChunk true 3 (stagePos s g 0) g.step)).2 ≤ g.sent ∧ sentDone (credited s 0x21 m) 1 = true := by decide +kernel

/-- Counts of the member that follows, the first and the last to come, that differ or agree; and messages of no command in flight. -/
theorem met_CollectivesRun_agree :
    (∀ h ∈ [0, 1], ∀ d ∈ [false, true], let g := { known with
        agreeing := true, entered := false, stages := [(false, 3), (true, 3)], counts := [32, 32, 32], heard := h, differ := d }
     let s := exchanging g
     let m := { rmsg 2 with offset := BitVec.ofNat _ (countsValue g).1, aux := BitVec.ofNat _ (countsValue g).2 }
     let go := { g with heard := h + 1, differ := false, agreeing := false }
     arrivesHere s m = true ∧ (∃ y ∈ collectiveFor s 0x22 m, y.2 = g) ∧ (m.offset.toNat, m.aux.toNat) = countsValue g ∧
     m.src.toNat = (g.members s).getD (((g.members s).findIdx (· == ownId s) + 1) % (g.members s).length) 0 ∧
     (g.members s).length - 1 = 2 ∧ 0 < (chunkRange go 3 3 (sendChunk false 3 ((g.members s).findIdx (· == ownId s)) 1)).2) ∧
    (arrivesHere (remote 2) (rmsg 2) = true ∧ (remote 2).hp.past = [] ∧ ∀ t ∈ [0x20, 0x21, 0x22, 0x23], collectiveFor (remote 2) t (rmsg 2) = none) ∧
    (let s := { remote 2 with hp := { (remote 2).hp with past := [(255, 2, 0)] } }
     arrivesHere s (rmsg 2) = true ∧ (255, (rmsg 2).src.toNat, (rmsg 2).tag.toNat) ∈ s.hp.past) := by decide +kernel

/-! ### Tally, the configuration and power -/

def snapL (n : Nat) : List (Nat × Nat) := [(2, 0x1000), (4, 255 + 2 ^ 16), (5, n)]
def scaleL (v : Nat) : List (Nat × Nat) := [(2, 511), (3, v)]

/-- Slot 255 copied, with and without the clear, and its scale set, at the least scale and at one below. -/
theorem met_TallyRecordsAndCounts_commands :
    (∀ n ∈ [0, 1], let s := holds seg (cmd 0x62 (snapL n))
     let c := cmd 0x62 (snapL n)
     let r := translateRange (begin_ s c) (s.queue c.queue).cfg.xlCtx (plaitAccess (begun s c) 2 (c.addr 2) true) (c.addr 2) 320
     starts s c = true ∧ c.word 4 % 2 ^ 8 = 255 ∧ c.word 4 / 2 ^ 16 % 2 ^ 8 = 1 ∧ r.2 = (some [(0x1000, 320)], .at 0) ∧
     (writeMeets r.1 [(0x1000, 320)] (wordBytes (slotRecord 255 (r.1.slot 255)))).2 = none ∧ r.1.cmd? 1 = some (begun s c)) ∧
    (∀ p ∈ [(0x00800000, none), (0x7F7FFFFF, none), (0x007FFFFF, some 0x0601), (0x80800000, some 0x0601)],
     starting 0x63 (scaleL p.1) = true ∧ scaleCheck (scalePairs (cmd 0x63 (scaleL p.1))) = p.2) ∧
    (starting 0x63 (scaleL 0x00800000 ++ [(4, 255), (5, 0x00800000)]) = true ∧
     scaleCheck (scalePairs (cmd 0x63 (scaleL 0x00800000 ++ [(4, 255), (5, 0x00800000)]))) = some 0x0602) := by decide +kernel

def counting (freeze : Bool) : State :=
  { up with tl := { freeze := freeze, cfg := [(15, { allUnits := true, event := 0x20 })], cnt := [(15, 2 ^ 32 - 1)], events := [(512 * 0x20 + 255, 1)] } }

theorem met_TallyRecordsAndCounts_counters :
    (∀ b ∈ [false, true], (counting b).bd.divRun = true ∧ (counting b).tl.freeze = b ∧ (counting b).windowOpen 9 = true ∧
      (∀ n ∈ [0, 1], 0 < tget 0 (counting b).tl.events (512 * 0x20 + 255) + n) ∧ (∀ j, j < 16 → chained (counting b).tl j = false)) ∧
    (2#32).getLsbD 1 = true ∧ (1#32).getLsbD 0 = true ∧ (1#32).getLsbD 1 = false := by decide +kernel

theorem met_ReadsThatClear : ∀ w ∈ [0, 2, 3, 5, 7, 8, 9, 11], up.windowOpen w = true := by decide +kernel

/-- Both sets of the configuration: the shadow holds a histogram base out of range, or nothing but defaults. -/
theorem met_ConfigurationSwaps :
    (∀ p ∈ [(0x44, true), (0x45, false)], let c := cmd 0x60 [(14, p.1), (15, 1)]
     starting 0x60 [(14, p.1), (15, 1)] = true ∧ ((∀ x ∈ shadowPairs c, x.1 ∈ fieldIds) ↔ p.2 = true)) ∧
    starting 0x61 [] = true ∧
    (∀ b ∈ [false, true], let s : State := { up with bd := { up.bd with cfgSelB := b, cfgSelField := 0x44 } }
     s.windowOpen 10 = true ∧ 0x44 ∈ fieldIds ∧ (s.bd.cfgSelB = s.bd.activeB ↔ b = false)) := by decide +kernel

def bdWith (f : Border → Border) : State := { up with bd := f up.bd }

/-- Rail 7 is polled, after `m` polls without an answer, as a Park exit turns it on. -/
def polling (m : Nat) : State :=
  bdWith (fun b => { b with pmbEnable := true, pmbAddr := [(7, 0xC0)], pmbMissed := [(7, m)], railsOff := [7], railCmd := [(7, .on)] })

/-- Rail 7 in the first or the third poll without an answer; sensors below, at and above each threshold; each end of the caps. -/
theorem met_CapsAndRegulators_rails :
    (up.windowOpen 10 = true ∧ (3#32).getLsbD 0 = true) ∧
    (∀ m ∈ [0, 2], ∀ k, k < 8 → k ≠ 7 → (tget 0 (polling m).bd.pmbAddr k).testBit 7 = false ∧ k ∉ (polling m).bd.railsOff) ∧
    (∀ m ∈ [0, 2], ∀ r ∈ [{}, { outputFault := true }, { answers := false }, { powerGood := false : RailAnswer }],
     let s := polling m
     let l := List.replicate 7 ({} : RailAnswer) ++ [r]
     s.bd.coldLow = false ∧ s.bd.power = .run ∧ s.bd.pmbEnable = true ∧ l.length = 8 ∧ l.getD 7 {} = r ∧
     (tget 0 s.bd.pmbAddr 7).testBit 7 = true ∧
     tget 0 s.bd.pmbMissed 7 = m ∧ s.bd.railsOff = [7] ∧ tget .none s.bd.railCmd 7 = .on) := by decide +kernel

theorem met_CapsAndRegulators_caps :
    (∀ t ∈ [0, up.active.thrOn - 1, up.active.thrOn, 109, 110, 255], ∀ k ∈ [1, 2, 16],
     let s := bdWith (fun b => { b with thermalCap := k })
     monitored s = true ∧ (List.replicate 136 t).length ≤ 136 ∧ (hottest (List.replicate 136 t)).1 = t) ∧
    (∀ k ∈ [1, 16], let s := bdWith (fun b => { b with thermalCap := k, hotNow := true, sinceFall := 10, coolReads := 101 })
     monitored s = true ∧ s.bd.hotNow = true ∧ 10 ≤ s.bd.sinceFall ∧ 101 ≤ s.bd.coolReads) ∧
    (∀ h ∈ [false, true], let s := { up with bs := [(31, { up.base 31 with hot := h })] }
     s.bd.divRun = true ∧ s.bd.phase = 0 ∧ (s.base 31).hot = h) ∧
    (let s := bdWith (fun b => { b with pmbAddr := [(7, 0xC0)], pmbWatts := [(7, 200), (6, 9)] })
     let w := sumNat (((List.range 8).filter (fun r => (tget 0 s.bd.pmbAddr r).testBit 7)).map (fun r => tget 0 s.bd.pmbWatts r))
     monitored s = true ∧ 1000 + w = 1200 ∧ 1221 + w = 1421 ∧ s.bd.excursion = false) ∧
    (monitored up = true ∧ up.bd.excursion = false ∧ up.bd.cooldown = false ∧ up.bd.excursionCut = false) ∧
    (let s := bdWith (fun b => { b with excursion := true, excursionUs := up.active.excursionUs })
     monitored s = true ∧ s.bd.excursion = true ∧ s.bd.excursionCut = false ∧ s.active.excursionUs ≤ s.bd.excursionUs) ∧
    (let s := bdWith (fun b => { b with cooldown := true })
     monitored s = true ∧ s.bd.cooldown = true ∧ s.bd.cooldownLeft = 0 ∧ s.bd.excursionCut = false) := by decide +kernel

theorem met_PowerStatesMove :
    (up.windowOpen 10 = true ∧ up.bd.power = .run) ∧
    (∀ p ∈ [Power.idle, .rest, .park, .entering 1, .entering 2], (bdWith (fun b => { b with power := p })).windowOpen 10 = true) ∧
    (∀ k ∈ [1, 2, 3], ∀ p ∈ [Power.run, .idle, .rest], let s := bdWith (fun b => { b with waiting := true, target := k, power := p })
     s.bd.waiting = true ∧ s.bd.power = p ∧ (s.plaitUp = true ∨ p = .rest) ∧ s.cp.table = [] ∧ s.cp.queues = [] ∧
     (holds s (cmd 0x01 [])).cp.table ≠ []) ∧
    (let s := { bdWith (fun b => { b with waiting := true, target := 3, power := .rest }) with cp := (q0 .running).cp }
     let s := s.setQueue 0 { s.queue 0 with doorbell := 1 }
     s.bd.waiting = true ∧ s.bd.power = .rest ∧ (∃ p ∈ s.cp.queues, p.2.st ≠ .disabled ∧ p.2.head ≠ p.2.doorbell)) ∧
    (∀ k ∈ [1, 2, 3], (bdWith (fun b => { b with power := .entering k })).bd.power = .entering k) ∧
    (bdWith (fun b => { b with power := .returning, divRun := false })).bd.divRun = false ∧
    (let s := bdWith (fun b => { b with power := .returning })
     s.bd.power = .returning ∧ s.bd.resetDue = false ∧ s.bd.divRun = true ∧ s.cp.queues = [] ∧ s.hp.heldAccess = []) ∧
    (let s := bdWith (fun b => { b with power := .park, exitDue := true, railsOff := [7, 6, 5, 3, 2, 1] })
     s.bd.power = .park ∧ s.bd.exitDue = true ∧ s.bd.coldLow = false ∧ s.bd.railsOff.getLast? = some 1) ∧
    (∀ p ∈ [Power.run, .idle, .rest, .returning, .entering 2], let s := bdWith (fun b => { b with parkDue := some (135, 2), power := p })
     s.bd.parkDue = some (135, 2) ∧ s.bd.power ≠ .park ∧ s.bd.power ≠ .off ∧ s.bd.power ≠ .entering 3) := by decide +kernel

/-- With no queue that was ever written, every queue is disabled and owes nothing. -/
theorem met_PowerStatesMove_queues (s : State) (h : s.cp.queues = []) :
    (∀ q, (s.queue q).st = .disabled ∧ (s.queue q).unread = false) ∧ (∀ p ∈ s.cp.queues, p.2 = s.queue p.1) := by
  constructor
  · intro q; simp [State.queue, h, tget]
  · simp [h]

theorem met_ResetsAndBringUp_resets :
    (up.windowOpen 10 = true ∧ up.bd.power = .run ∧ (0xB0D70001#32).toNat / 2 ^ 16 = 0xB0D7 ∧ (0xB0D70001#32).getLsbD 0 = true) ∧
    ((0xB0D70002#32).toNat / 2 ^ 16 = 0xB0D7 ∧ (0xB0D70002#32).getLsbD 0 = false ∧ (0xB0D70002#32).getLsbD 1 = true ∧ up.cp.table = [] ∧
     (up.cl.descs.map (·.1)).Nodup ∧ up.bd.power = .run) ∧
    (∀ p ∈ [Power.entering 2, .returning], let s := { bdWith (fun b => { b with power := p, target := 2 }) with bs := [(31, { up.base 31 with selfRefresh := true })] }
     s.windowOpen 10 = true ∧ s.cp.table = [] ∧ s.hp.heldAccess = [] ∧ s.bd.power = p ∧ s.bd.resetDue = false ∧ (s.base 31).selfRefresh = true) ∧
    ((bdWith (fun b => { b with engineReset := true })).bd.engineReset = true ∧ (bdWith (fun b => { b with power := .off })).bd.power = .off) ∧
    (∀ x ∈ [Scan.extest, .clamp, .highz], let s := { bdWith (fun b => { b with coldLow := true }) with jt := [(17, { ir := x, selected := 2 })] }
     s.bd.coldLow = true ∧ s.bd.power ≠ .off ∧ (s.die 17).ir = x) ∧
    (∀ x ∈ [(Power.park, false), (.off, false), (.run, true)], let s := bdWith (fun b => { b with power := x.1, coldLow := x.2 })
     s.bd.warmLow = false ∧ (s.bd.power = .park ∨ s.bd.power = .off ∨ s.bd.coldLow = true)) ∧
    (bdWith (fun b => { b with warmLow := true })).bd.warmLow = true := by decide +kernel

theorem met_ResetsAndBringUp_steps :
    (let s : State := { State.reset with bd := { State.reset.bd with resetDue := false, divRun := true, railsOff := [] } }
     bringUp s = true ∧ s.bd.resetDue = false ∧ s.bd.rootLock = false ∧ s.bd.unlocked = false ∧ s.bd.railsOff = [] ∧ s.bd.boot.fuseDone = false ∧
     s.bd.divRun = true ∧ s.bd.boot.plaitReady = false ∧ s.bd.boot.stacksReady = false ∧ s.bd.boot.stakeClear = false) ∧
    (bringUp up = true ∧ up.bd.rootLock = true) ∧
    (let s := bdWith (fun b => { b with resetDue := true, boot := { b.boot with plaitReady := false } })
     bringUp s = true ∧ s.bd.resetDue = true ∧ s.bd.divRun = true ∧ s.bd.boot.bootErr = false ∧ s.bd.boot.fuseDone = true ∧
     s.bd.boot.stakeClear = true ∧ s.bd.boot.stacksReady = true ∧ s.bd.boot.plaitReady = false) := by decide +kernel

theorem met_HeartbeatsAndSilence :
    (let s := (up.setPort 15 { state := .up, peer := 65535 }).setPort 13 { state := .up, credits := [0, 0, 0, 0] }
     hoopOn s = true ∧ s.bd.plaitHung = false ∧ s.hp.waiting = [] ∧ portUp s 15 = true ∧ portUp s 14 = false ∧ 0 < (s.port 15).credits.getD 0 0 ∧
     portUp s 13 = true ∧ (s.port 13).credits.getD 0 0 = 0) ∧
    (let s := { up.setPort 15 { state := .up, peer := 65535 } with cp := { up.cp with time := 3 * up.active.heartbeatMs * 525000 } }
     hoopOn s = true ∧ portUp s 15 = true ∧ s.bd.silent.testBit 15 = false ∧
     (s.port 15).lastHello + 3 * s.active.heartbeatMs * 525000 ≤ s.cp.time ∧
     firmwareRuns s = true ∧ s.bd.plaitHung = false ∧ s.bd.plaitSeen + 3 * s.active.heartbeatMs * 525000 ≤ s.cp.time) := by decide +kernel

/-! ### Handle, the register space and the scan chains -/

def hdWith (x : Handle) : State := { up with hd := x }

theorem met_HandleModules :
    (let s := hdWith { moduleUp := 0x8000, moduleEn := 0x8000 }
     s.windowOpen 11 = true ∧ s.hd.moduleUp &&& ((0x8000#32).toNat % 2 ^ 16) = s.hd.moduleUp ∧
     s.hd.moduleUp &&& ((0x0001#32).toNat % 2 ^ 16) ≠ s.hd.moduleUp) ∧
    (let s := hdWith { moduleEn := 0x8000, waiting := [(0, [1#32])] }
     handleOn s = true ∧ s.hd.moduleEn.testBit 15 = true ∧ s.hd.moduleUp.testBit 15 = false) ∧
    (let s := hdWith { moduleEn := 0x8000, moduleUp := 0x8000 }
     handleOn s = true ∧ s.hd.moduleUp.testBit 15 = true) ∧
    (let c := ran 0x62 []
     let s : State := { hdWith { held := [(1, 0, 4)] } with cp := { table := [c], nextId := 2, time := 105000 } }
     handleWait s 1 = some 4 ∧ s.bd.divRun = true ∧ handleUp s = false ∧ s.cmd? 1 = some c ∧ c.id = 1 ∧ c.status = none ∧ c.undo = []) := by
  decide +kernel

/-- Requests with a wrong check, to a window that does not exist, to one that is held, to a register; both scopes of a module, and a third value;
stake's data window. -/
theorem met_RegisterAccesses :
    (∀ m ∈ [0, 1, 2], let s := hdWith { moduleUp := 1, scope := m }
     answers s = true ∧ handleUp s = true ∧ s.hd.scope = m ∧ s.windowOpen 10 = true ∧ requestCrc 1#2 0#24 1#32 ≠ 0#8 ∧
     accessCode s 0xC00000 = some .error ∧ accessCode s 0xA00300 = none ∧ regWord s 0xA00300 = some 0 ∧ 0xA00300 ≠ 0x300008) ∧
    (∀ a ∈ [(0x000000, true), (0x0FFFFC, true), (0x908000, true), (0x908FFC, true), (0x907FFC, false), (0x909000, false), (0xA00000, false)],
     ((a.1 / 2 ^ 20 = 0 ∨ (a.1 / 2 ^ 20 = 9 ∧ 0x8000 ≤ a.1 % 2 ^ 20 ∧ a.1 % 2 ^ 20 < 0x9000)) ↔ a.2 = true)) ∧
    accessCode { up with bd := { up.bd with engineReset := true } } 0 = some .busy ∧ answers up = true ∧ up.windowBusy 3 = false := by decide +kernel

theorem met_BoundaryScanInstructions : up.bd.power ≠ .off ∧ up.bd.coldLow = false ∧ (bdWith (fun b => { b with coldLow := true })).bd.power ≠ .off ∧
    (bdWith (fun b => { b with coldLow := true })).bd.coldLow = true := by decide +kernel

/-! ### Checkpoint and adoption -/

theorem met_CheckpointAndAdopt_checkpoint :
    let c := cmd 0x70 [(2, 0x1000)]
    let s := holds seg c
    let r := translateParts (begin_ s c) (begun s c) ((0, 4096) :: ((List.range 4).filter (bit 0)).map sectionSpan)
    starts s c = true ∧ c.word 4 % 2 ^ 4 = 0 ∧ r.2 = (some [(0x1000, 4096)], .at 0) ∧
    (writeMeets r.1 [(0x1000, 4096)] (wordBytes (((checkpointParts r.1 0).map (·.2)).flatten))).2 = none ∧
    r.1.cmd? 1 = some (begun s c) := by decide +kernel

/-- An image at 0x1000 for engine 1, of the route section alone, and its check word, which is not computed here. -/
def routeMem : Memory := put {} [(0x2B000, 0x10001)]
def routePieces : List (Nat × Nat) := [43, 44, 45, 46, 47, 48, 49, 50, 51].map (fun p => (p * 4096, 4096))
def routeWords : List Word := zeros 0x8000 ++ zeros 0x2400 ++ wordsOf (readPieces routeMem routePieces) ++ zeros 0x2000
def routeHead (crc : Word) : List Word := imageHeader 0 4 0 crc
def checkWord : Word := imageCrc (routeHead 0#32) [routeWords]
def routeImage : List Word := routeHead checkWord ++ routeWords
def imageMemory : Memory := routeMem.writeBytes 0x1000 (wordBytes (routeHead checkWord))

/-- A state whose TLB for Plait holds the image's pages. -/
def adopter : Cmd := cmd 0x71 [(2, 1), (3, 0x1000)]
def adopting (m : Memory) : State :=
  let s := holds seg adopter
  { s with mem := m, sp := { s.sp with tlbs := [(64, [1, 43, 44, 45, 46, 47, 48, 49, 50, 51].map (fun p => ⟨0, p, p, true, true⟩))] } }

/-- The place that an agent's TLB gives an address, where it holds its page. -/
def hit (sp : Splint) (ctx : Nat) (w : Waiter) (va : Nat) : Option Nat :=
  (tlbLookup sp w.agent ctx (va / 4096) w.write).map (fun e => e.ppn * 4096 + va % 4096)

/-- Pages that the TLB holds, none of them in host memory, are translated with no other effect. -/
theorem translatePages_hit (s : State) (ctx : Nat) (w : Waiter) (l : List (Nat × Nat))
    (h : ∀ p ∈ l, (hit s.sp ctx w p.1).any (fun pa => regionOf pa != .host) = true) :
    translatePages s ctx w l = (s, some (l.map (fun p => ((hit s.sp ctx w p.1).getD 0, p.2))), .at 0) := by
  induction l with
  | nil => rfl
  | cons p l ih =>
    have hp := h p (List.mem_cons_self ..)
    have hl := ih (fun x hx => h x (List.mem_cons_of_mem _ hx))
    cases e : tlbLookup s.sp w.agent ctx (p.1 / 4096) w.write with
    | none => simp [hit, e] at hp
    | some x =>
      simp only [hit, e, Option.map_some, Option.any_some, bne_iff_ne] at hp
      simp [translatePages, Machine.translate, tlbMisses, resolve, e, noteEvent, b2n, hp, hl, hit]

def imageTlb : Splint := (adopting {}).sp
theorem adopting_sp (m : Memory) : (begin_ (adopting m) adopter).sp = imageTlb := rfl

theorem adopting_header (m : Memory) : translateRange (begin_ (adopting m) adopter) 0 (plaitAccess (begun (adopting m) adopter) 3 0x1000 false) 0x1000 4096 =
    (begin_ (adopting m) adopter, some [(0x1000, 4096)], .at 0) := by
  have e : plaitAccess (begun (adopting m) adopter) 3 0x1000 false = plaitAccess adopter 3 0x1000 false := rfl
  rw [translateRange, e, translatePages_hit _ _ _ _ (by rw [adopting_sp]; decide +kernel), adopting_sp,
    show (pagesOf 0x1000 4096).map (fun p => ((hit imageTlb 0 (plaitAccess adopter 3 0x1000 false) p.1).getD 0, p.2)) = [(0x1000, 4096)] by decide +kernel]

theorem adopting_routes (m : Memory) : translateRange (begin_ (adopting m) adopter) 0 (plaitAccess (begun (adopting m) adopter) 3 0x2B000 false) 0x2B000 0x9000 =
    (begin_ (adopting m) adopter, some routePieces, .at 0) := by
  have e : plaitAccess (begun (adopting m) adopter) 3 0x2B000 false = plaitAccess adopter 3 0x2B000 false := rfl
  rw [translateRange, e, translatePages_hit _ _ _ _ (by rw [adopting_sp]; decide +kernel), adopting_sp,
    show (pagesOf 0x2B000 0x9000).map (fun p => ((hit imageTlb 0 (plaitAccess adopter 3 0x2B000 false) p.1).getD 0, p.2)) = routePieces by decide +kernel]

theorem zeros_length (n : Nat) : (zeros n).length = n := List.length_replicate

theorem padTo_six (n : Nat) (a b c d e f : Word) : padTo (n + 6) [a, b, c, d, e, f] = a :: b :: ([c, d, e, f] ++ zeros n) := by
  rw [padTo, List.take_of_length_le (by rw [List.length_append, zeros_length]; simp only [List.length_cons, List.length_nil]; omega)]
  simp only [List.length_cons, List.length_nil, Nat.add_sub_cancel, List.cons_append, Nat.zero_add, Nat.reduceAdd]

theorem adopting_mem (m : Memory) : (begin_ (adopting m) adopter).mem = m := rfl

theorem routeHead_eq (w : Word) : routeHead w =
    wd imageMagic :: w :: ([wd (0 % 2 ^ 17 + 4 * 2 ^ 20), 1#32, wd 0, wd (0 / 2 ^ 32 % 2 ^ 15)] ++ zeros 1018) :=
  padTo_six 1018 _ _ _ _ _ _

theorem imageCrc_word (a v w : Word) (l : List Word) (r : List (List Word)) : imageCrc (a :: v :: l) r = imageCrc (a :: w :: l) r := by
  simp only [imageCrc, List.set_cons_succ, List.set_cons_zero]

theorem routeHead_length (w : Word) : (routeHead w).length = 1024 := by
  rw [routeHead_eq, List.length_cons, List.length_cons, List.length_append, zeros_length]; rfl

theorem plaitRead_of {s u : State} {c : Cmd} {word va n : Nat} {ps : List (Nat × Nat)} {x : Xlate}
    (h : translateRange s (ctxOf s c) (plaitAccess c word va false) va n = (u, some ps, x)) (hb : errorFree u = true) :
    plaitRead s c word va n = (u, some (readPieces u.mem ps)) := by
  simp [plaitRead, h, readMeets_free u ps hb]

theorem readImage_found : readImage (begin_ (adopting imageMemory) adopter) (begun (adopting imageMemory) adopter) =
    (begin_ (adopting imageMemory) adopter, some routeImage) := by
  have hb : errorFree (begin_ (adopting imageMemory) adopter) = true := by
    rw [errorFree, adopting_mem, imageMemory, Memory.writeBytes_bad, Memory.writeBytes_soft, Memory.writeBytes_once]; rfl
  have h1 : plaitRead (begin_ (adopting imageMemory) adopter) (begun (adopting imageMemory) adopter) 3 0x1000 4096 = _ := plaitRead_of (adopting_header imageMemory) hb
  have h2 : plaitRead (begin_ (adopting imageMemory) adopter) (begun (adopting imageMemory) adopter) 3 0x2B000 0x9000 = _ := plaitRead_of (adopting_routes imageMemory) hb
  have e1 : readPieces (begin_ (adopting imageMemory) adopter).mem [(0x1000, 4096)] = wordBytes (routeHead checkWord) := by
    have h := Memory.readBytes_writeBytes routeMem 0x1000 (wordBytes (routeHead checkWord))
    rw [wordBytes_length, routeHead_length, show 4 * 1024 = 4096 from rfl] at h
    rw [adopting_mem, readPieces, List.map_cons, List.map_nil, List.flatten_cons, List.flatten_nil, List.append_nil]; exact h
  have e2 : readPieces (begin_ (adopting imageMemory) adopter).mem routePieces = readPieces routeMem routePieces := by
    rw [adopting_mem, readPieces, readPieces]
    apply congrArg List.flatten
    apply List.map_congr_left
    intro p hp
    have : 0x2000 ≤ p.1 := by revert p; decide
    exact Memory.readBytes_outside _ _ _ _ _ (by rw [wordBytes_length, routeHead_length]; omega)
  rw [e1] at h1
  rw [e2] at h2
  have a1 : (begun (adopting imageMemory) adopter).addr 3 = 0x1000 := by decide
  have hc : imageChosen (routeHead checkWord) = 4 := by decide +kernel
  simp only [readImage, a1]
  rw [h1]
  simp only [wordsOf_wordBytes, hc]
  simp only [show List.range 4 = [0, 1, 2, 3] from rfl, List.foldl, sectionSpan, show bit 4 0 = false from rfl, show bit 4 1 = false from rfl,
    show bit 4 2 = true from rfl, show bit 4 3 = false from rfl]
  simp [h2, routeImage, routeWords]

/-- The routes of the image: engine 1, no torus. -/
theorem route_words : ∀ i ∈ [(0, 0x10001), (1, 0), (2, 0), (3, 0)],
    ((wordsOf (readPieces routeMem routePieces) ++ zeros 0x2000).getD i.1 0#32).toNat = i.2 := by decide +kernel

theorem getD_left (l m : List Word) (i : Nat) (h : i < l.length) : (l ++ m).getD i 0#32 = l.getD i 0#32 := by
  rw [List.getD_eq_getElem?_getD, List.getD_eq_getElem?_getD, List.getElem?_append_left h]

theorem getD_right (l m : List Word) (i : Nat) : (l ++ m).getD (l.length + i) 0#32 = m.getD i 0#32 := by
  rw [List.getD_eq_getElem?_getD, List.getD_eq_getElem?_getD, List.getElem?_append_right (Nat.le_add_right _ _), Nat.add_sub_cancel_left]

theorem routeImage_head (i : Nat) (h : i < 1024) : routeImage.getD i 0#32 = (routeHead checkWord).getD i 0#32 :=
  getD_left _ _ _ (by rw [routeHead_length]; exact h)

theorem routeImage_zero (i : Nat) (h : 1024 ≤ i) (h' : i < 0xA800) : routeImage.getD i 0#32 = 0#32 := by
  obtain ⟨j, rfl⟩ := Nat.exists_eq_add_of_le h
  have r := getD_right (routeHead checkWord) routeWords j
  rw [routeHead_length] at r
  rw [routeImage, r, routeWords, List.append_assoc, getD_left _ _ _ (by rw [List.length_append, zeros_length, zeros_length]; omega)]
  rw [zeros, zeros, List.replicate_append_replicate, List.getD_eq_getElem?_getD, List.getElem?_replicate]
  split <;> rfl

theorem routeImage_routes (i : Nat) : routeImage.getD (0xA800 + i) 0#32 =
    (wordsOf (readPieces routeMem routePieces) ++ zeros 0x2000).getD i 0#32 := by
  have e : routeImage = (routeHead checkWord ++ (zeros 0x8000 ++ zeros 0x2400)) ++ (wordsOf (readPieces routeMem routePieces) ++ zeros 0x2000) := by
    simp only [routeImage, routeWords, List.append_assoc]
  have r := getD_right (routeHead checkWord ++ (zeros 0x8000 ++ zeros 0x2400)) (wordsOf (readPieces routeMem routePieces) ++ zeros 0x2000) i
  rw [← e, List.length_append, routeHead_length, List.length_append, zeros, zeros, List.length_replicate, List.length_replicate] at r
  exact r

theorem routeImage_crc : imageCrc (routeImage.take 1024) [routeImage.drop 1024] = routeImage.getD 1 0#32 := by
  have hl : (routeHead checkWord).length = 1024 := routeHead_length _
  rw [routeImage_head 1 (by omega), routeImage, List.take_append_of_le_length (Nat.le_of_eq hl.symm), List.take_of_length_le (Nat.le_of_eq hl),
    List.drop_append_of_le_length (Nat.le_of_eq hl.symm), List.drop_of_length_le (Nat.le_of_eq hl), List.nil_append, routeHead_eq checkWord]
  show imageCrc _ _ = checkWord
  rw [imageCrc_word _ _ 0#32, ← routeHead_eq 0#32]
  rfl

theorem met_CheckpointAndAdopt_adopt :
    let s := adopting imageMemory
    let u := begin_ s adopter
    Starts s 0 0x71 adopter ∧ adoptBlocked u (begun (adopting imageMemory) adopter) = false ∧ readImage u (begun (adopting imageMemory) adopter) = (u, some routeImage) ∧
    imageCheck u (adopter.word 2 % 2 ^ 16) routeImage = none ∧ imageWindows routeImage = [] ∧
    installContexts u (imageContexts routeImage) = some u ∧ u.cmd? 1 = some (begun (adopting imageMemory) adopter) ∧
    (u.tl.slots.map (·.1)).Pairwise (· < ·) := by
  have w : imageWindows routeImage = [] := by
    simp only [imageWindows, List.filter_eq_nil_iff, List.mem_range]
    intro k hk
    rw [imageWord, routeImage_zero _ (by omega) (by omega)]; decide
  have x : imageContexts routeImage = [] := by
    simp only [imageContexts, List.filterMap_eq_nil_iff, List.mem_range]
    intro k hk
    rw [imageWord, routeImage_zero _ (by omega) (by omega)]; rfl
  have r : ∀ i, i < 4 → imageWord routeImage (0x2A000 + 4 * i) = if i = 0 then 0x10001 else 0 := by
    intro i hi
    rw [imageWord, show (0x2A000 + 4 * i) / 4 = 0xA800 + i by omega, routeImage_routes]
    have q := route_words
    match i, hi with
    | 0, _ => exact q (0, 0x10001) (by decide)
    | 1, _ => exact q (1, 0) (by decide)
    | 2, _ => exact q (2, 0) (by decide)
    | 3, _ => exact q (3, 0) (by decide)
  have r0 := r 0 (by omega)
  have r1 := r 1 (by omega)
  have r2 := r 2 (by omega)
  have r3 := r 3 (by omega)
  simp only [Nat.mul_zero, Nat.mul_one, Nat.add_zero, if_true] at r0 r1 r2 r3
  have d : imageDirs routeImage = [] := by
    simp [imageDirs, fabricDirs, r1, r2, r3]
  have m0 : imageWord routeImage 0 = imageMagic := by
    rw [imageWord, routeImage_head _ (by omega)]; decide +kernel
  have m8 : imageChosen routeImage = 4 := by
    rw [imageChosen, imageWord, routeImage_head _ (by omega)]; decide +kernel
  have m12 : imageWord routeImage 12 = 1 := by
    rw [imageWord, routeImage_head _ (by omega)]; decide +kernel
  refine ⟨starts_iff _ adopter ?_, rfl, readImage_found, ?_, w, ?_, rfl, by decide⟩
  · rfl
  · simp [imageCheck, m0, m8, m12, routeImage_crc, r0, d, x, w, installContexts]
    decide
  · rw [x]; rfl

/-- An engine with a window open or a second queue; an image of zeros, whose magic word is wrong. -/
theorem met_CheckpointAndAdopt_refused :
    (let s := adopting {}
     let w : State := { s with sp := { s.sp with windows := [(4095, { state := 1 })] } }
     let k : State := s.setQueue 255 { st := .halted }
     starts w adopter = true ∧ adoptBlocked (begin_ w adopter) (begun w adopter) = true ∧
     starts k adopter = true ∧ adoptBlocked (begin_ k adopter) (begun k adopter) = true) ∧
    (let s := adopting {}
     let e := begun s adopter
     let r := readImage (begin_ s adopter) e
     starts s adopter = true ∧ adoptBlocked (begin_ s adopter) e = false ∧ r.1 = begin_ s adopter ∧
     r.2.map (imageCheck r.1 (adopter.word 2 % 2 ^ 16)) = some (some 0x0510) ∧ r.1.cmd? 1 = some e ∧ e.status = none ∧ e.opcode = 0x71 ∧
     e.undo = []) := by decide +kernel

/-! ### Ill-formed commands are refused, one for each check -/

theorem queue_wf : ∀ f ∈ ([(.doorbell · 0), .nop, .fence, .signal, .waitEvents, .gemm, .gemm2, .convert, .rowstat, .softmax, .attnFwd, .attnBwd, .attnDecode,
      .scanFwd, .scanBwd, .seqOpen, .seqClose, .kvAppend, .kvFork, .kvTrim, .kvEvict, .kvPin, .xlMap, .xlInval, .winOpen, .winClose, .ringSweep,
      .ringStepCommit, .allreduce, .allreduceV, .putRemote, .getRemote, .cfgWriteShadow, .cfgSwap, .tallySnap, .scaleUpdate, .checkpoint, .adopt,
      .replay, .engineReset, .queueAbort, .abortComplete, (.queueEnable · 0), (.queueDisable · 0), .queueDisableComplete, (.resume · 0),
      .ringStepWatchdog] : List (Nat → Instr)), (f 256).wf = false ∧ (f 255).wf = true := by decide

theorem unit_wf_one : ∀ f ∈ ([(.workItemAssign · {}), (.drainComplete · {}), .arrayOffline, (.wvCfgWrite · 0), .heldArrayWriteApply, (.wvBistRun · 0), (.bistDone · 0),
      (.programLoad · 0), .bankSwitch, (.passStart · {}), (.beat · {}), (.sweepFinish · {}), .dqPartialCombine, (.partialCombine · {}), (.finishItem · {}), (.seedSwap · 0),
      .seedSwapExchange, (.rbSeedDataWrite · 0), .rbSeedDataRead, (.ribNop · {}), (.mov · {}), (.sel · {}), (.ldb · {}), (.stb · {}),
      (.konst · {}), (.rowv · {}), (.colv · {}), (.laneidx · {}), (.lswp · {}), (.fadd · {}), (.fsub · {}), (.fmul · {}), (.ffma · {}),
      (.fdiv · {}), (.fsqrt · {}), (.fmin · {}), (.fmax · {}), (.fcmp · {}), (.fsgn · {})] : List (Nat → Instr)), (f 32).wf = false ∧ (f 31).wf = true := by decide

theorem unit_wf_two : ∀ f ∈ ([(.fscale · {}), (.fexpo · {}), (.fcvt · {}), (.dadd · {}), (.dsub · {}), (.dmul · {}), (.dfma · {}), (.ddiv · {}), (.dsqrt · {}),
      (.dcmp · {}), (.turn · {}), (.iadd · {}), (.isub · {}), (.imul · {}), (.iand · {}), (.ior · {}), (.ixor · {}), (.ish · {}), (.icmp · {}),
      (.exp · {}), (.exp2 · {}), (.log2 · {}), (.rcp · {}), (.rsqrt · {}), (.tanh · {}), (.sint · {}), (.cost · {}), (.gact · {}), (.wexp · {}),
      (.wlog · {}), (.rsum · {}), (.rmax · {}), (.racc · {}), (.rowfin · {}), (.stg · {}), (.drop · {}), (.rbEccRead · 0), (.bsEccRead · 0 0),
      .reformDone] : List (Nat → Instr)), (f 32).wf = false ∧ (f 31).wf = true := by decide

theorem index_wf :
    (∀ f ∈ ([(.portEnable · 0), .portTrainingTimeout, (.portReset · 0), (.linkBlock · {}), (.tlCntWrite · 0 0), .tlCntRead, (.hpPortErrRead · 0 0 0),
      .portSilence, (.handleModuleUp · false), .handleModuleDown] : List (Nat → Instr)), (f 16).wf = false ∧ (f 15).wf = true) ∧
    (∀ f ∈ ([.bypass, .idcode, .samplePreload, .extest, .clamp, .highz] : List (Nat → Instr)), (f 18).wf = false ∧ (f 17).wf = true) ∧
    (∀ f ∈ ([.transferIssue, (.pageEntryDelivery · {})] : List (Nat → Instr)), (f 64).wf = false ∧ (f 63).wf = true) ∧
    (∀ f ∈ ([.agentWithdrawalAck] : List (Nat → Instr)), (f 66).wf = false ∧ (f 65).wf = true) ∧
    (∀ f ∈ ([.windowCloseComplete, (.cpEventWrite · 0)] : List (Nat → Instr)), (f 4096).wf = false ∧ (f 4095).wf = true) ∧
    (∀ f ∈ ([.missTimeout] : List (Nat → Instr)), (f 65536).wf = false ∧ (f 65535).wf = true) := by decide

/-- Part of a flit, too many flits, a port that does not exist, a request for too much. -/
theorem message_wf : ∀ f ∈ ([.putData, .putAck, .putNack, .getReq, .getData, .getNack, .shardData, .shardDone, .shardHome, (.chunkData · {}), .chunkSignal, .counts,
      .slotGrant, .leave, .hello] : List (Msg → Instr)),
    (f { data := [0] }).wf = false ∧ (f { data := List.replicate 4160 0 }).wf = false ∧ (f { port := 16 }).wf = false ∧
    (f { length := 4097 }).wf = false ∧ (f { port := 15, length := 4096, data := List.replicate 64 0 }).wf = true := by decide +kernel

theorem other_wf : ∀ i ∈ ([.arrayReform 32 0, .arrayReform 0 3, .latchCopy 32 0, .latchCopy 0 2, .arrayFault 32 0 1, .arrayFault 0 3 1, .arrayFault 0 0 0,
      .arrayFault 0 0 4, .arrayProgressTimeout 32 0, .arrayProgressTimeout 0 2, .wvColBypassWrite 32 0 0, .wvColBypassWrite 0 4 0,
      .slotReady 32 0 {} {}, .slotReady 0 16 {} {}, .slotFree 32 0 {}, .slotFree 0 16 {}, .rbBroadcastWrite 4096 0, .rbBroadcastWrite 2 0,
      .addF32 1 (List.replicate 16 0), .addF32 (2 ^ 52) (List.replicate 16 0), .addF32 0 [], .testSet 32 0, .testSet (2 ^ 52) 0, .testSet 0 512,
      .inc32 32 0, .inc32 (2 ^ 52) 0, .inc32 0 16, .scrub 768 0 {}, .scrub 0 32768 {}, .transferComplete 64 0 {}, .transferComplete 0 8 {},
      .stackTempRead 32 0, .stackTempRead 0 256, .parityRetry 32 0, .parityRetry 0 (2 ^ 52), .translation 66 0 0 false 0 0 0,
      .translation 0 64 0 false 0 0 0, .translation 0 0 (2 ^ 52) false 0 0 0, .translation 0 0 0 false 256 0 0,
      .translation 0 0 0 false 0 65536 0, .translation 0 0 0 false 0 0 16, .portTrainingDone 16 0, .portTrainingDone 0 65536,
      .laneAlignmentLoss 16 0, .laneAlignmentLoss 0 4, .tallyEventArrival 256 0 0, .tallyEventArrival 0 256 0, .junctionSensorRead [],
      .pmbusPoll []] : List Instr), i.wf = false := by decide +kernel

/-! ### Words and worked cases of the manual -/

/-- R242's worked case: FFMA v5 = v1 × v2 + v3 under predicate p2, in both directions, and an opcode that the table does not have. -/
theorem test_ffma_word :
    decodeRib 31 0x1314108340000000#64 = some (.ffma 31 { vd := 5, va := 1, vb := 2, vc := 3, pr := 2 }) ∧
    encodeRib (.ffma 31 { vd := 5, va := 1, vb := 2, vc := 3, pr := 2 }) = some 0x1314108340000000#64 ∧
    decodeRib 0 0xFF00000000000000#64 = none := by decide

theorem met_MemoryStaysCanonical : State.reset.mem.wf = true := by decide

/-- After reset no queue has a doorbell, and the command table is empty. -/
theorem met_DoorbellsAndNumbers : DoorbellsFit State.reset ∧ CommandsNumbered State.reset ∧ ∃ t, step State.reset = .next t := by
  have e : ∀ q, State.reset.queue q = {} := fun _ => rfl
  refine ⟨⟨fun q _ => ?_, ?_⟩, ⟨by decide, by decide⟩, _, rfl⟩
  · simp only [e]; decide
  · decide

end Sys2Proof.Tests
end

section
/-! The ring configuration of stake (R358): what ST_RING_CFG_WRITE and RING_CFG_APPLY do where they act, by whether the command table is
in use. -/

namespace Sys2Proof.Machine

/-! ### Shared operations -/

/-- A row whose conditions hold has its effect. -/
theorem when_of_true {c : Bool} (h : c = true) (s t : State) : when c s t = .next t := by
  simp [when, h]

theorem fld_one_zero (n : Nat) : fld n 1 0 = n % 4 := by
  simp [fld]

/-! ### The two rows -/

variable {s : State}

/-- CP_TABLE_USE reads 0: the write comes into force at once. -/
theorem execStRingCfgWrite_of_table_nil (v : Word) (hopen : s.windowOpen 3 = true) (htable : s.cp.table = []) :
    execStRingCfgWrite v s = .next (applyRing s (v.toNat % 4)) := by
  rw [execStRingCfgWrite, when_of_true hopen, fld_one_zero, if_pos (List.isEmpty_iff.mpr htable)]

/-- CP_TABLE_USE is nonzero: the write is held, and replaces one that is held already. -/
theorem execStRingCfgWrite_of_table_ne_nil (v : Word) (hopen : s.windowOpen 3 = true) (htable : s.cp.table ≠ []) :
    execStRingCfgWrite v s = .next { s with st := { s.st with pending := some (v.toNat % 4) } } := by
  rw [execStRingCfgWrite, when_of_true hopen, fld_one_zero, if_neg (mt List.isEmpty_iff.mp htable)]

/-- A held write comes into force once CP_TABLE_USE reads 0. -/
theorem execRingCfgApply_of_pending {n : Nat} (hclock : s.bd.divRun = true) (htable : s.cp.table = [])
    (hpending : s.st.pending = some n) : execRingCfgApply s = .next (applyRing s n) := by
  have hacts : (s.clocked && s.cp.table.isEmpty) = true := by simp [State.clocked, hclock, htable]
  simp only [execRingCfgApply, hpending, when_of_true hacts]

/-- Settles O29: `exec` runs each row, and a size that comes into force does so through `applyRing`, which empties the cache. -/
theorem ringConfiguration : Obligations.RingConfiguration := by
  refine ⟨fun v s hopen htable => ?atOnce, fun v s hopen htable => ?held, fun n s hclock htable hpending => ?whenFree⟩
  case atOnce => exact execStRingCfgWrite_of_table_nil v hopen htable
  case held => exact execStRingCfgWrite_of_table_ne_nil v hopen htable
  case whenFree => exact execRingCfgApply_of_pending hclock htable hpending

end Sys2Proof.Machine
end

section
/-! The control rows of Splint (R418 to R420): what zeroing a range leaves to be read, then what SPLINT_ENABLE, SPLINT_READY, SPLINT_DISABLE,
SEGMENT_STORE and SEGMENT_LOAD do where they act. -/

namespace Sys2Proof.Machine.Memory

/-! ### Reads of a zeroed range -/

/-- Keeping the cells of some addresses hides the others. -/
theorem lookup_filter_address (p : Nat → Bool) (l : List Host.Cell) (a : Nat) :
    lookup (l.filter (fun c => p c.1)) a = if p a = true then lookup l a else none := by
  induction l with
  | nil => simp [lookup]
  | cons c l ih =>
    obtain ⟨k, x⟩ := c
    by_cases hk : k = a
    · subst hk
      by_cases hp : p k = true <;> simp [lookup, hp, ih]
    · by_cases hp : p k = true <;> simp [lookup, hp, hk, ih]

/-- An address that lies in none of the undefined regions reads as zero where nothing is listed. -/
theorem undefRead_of_outside {us : List Undef} {a : Nat} (h : ∀ u ∈ us, a < u.lo ∨ u.hi ≤ a) : undefRead us a = 0#8 := by
  induction us with
  | nil => rfl
  | cons u us ih =>
    rw [List.forall_mem_cons] at h
    rw [undefRead, if_neg (by simp; omega), ih h.2]

theorem unlisted_blank_inside (m : Memory) {lo hi a : Nat} (hlo : lo ≤ a) (hhi : a < hi) : (m.blank lo hi).unlisted a = 0#8 := by
  refine undefRead_of_outside fun u hu => ?_
  obtain ⟨pieces, hpieces, hmem⟩ := List.mem_flatten.mp (List.mem_filter.mp hu).1
  obtain ⟨w, -, rfl⟩ := List.mem_map.mp hpieces
  simp only [List.mem_cons, List.not_mem_nil, or_false] at hmem
  rcases hmem with rfl | rfl
  · exact .inr (Nat.le_trans (Nat.min_le_right ..) hlo)
  · exact .inl (Nat.lt_of_lt_of_le hhi (Nat.le_max_right ..))

theorem read_zero_inside (m : Memory) {lo hi a : Nat} (hlo : lo ≤ a) (hhi : a < hi) : (m.zero lo hi).read a = 0#8 := by
  have hidden : lookup (m.zero lo hi).cells a = none := by
    have h := lookup_filter_address (fun k => k < lo || hi ≤ k) m.cells a
    rwa [if_neg (by simp; omega)] at h
  rw [read, hidden]
  exact unlisted_blank_inside m hlo hhi

theorem read_zero_outside (m : Memory) {lo hi a : Nat} (ha : a < lo ∨ hi ≤ a) : (m.zero lo hi).read a = m.read a := by
  have kept : lookup (m.zero lo hi).cells a = lookup m.cells a := by
    have h := lookup_filter_address (fun k => k < lo || hi ≤ k) m.cells a
    rwa [if_pos (by simpa using ha)] at h
  rw [read, read, kept]
  exact congrArg _ (blank_unlisted m lo hi a ha)

end Sys2Proof.Machine.Memory

namespace Sys2Proof.Machine

theorem bit_toNat (v : Word) (i : Nat) : bit v.toNat i = v.getLsbD i := by
  rw [bit, BitVec.getLsbD, Nat.testBit_eq_decide_div_mod_eq, Nat.shiftRight_eq_div_pow]
  rfl

/-! ### SP_CTRL: enable, ready, disable (R420) -/

variable {s : State} {v : Word}

@[simp] theorem spClear_enable (s : State) (n : Nat) : (spClear s n).sp.enable = s.sp.enable := rfl
@[simp] theorem spClear_mirrorBase (s : State) (n : Nat) : (spClear s n).sp.mirrorBase = s.sp.mirrorBase := rfl
@[simp] theorem spClear_missBase (s : State) (n : Nat) : (spClear s n).sp.missBase = s.sp.missBase := rfl
@[simp] theorem spClear_mem (s : State) (n : Nat) : (spClear s n).mem = s.mem := rfl
@[simp] theorem spClear_queue (s : State) (n q : Nat) : (spClear s n).queue q = s.queue q := rfl

theorem execSplintEnable_accepted (hopen : s.windowOpen 7 = true) (hone : v.getLsbD 0 = true) (henable : s.sp.enable = false)
    (hfits : s.sp.mirrorBase + mirrorSize ≤ stackEnd) (hmiss : s.sp.missBase ≠ 0) :
    execSplintEnable v s = .next { spClear s v.toNat with
      sp := { (spClear s v.toNat).sp with enable := true, initBusy := true },
      mem := s.mem.zero s.sp.mirrorBase (s.sp.mirrorBase + mirrorSize) } := by
  have hbit : bit v.toNat 0 = true := (bit_toNat v 0).trans hone
  simp [execSplintEnable, spOpen, hopen, hbit, henable, hfits, hmiss]

theorem execSplintEnable_refused (hopen : s.windowOpen 7 = true) (hone : v.getLsbD 0 = true) (henable : s.sp.enable = false)
    (hbad : stackEnd < s.sp.mirrorBase + mirrorSize ∨ s.sp.missBase = 0) :
    execSplintEnable v s = .next { spClear s v.toNat with sp := { (spClear s v.toNat).sp with enableErr := true } } := by
  have hbit : bit v.toNat 0 = true := (bit_toNat v 0).trans hone
  rcases hbad with hlong | hnone
  · simp [execSplintEnable, spOpen, hopen, hbit, henable, Nat.not_le.mpr hlong]
  · simp [execSplintEnable, spOpen, hopen, hbit, henable, hnone]

theorem execSplintReady_of_initBusy (hclock : s.bd.divRun = true) (henable : s.sp.enable = true) (hbusy : s.sp.initBusy = true) :
    execSplintReady s = .next { s with sp := { s.sp with initBusy := false, ready := true } } :=
  when_of_true (by simp [State.clocked, hclock, henable, hbusy]) ..

theorem execSplintDisable_accepted (hopen : s.windowOpen 7 = true) (hzero : v.getLsbD 0 = false) (henable : s.sp.enable = true)
    (hqueues : ∀ q, q < 256 → (s.queue q).st = .disabled) :
    execSplintDisable v s = .next { spClear s v.toNat with sp := { (spClear s v.toNat).sp with
      enable := false, ready := false, initBusy := false, roots := [], windows := [], tlbs := [], mirrors := [] } } := by
  have hbit : bit v.toNat 0 = false := (bit_toNat v 0).trans hzero
  have hall : (List.range 256).all (fun q => (s.queue q).st == .disabled) = true := by simpa using hqueues
  simp only [execSplintDisable, spOpen, spClear_enable, spClear_queue, hopen, hbit, henable, hall]
  rfl

theorem execSplintDisable_refused (hopen : s.windowOpen 7 = true) (hzero : v.getLsbD 0 = false) (henable : s.sp.enable = true)
    (hqueue : ∃ q, q < 256 ∧ (s.queue q).st ≠ .disabled) :
    execSplintDisable v s = .next { spClear s v.toNat with sp := { (spClear s v.toNat).sp with enableErr := true } } := by
  have hbit : bit v.toNat 0 = false := (bit_toNat v 0).trans hzero
  have hall : (List.range 256).all (fun q => (s.queue q).st == .disabled) = false := by simpa using hqueue
  simp only [execSplintDisable, spOpen, spClear_enable, spClear_queue, hopen, hbit, henable, hall]
  rfl

/-! ### SP_SEG_CTRL: store and load (R418, R419) -/

/-- The W1C bit of SP_SEG_CTRL (R418), which acts before the store and the load. -/
def segClear (s : State) (v : Word) : State := { s with sp := { s.sp with segRefused := s.sp.segRefused && !v.getLsbD 2 } }

theorem execSegmentStore_eq (hopen : s.windowOpen 7 = true) (hstore : v.getLsbD 0 = true) (hload : v.getLsbD 1 = false) :
    execSegmentStore v s = .next (storeSegment (segClear s v)) := by
  simp only [execSegmentStore, segCtrl, spOpen, bit_toNat, hopen, hstore, hload]
  rfl

theorem execSegmentLoad_eq (hopen : s.windowOpen 7 = true) (hstore : v.getLsbD 0 = false) (hload : v.getLsbD 1 = true) :
    execSegmentLoad v s = .next (loadSegment (segClear s v)) := by
  simp only [execSegmentLoad, segCtrl, spOpen, bit_toNat, hopen, hstore, hload]
  rfl

/-- The bit that reports a refusal takes no part in the checks of R419. -/
theorem storeRefused_segClear (s : State) (v : Word) : storeRefused (segClear s v) = storeRefused s := rfl

theorem storeSegment_of_refused (h : storeRefused s = true) : storeSegment s = { s with sp := { s.sp with segRefused := true } } := by
  simp [storeSegment, h]

theorem storeSegment_root (h : storeRefused s = false) (hroot : s.sp.selRoot = true) :
    storeSegment s = commitWithdraw s (.root s.sp.selCtx (if s.sp.segTarget = 0 then none else some s.sp.segTarget)) := by
  simp [storeSegment, h, hroot]

theorem storeSegment_segment (h : storeRefused s = false) (hroot : s.sp.selRoot = false) :
    storeSegment s = commitWithdraw s (.segment (s.sp.selCtx * 16 + s.sp.selSegment)
      (if s.sp.segLen = 0 then none else some ⟨s.sp.segVbase, s.sp.segTarget, s.sp.segLen⟩)) := by
  simp [storeSegment, h, hroot]

/-- The copy of the segments and roots is in memory alone. -/
theorem copySegments_frame (s : State) : copySegments s = { s with mem := (copySegments s).mem } := by
  unfold copySegments
  split <;> rfl

theorem commitWithdraw_root (s : State) (i : Nat) (r : Option Nat) : commitWithdraw s (.root i r) =
    { s with mem := (commitWithdraw s (.root i r)).mem, sp := { s.sp with roots := tset none s.sp.roots i r } } :=
  copySegments_frame _

theorem commitWithdraw_segment (s : State) (i : Nat) (g : Option Segment) : commitWithdraw s (.segment i g) =
    { s with mem := (commitWithdraw s (.segment i g)).mem, sp := { s.sp with segments := tset none s.sp.segments i g } } :=
  copySegments_frame _

/-- One entry of a table is the value just set, and every other is as before. -/
theorem tget_tset {α : Type} [DecidableEq α] (d : α) (t : List (Nat × α)) (i k : Nat) (x : α) :
    tget d (tset d t i x) k = if k = i then x else tget d t k := by
  split
  · next h => rw [h, tget_tset_same]
  · next h => exact tget_tset_other d t i k x h

theorem loadSegment_eq (s : State) : loadSegment s = { s with sp := { s.sp with
    segVbase := if s.sp.selRoot = true then 0 else
      ((tget none s.sp.segments (s.sp.selCtx * 16 + s.sp.selSegment)).map (fun g => g.vbase)).getD 0,
    segTarget := if s.sp.selRoot = true then (tget none s.sp.roots s.sp.selCtx).getD 0 else
      ((tget none s.sp.segments (s.sp.selCtx * 16 + s.sp.selSegment)).map (fun g => g.target)).getD 0,
    segLen := if s.sp.selRoot = true then 0 else
      ((tget none s.sp.segments (s.sp.selCtx * 16 + s.sp.selSegment)).map (fun g => g.length)).getD 0 } } := by
  cases hroot : s.sp.selRoot with
  | true => simp [loadSegment, hroot]
  | false => cases hentry : tget none s.sp.segments (s.sp.selCtx * 16 + s.sp.selSegment) <;> simp [loadSegment, hroot, hentry]

/-- R419: what an admitted store changes, by whether a root or a segment is selected. -/
theorem storeSegment_admitted (h : storeRefused s = false) :
    storeSegment s = { s with mem := (storeSegment s).mem, sp := { s.sp with
      segments := (storeSegment s).sp.segments, roots := (storeSegment s).sp.roots } } ∧
    (∀ k, tget none (storeSegment s).sp.segments k = if s.sp.selRoot = false ∧ k = s.sp.selCtx * 16 + s.sp.selSegment
      then (if s.sp.segLen = 0 then none else some ⟨s.sp.segVbase, s.sp.segTarget, s.sp.segLen⟩) else tget none s.sp.segments k) ∧
    (∀ k, tget none (storeSegment s).sp.roots k = if s.sp.selRoot = true ∧ k = s.sp.selCtx
      then (if s.sp.segTarget = 0 then none else some s.sp.segTarget) else tget none s.sp.roots k) := by
  cases hroot : s.sp.selRoot with
  | true =>
    rw [storeSegment_root h hroot, commitWithdraw_root]
    exact ⟨rfl, by simp, by simp [tget_tset]⟩
  | false =>
    rw [storeSegment_segment h hroot, commitWithdraw_segment]
    exact ⟨rfl, by simp [tget_tset], by simp⟩

/-- Settles O36: `exec` runs each row, whose equation in the case at hand names the next state; an accepted enable reads as zeros where
`Memory.zero` acted, and an admitted store is a `commitWithdraw`, which sets one entry of one table. -/
theorem splintControl : Obligations.SplintControl := by
  refine ⟨fun v s hopen hone henable hfits hmiss => ?enable, fun v s hopen hone henable hbad => ?enableRefused,
    fun s hclock henable hbusy => ?ready,
    fun v s hopen hzero henable => ⟨fun hqueues => ?disable, fun hqueue => ?disableRefused⟩,
    fun v s hopen hstore hload hadmit => ?store, fun v s hopen hstore hload hrefused => ?storeRefused,
    fun v s hopen hstore hload => ?load⟩
  case enable =>
    exact ⟨_, execSplintEnable_accepted hopen hone henable hfits hmiss, rfl, rfl, rfl,
      fun a hlo hhi => Memory.read_zero_inside s.mem hlo hhi, fun a ha => Memory.read_zero_outside s.mem ha, rfl⟩
  case enableRefused => exact ⟨_, execSplintEnable_refused hopen hone henable hbad, henable, rfl, rfl⟩
  case ready => exact execSplintReady_of_initBusy hclock henable hbusy
  case disable =>
    exact ⟨_, execSplintDisable_accepted hopen hzero henable hqueues, rfl, rfl, rfl, fun _ => rfl, rfl, rfl, rfl⟩
  case disableRefused => exact ⟨_, execSplintDisable_refused hopen hzero henable hqueue, henable, rfl, rfl⟩
  case store => exact ⟨_, execSegmentStore_eq hopen hstore hload, storeSegment_admitted ((storeRefused_segClear s v).trans hadmit)⟩
  case storeRefused =>
    rw [← storeRefused_segClear s v] at hrefused
    exact (execSegmentStore_eq hopen hstore hload).trans (congrArg _ (storeSegment_of_refused hrefused))
  case load => exact (execSegmentLoad_eq hopen hstore hload).trans (congrArg _ (loadSegment_eq (segClear s v)))

end Sys2Proof.Machine
end

section
/-! The configuration rows (R505 to R507, R517): first the rules of a command that starts, is decided or is rejected, then those of a
configuration set's fields, then what CFG_WRITE_SHADOW, CFG_SWAP and BD_CFG_DATA_WRITE do where they act. -/

namespace Sys2Proof.Machine

variable {s : State} {c : Cmd} {q op id code detail count : Nat}

/-! ### The start of a command -/

theorem startable_some (h : startable s q op = some c) : c.opcode = op ∧ c.status = none := by
  unfold startable at h
  split at h
  · next x hnext =>
    obtain ⟨hstart, hx⟩ := Option.ite_none_right_eq_some.mp h
    cases hx
    have hfound := List.find?_some hnext
    simp only [Bool.and_eq_true, decide_eq_true_eq, Option.isNone_iff_eq_none] at hstart hfound
    exact ⟨hstart.1.1, hfound.2⟩
  · cases h

theorem startCmd_of_starts (h : Starts s q op c) (f : State → Cmd → State) :
    startCmd s q op f = .next (f (begin_ s c) (begun s c)) := by
  simp only [startCmd, h.1]

/-- A change that keeps the number of a command is what its entry reads as. -/
theorem mapCmd_cmd?_same {f : Cmd → Cmd} (hf : ∀ x, (f x).id = x.id) : (s.mapCmd id f).cmd? id = (s.cmd? id).map f := by
  unfold State.cmd? State.mapCmd
  induction s.cp.table with
  | nil => rfl
  | cons x l ih => by_cases hx : x.id = id <;> simp_all

/-- What the effect of a start meets: the command's entry has begun, is undecided, and has no work and nothing to undo. -/
theorem begun_of_starts (h : Starts s q op c) : (begin_ s c).cmd? (begun s c).id = some (begun s c) ∧ (begun s c).opcode = op ∧
    (begun s c).status = none ∧ (begun s c).run = .none ∧ (begun s c).undo = [] := by
  obtain ⟨hstart, hentry, hrun, hundo⟩ := h
  obtain ⟨hop, hopen⟩ := startable_some hstart
  have hid : ∀ x, (begun s x).id = x.id := fun _ => rfl
  refine ⟨?_, hop, hopen, hrun, hundo⟩
  rw [begin_, hid, mapCmd_cmd?_same hid, hentry, Option.map_some]

/-! ### The decision of a status (R89, R91) -/

theorem haltQueue_frame (s : State) (q : Nat) : haltQueue s q = { s with cp := { s.cp with queues := (haltQueue s q).cp.queues } } := by
  unfold haltQueue
  dsimp only
  split <;> rfl

/-- A decision changes Plait alone. -/
theorem decideStatus_frame (s : State) (id code detail count : Nat) :
    decideStatus s id code detail count = { s with cp := (decideStatus s id code detail count).cp } := by
  unfold decideStatus
  split
  · rfl
  · dsimp only
    split
    · rfl
    · split
      · rfl
      · rw [haltQueue_frame]
        rfl

@[simp] theorem decideStatus_bd (s : State) (id code detail count : Nat) : (decideStatus s id code detail count).bd = s.bd := by
  rw [decideStatus_frame]
@[simp] theorem decideStatus_tl (s : State) (id code detail count : Nat) : (decideStatus s id code detail count).tl = s.tl := by
  rw [decideStatus_frame]
@[simp] theorem decideStatus_mem (s : State) (id code detail count : Nat) : (decideStatus s id code detail count).mem = s.mem := by
  rw [decideStatus_frame]

/-- The entry of a command whose status is decided at a time. -/
def Cmd.decidedAs (st : Status) (time : Nat) (c : Cmd) : Cmd := { c with status := some st, tDecided := time }

/-- A first decision leaves the rest of the command's entry as it was. -/
theorem decideStatus_cmd?_same (hc : s.cmd? id = some c) (hopen : c.status = none) :
    ∃ h, (decideStatus s id code detail count).cmd? id = some (c.decidedAs ⟨code, detail, count, h⟩ s.cp.time) := by
  obtain ⟨halts, htable⟩ : ∃ h, (decideStatus s id code detail count).cmd? id =
      (s.mapCmd id (Cmd.decidedAs ⟨code, detail, count, h⟩ s.cp.time)).cmd? id := by
    simp only [decideStatus, hc, hopen, Option.isSome_none, Bool.false_eq_true, if_false]
    split
    · exact ⟨_, rfl⟩
    · rw [haltQueue_frame]
      exact ⟨_, rfl⟩
  have hid : ∀ x, (Cmd.decidedAs ⟨code, detail, count, halts⟩ s.cp.time x).id = x.id := fun _ => rfl
  exact ⟨halts, by rw [htable, mapCmd_cmd?_same hid, hc, Option.map_some]⟩

/-! ### The end of a command with an error -/

theorem stopWork_cmd? (s : State) (id n : Nat) : (stopWork s id).cmd? n = s.cmd? n := rfl
theorem stopWork_bd (s : State) (id : Nat) : (stopWork s id).bd = s.bd := rfl

/-- An undecided command that has begun no work and written nothing, and that names no ring or group, has nothing to give back, to undo or to
tell: an error decides it and stops what waits for it. -/
theorem failCommand_of_idle (hc : s.cmd? id = some c) (hopen : c.status = none) (hrun : c.run = .none) (hundo : c.undo = [])
    (hfabric : c.fabric = .none) (hcode : code ≠ St.resetAbort) :
    failCommand s id code detail = stopWork (decideStatus (forgetOld s id) id code detail c.soFar) id := by
  have hkept : undoOutput s c code = s := by
    unfold undoOutput
    split
    · rfl
    · rw [hundo]
      rfl
  simp [failCommand, endWithLeave, endCommand, hc, hopen, releaseReaders, hrun, undoAdopt, hkept, leaveFabric, countAbort, hcode,
    leaveBoth, neighboursOf, hfabric]

/-- What such an error leaves: the command's status, and Border as it was. -/
theorem failCommand_of_idle_result (hc : s.cmd? id = some c) (hopen : c.status = none) (hrun : c.run = .none) (hundo : c.undo = [])
    (hfabric : c.fabric = .none) (hcode : code ≠ St.resetAbort) :
    (∃ d h, (failCommand s id code detail).cmd? id = some d ∧ d.status = some ⟨code, detail, c.soFar, h⟩) ∧
    (failCommand s id code detail).bd = s.bd := by
  rw [failCommand_of_idle hc hopen hrun hundo hfabric hcode, stopWork_cmd?, stopWork_bd]
  have hforgot : (forgetOld s id).cmd? id = some { c with undo := [] } := by
    rw [forgetOld, mapCmd_cmd?_same, hc]
    · rfl
    · exact fun _ => rfl
  obtain ⟨h, hdecided⟩ := decideStatus_cmd?_same (code := code) (detail := detail) (count := c.soFar) hforgot hopen
  refine ⟨⟨_, h, hdecided, rfl⟩, ?_⟩
  rw [decideStatus_bd]
  rfl

/-! ### The fields of a configuration set (R507) -/

theorem CfgSet.get_put_same (d : CfgSet) {id : Nat} (v : Nat) (h : id ∈ fieldIds) : (d.put id v).get id = v := by
  have hall : ∀ i ∈ fieldIds, (d.put i v).get i = v := by simp [fieldIds, put, get]
  exact hall id h

theorem CfgSet.get_put_other (d : CfgSet) {id j : Nat} (v : Nat) (h : j ≠ id) : (d.put id v).get j = d.get j := by
  unfold get
  split
  case h_21 => rfl
  all_goals
    unfold put
    split <;> trivial

/-- Fields stored one after another: the last value for a field is the one it holds, and a field not named keeps its own. -/
theorem CfgSet.get_foldl_put (ps : List (Nat × Nat)) (d : CfgSet) {id : Nat} (h : id ∈ fieldIds) :
    (ps.foldl (fun (e : CfgSet) p => e.put p.1 p.2) d).get id = ((ps.reverse.find? (fun p => p.1 == id)).map (·.2)).getD (d.get id) := by
  induction ps generalizing d with
  | nil => rfl
  | cons p ps ih =>
    rw [List.foldl_cons, ih, List.reverse_cons, List.find?_append]
    cases hlater : ps.reverse.find? (fun p => p.1 == id) with
    | some x => rfl
    | none =>
      by_cases hp : p.1 = id
      · subst hp
        simp [get_put_same _ _ h]
      · simp [get_put_other _ _ (Ne.symm hp), hp]

/-- Each field of the list takes a value of its own, and the others stay. -/
theorem CfgSet.get_foldl_put_each (f : Nat → Nat) (l : List Nat) (d : CfgSet) {id : Nat} (h : id ∈ fieldIds) :
    (l.foldl (fun (e : CfgSet) i => e.put i (f i)) d).get id = if id ∈ l then f id else d.get id := by
  induction l generalizing d with
  | nil => rfl
  | cons i l ih =>
    rw [List.foldl_cons, ih]
    by_cases hi : id = i
    · subst hi
      simp [get_put_same _ _ h]
    · simp [get_put_other _ _ hi, hi]

/-- R506: the set that a swap makes active holds each field at a legal value. -/
theorem clampedSet_get (d : CfgSet) {id : Nat} (h : id ∈ fieldIds) : (clampedSet d).get id = legalValue id (d.get id) :=
  (CfgSet.get_foldl_put_each _ fieldIds d h).trans (if_pos h)

/-- R506: the fields of a set that a swap replaces. -/
def illegalFields (d : CfgSet) : List Nat := fieldIds.filter (fun id => legalValue id (d.get id) != d.get id)

theorem illegalFields_length_le (d : CfgSet) : (illegalFields d).length ≤ 20 := List.length_filter_le ..

theorem clampEntries_eq (d : CfgSet) :
    clampEntries d = (illegalFields d).map (fun id => ⟨id, d.get id, legalValue id (d.get id)⟩) := by
  unfold clampEntries illegalFields
  induction fieldIds with
  | nil => rfl
  | cons id l ih => by_cases h : legalValue id (d.get id) = d.get id <;> simp [h, ih]

theorem clampEntries_length (d : CfgSet) : (clampEntries d).length = (illegalFields d).length := by
  rw [clampEntries_eq, List.length_map]

/-! ### The two sets (R504) -/

@[simp] theorem setShadow_shadow (s : State) (d : CfgSet) : (s.setShadow d).shadow = d := by
  cases h : s.bd.activeB <;> simp [State.setShadow, State.shadow, h]

@[simp] theorem setShadow_active (s : State) (d : CfgSet) : (s.setShadow d).active = s.active := by
  cases h : s.bd.activeB <;> simp [State.setShadow, State.active, h]

/-- A write of the shadow set changes one set of Border alone. -/
theorem setShadow_frame (s : State) (d : CfgSet) :
    s.setShadow d = { s with bd := { s.bd with setA := (s.setShadow d).bd.setA, setB := (s.setShadow d).bd.setB } } := by
  unfold State.setShadow
  split <;> rfl

@[simp] theorem setShadow_cp (s : State) (d : CfgSet) : (s.setShadow d).cp = s.cp := by
  rw [setShadow_frame]
@[simp] theorem setShadow_mem (s : State) (d : CfgSet) : (s.setShadow d).mem = s.mem := by
  rw [setShadow_frame]

/-- The sets are Border's: a state with the same Border has the same two. -/
theorem active_congr {t : State} (h : t.bd = s.bd) : t.active = s.active := by
  simp only [State.active, h]

theorem shadow_congr {t : State} (h : t.bd = s.bd) : t.shadow = s.shadow := by
  simp only [State.shadow, h]

/-- The command table is Plait's, and the slots are Tally's. -/
theorem cmd?_congr {t : State} (h : t.cp = s.cp) (id : Nat) : t.cmd? id = s.cmd? id := by
  simp only [State.cmd?, h]

theorem slot_congr {t : State} (h : t.tl = s.tl) (n : Nat) : t.slot n = s.slot n := by
  simp only [State.slot, h]

/-! ### The swap (R506) and the bins (R471) -/

theorem zeroBins_slot_bins (s : State) (n : Nat) : ((zeroBins s).slot n).bins = [] := by
  have hcleared : ∀ p ∈ (zeroBins s).tl.slots, p.2.bins = [] := by
    intro p hp
    obtain ⟨x, -, rfl⟩ := List.mem_map.mp (List.mem_filter.mp hp).1
    rfl
  unfold State.slot
  generalize (zeroBins s).tl.slots = l at hcleared
  induction l with
  | nil => rfl
  | cons p l ih =>
    obtain ⟨hp, hl⟩ := List.forall_mem_cons.mp hcleared
    rw [tget]
    split
    · exact hp
    · exact ih hl

/-- The state once the sets have changed places, the clamp log and the count with them, before R471. -/
def exchanged (s : State) : State :=
  let t := s.setShadow (clampedSet s.shadow)
  { t with bd := { t.bd with
    activeB := !t.bd.activeB, clampLog := (clampEntries s.shadow).take 64, swapCount := (t.bd.swapCount + 1) % 65536 } }

theorem exchanged_active (s : State) : (exchanged s).active = clampedSet s.shadow := by
  cases h : s.bd.activeB <;> simp [exchanged, State.setShadow, State.active, h]

theorem exchanged_shadow (s : State) : (exchanged s).shadow = s.active := by
  cases h : s.bd.activeB <;> simp [exchanged, State.setShadow, State.shadow, State.active, h]

/-- The change of places is Border's alone. -/
theorem exchanged_frame (s : State) : exchanged s = { s with bd := (exchanged s).bd } := by
  unfold exchanged
  rw [setShadow_frame]

theorem swapSets_eq (s : State) :
    swapSets s = if legalValue 0x31 (s.shadow.get 0x31) = s.active.get 0x31 then exchanged s else zeroBins (exchanged s) := by
  rw [← clampedSet_get s.shadow (by decide), ← exchanged_active]
  rfl

theorem swapSets_bd (s : State) : (swapSets s).bd = (exchanged s).bd := by
  rw [swapSets_eq]
  split <;> rfl

theorem swapSets_cp (s : State) : (swapSets s).cp = s.cp := by
  rw [swapSets_eq, exchanged_frame]
  split <;> rfl

theorem swapSets_mem (s : State) : (swapSets s).mem = s.mem := by
  rw [swapSets_eq, exchanged_frame]
  split <;> rfl

/-- R471: a swap that leaves hist_base as it was leaves every slot. -/
theorem swapSets_slots_of_histBase_eq (h : legalValue 0x31 (s.shadow.get 0x31) = s.active.get 0x31) :
    (swapSets s).tl.slots = s.tl.slots := by
  rw [swapSets_eq, if_pos h, exchanged_frame]

/-- R471: a swap that changes hist_base empties the bins of every slot. -/
theorem swapSets_bins_of_histBase_ne (h : legalValue 0x31 (s.shadow.get 0x31) ≠ s.active.get 0x31) (n : Nat) :
    ((swapSets s).slot n).bins = [] := by
  rw [swapSets_eq, if_neg h, zeroBins_slot_bins]

theorem swapSets_active (s : State) : (swapSets s).active = clampedSet s.shadow :=
  (active_congr (swapSets_bd s)).trans (exchanged_active s)

theorem swapSets_shadow (s : State) : (swapSets s).shadow = s.active :=
  (shadow_congr (swapSets_bd s)).trans (exchanged_shadow s)

theorem swapSets_swapCount (s : State) : (swapSets s).bd.swapCount = (s.bd.swapCount + 1) % 65536 := by
  rw [swapSets_bd, exchanged, setShadow_frame]

/-- R506: the clamp log has room for every field. -/
theorem swapSets_clampLog (s : State) : (swapSets s).bd.clampLog = clampEntries s.shadow := by
  have hroom : (clampEntries s.shadow).length ≤ 64 := by
    rw [clampEntries_length]
    exact Nat.le_trans (illegalFields_length_le _) (by decide)
  rw [swapSets_bd]
  exact List.take_of_length_le hroom

/-! ### CFG_SWAP -/

/-- R506: the swap is decided by the number of fields replaced. -/
theorem cfgSwapStep_eq (s : State) (c : Cmd) : cfgSwapStep s c = decideStatus (swapSets s) c.id (if illegalFields s.shadow = [] then 0 else 1)
    (if illegalFields s.shadow = [] then 0 else min (illegalFields s.shadow).length 64) (illegalFields s.shadow).length := by
  rw [cfgSwapStep, clampEntries_length]
  by_cases h : illegalFields s.shadow = []
  · simp only [h, List.length_nil, if_true]
    rfl
  · simp only [h, List.length_eq_zero_iff, if_false]

theorem cfgSwapStep_status (hc : s.cmd? c.id = some c) (hopen : c.status = none) :
    ∃ d h, (cfgSwapStep s c).cmd? c.id = some d ∧ d.status = some ⟨if illegalFields s.shadow = [] then 0 else 1,
      if illegalFields s.shadow = [] then 0 else min (illegalFields s.shadow).length 64, (illegalFields s.shadow).length, h⟩ := by
  rw [cfgSwapStep_eq]
  obtain ⟨h, hdecided⟩ := decideStatus_cmd?_same ((cmd?_congr (swapSets_cp s) c.id).trans hc) hopen
  exact ⟨_, h, hdecided, rfl⟩

theorem cfgSwapStep_bd (s : State) (c : Cmd) : (cfgSwapStep s c).bd = (swapSets s).bd := by
  rw [cfgSwapStep_eq, decideStatus_bd]

theorem cfgSwapStep_tl (s : State) (c : Cmd) : (cfgSwapStep s c).tl = (swapSets s).tl := by
  rw [cfgSwapStep_eq, decideStatus_tl]

theorem cfgSwapStep_mem (s : State) (c : Cmd) : (cfgSwapStep s c).mem = s.mem := by
  rw [cfgSwapStep_eq, decideStatus_mem, swapSets_mem]

theorem cfgSwapStep_active_get (s : State) (c : Cmd) (hid : id ∈ fieldIds) :
    (cfgSwapStep s c).active.get id = legalValue id (s.shadow.get id) := by
  rw [active_congr (cfgSwapStep_bd s c), swapSets_active, clampedSet_get _ hid]

theorem cfgSwapStep_shadow (s : State) (c : Cmd) : (cfgSwapStep s c).shadow = s.active := by
  rw [shadow_congr (cfgSwapStep_bd s c), swapSets_shadow]

theorem cfgSwapStep_swapCount (s : State) (c : Cmd) : (cfgSwapStep s c).bd.swapCount = (s.bd.swapCount + 1) % 65536 := by
  rw [cfgSwapStep_bd, swapSets_swapCount]

theorem cfgSwapStep_clampLog (s : State) (c : Cmd) : (cfgSwapStep s c).bd.clampLog =
    (illegalFields s.shadow).map (fun id => ⟨id, s.shadow.get id, legalValue id (s.shadow.get id)⟩) := by
  rw [cfgSwapStep_bd, swapSets_clampLog, clampEntries_eq]

theorem cfgSwapStep_slots_of_histBase_eq (c : Cmd) (h : legalValue 0x31 (s.shadow.get 0x31) = s.active.get 0x31) :
    (cfgSwapStep s c).tl.slots = s.tl.slots := by
  rw [cfgSwapStep_tl, swapSets_slots_of_histBase_eq h]

theorem cfgSwapStep_bins_of_histBase_ne (c : Cmd) (h : legalValue 0x31 (s.shadow.get 0x31) ≠ s.active.get 0x31) (n k : Nat) :
    tget 0 ((cfgSwapStep s c).slot n).bins k = 0 := by
  rw [slot_congr (cfgSwapStep_tl s c), swapSets_bins_of_histBase_ne h]
  rfl

/-! ### CFG_WRITE_SHADOW (R505) -/

theorem cfgWriteShadowStep_listed (h : ∀ p ∈ shadowPairs c, p.1 ∈ fieldIds) : cfgWriteShadowStep s c =
    succeed (s.setShadow ((shadowPairs c).foldl (fun (d : CfgSet) p => d.put p.1 p.2) s.shadow)) c :=
  if_neg (by simpa using h)

theorem cfgWriteShadowStep_unlisted (h : ∃ p ∈ shadowPairs c, p.1 ∉ fieldIds) : cfgWriteShadowStep s c = reject s c 0x0501 :=
  if_pos (by simpa using h)

section
variable (hlisted : ∀ p ∈ shadowPairs c, p.1 ∈ fieldIds)
include hlisted

theorem cfgWriteShadowStep_status (hc : s.cmd? c.id = some c) (hopen : c.status = none) :
    ∃ h, (cfgWriteShadowStep s c).cmd? c.id = some (c.decidedAs ⟨0, 0, 0, h⟩ s.cp.time) := by
  rw [cfgWriteShadowStep_listed hlisted, succeed, ← setShadow_cp s]
  exact decideStatus_cmd?_same ((cmd?_congr (setShadow_cp s _) c.id).trans hc) hopen

theorem cfgWriteShadowStep_active : (cfgWriteShadowStep s c).active = s.active := by
  rw [cfgWriteShadowStep_listed hlisted, succeed, active_congr (decideStatus_bd ..), setShadow_active]

theorem cfgWriteShadowStep_shadow_get (hid : id ∈ fieldIds) : (cfgWriteShadowStep s c).shadow.get id =
    (((shadowPairs c).reverse.find? (fun p => p.1 == id)).map (·.2)).getD (s.shadow.get id) := by
  rw [cfgWriteShadowStep_listed hlisted, succeed, shadow_congr (decideStatus_bd ..), setShadow_shadow, CfgSet.get_foldl_put _ _ hid]

theorem cfgWriteShadowStep_mem : (cfgWriteShadowStep s c).mem = s.mem := by
  rw [cfgWriteShadowStep_listed hlisted, succeed, decideStatus_mem, setShadow_mem]

end

/-- R505: a field that R507 does not list ends the command with 0x0501, and Border keeps both sets. -/
theorem cfgWriteShadowStep_rejected (hunlisted : ∃ p ∈ shadowPairs c, p.1 ∉ fieldIds) (hop : c.opcode = 0x60) (hc : s.cmd? c.id = some c)
    (hopen : c.status = none) (hrun : c.run = .none) (hundo : c.undo = []) :
    (∃ d h, (cfgWriteShadowStep s c).cmd? c.id = some d ∧ d.status = some ⟨0x10, 0x0501, 0, h⟩) ∧ (cfgWriteShadowStep s c).bd = s.bd := by
  have hfabric : c.fabric = .none := by simp [Cmd.fabric, hop, hrun]
  have hcount : c.soFar = 0 := by simp [Cmd.soFar, hop, hrun]
  rw [cfgWriteShadowStep_unlisted hunlisted, ← hcount]
  exact failCommand_of_idle_result hc hopen hrun hundo hfabric (by decide)

/-! ### BD_CFG_DATA_WRITE (R505, R517) -/

theorem execBdCfgDataWrite_stored (v : Word) (hopen : s.windowOpen 10 = true) (hset : s.bd.cfgSelB ≠ s.bd.activeB)
    (hfield : s.bd.cfgSelField ∈ fieldIds) :
    execBdCfgDataWrite v s = .next (s.setShadow (s.shadow.put s.bd.cfgSelField v.toNat)) := by
  rw [execBdCfgDataWrite, when_of_true hopen, writeCfgData, if_neg (by simp [hset, hfield])]

theorem execBdCfgDataWrite_refused (v : Word) (hopen : s.windowOpen 10 = true)
    (h : s.bd.cfgSelB = s.bd.activeB ∨ s.bd.cfgSelField ∉ fieldIds) :
    execBdCfgDataWrite v s = .next { s with bd := { s.bd with cfgRefused := true } } := by
  rw [execBdCfgDataWrite, when_of_true hopen, writeCfgData, if_pos (by simpa using h)]

/-- Settles O46: `exec` runs each row; a command that starts is judged in the state in which it has begun, whose sets, slots and memory are
those before, and a fold of `CfgSet.put` is read back a field at a time. -/
theorem configurationSwaps : Obligations.ConfigurationSwaps := by
  refine ⟨fun s q c hstarts hlisted => ?stored, fun s q c hstarts hunlisted => ?rejected, fun s q c hstarts => ?swap,
    fun v s hopen hset hfield => ?written, fun v s hopen hrefused => execBdCfgDataWrite_refused v hopen hrefused⟩
  case stored =>
    have hlisted : ∀ p ∈ shadowPairs (begun s c), p.1 ∈ fieldIds := hlisted
    obtain ⟨hc, -, hopen, -, -⟩ := begun_of_starts hstarts
    obtain ⟨h, hdecided⟩ := cfgWriteShadowStep_status hlisted hc hopen
    exact ⟨_, startCmd_of_starts hstarts cfgWriteShadowStep, ⟨_, hdecided, rfl, rfl, rfl, rfl, h, rfl⟩, cfgWriteShadowStep_active hlisted,
      fun id hid => cfgWriteShadowStep_shadow_get hlisted hid, cfgWriteShadowStep_mem hlisted⟩
  case rejected =>
    have hunlisted : ∃ p ∈ shadowPairs (begun s c), p.1 ∉ fieldIds := hunlisted
    obtain ⟨hc, hop, hopen, hrun, hundo⟩ := begun_of_starts hstarts
    obtain ⟨⟨d, h, hd, hstatus⟩, hbd⟩ := cfgWriteShadowStep_rejected hunlisted hop hc hopen hrun hundo
    exact ⟨_, d, h, startCmd_of_starts hstarts cfgWriteShadowStep, hd, hstatus, active_congr hbd, shadow_congr hbd⟩
  case swap =>
    obtain ⟨hc, -, hopen, -, -⟩ := begun_of_starts hstarts
    obtain ⟨d, h, hd, hstatus⟩ := cfgSwapStep_status hc hopen
    have hshadow : (begin_ s c).shadow = s.shadow := shadow_congr rfl
    have hactive : (begin_ s c).active = s.active := active_congr rfl
    refine ⟨cfgSwapStep (begin_ s c) (begun s c), d, h, startCmd_of_starts hstarts cfgSwapStep, hd, hstatus, ?_⟩
    rw [← hshadow, ← hactive]
    exact ⟨fun id hid => cfgSwapStep_active_get _ _ hid, cfgSwapStep_shadow _ _, cfgSwapStep_swapCount _ _, cfgSwapStep_clampLog _ _,
      ⟨cfgSwapStep_slots_of_histBase_eq _, cfgSwapStep_bins_of_histBase_ne _⟩, cfgSwapStep_mem _ _⟩
  case written =>
    refine ⟨_, execBdCfgDataWrite_stored v hopen hset hfield, setShadow_active .., ?field, fun id _ hne => ?others⟩
    case field => rw [setShadow_shadow, CfgSet.get_put_same _ _ hfield]
    case others => rw [setShadow_shadow, CfgSet.get_put_other _ _ hne]

end Sys2Proof.Machine
end
